-- ==== Sys2Proof/Word.lean ====
section
/-!
DEFINITION. Word.lean: the word types of the Calyan module and the one container for sparse data.
Bits are numbered from 0 at the least significant bit, and multi-byte fields are little-endian (R10).
-/
namespace Sys2Proof

/-- One byte. -/
abbrev Byte := BitVec 8
/-- One 32-bit register word (R516) and the bits of one FP32 value (R38). -/
abbrev Word := BitVec 32
/-- One 64-bit word: a scalar register (R144), a timestamp (R344). -/
abbrev Dword := BitVec 64
/-- The bits of an FP32 value. -/
abbrev F32 := BitVec 32
/-- Sparse data by key: addresses or indexes strictly rising, no entry equal to what an unlisted key reads as. -/
abbrev Tab (α : Type) := List (Nat × α)

end Sys2Proof
end

