-- ==== Sys2Proof/Syntax.lean ====
section
/-!
DEFINITION. Syntax.lean: the commands of the Calyan module, one constructor of Instr per row of spec/opcode_table.json.
An operand field has the width the spec gives it, so that a value outside its range can be written and is refused by the
meaning, as the module refuses it. Events of the module's own engines are rows too: their operands are what the spec
says the outside or the elapsed time brings (a temperature, a lateness, an error found).
-/
namespace Sys2Proof

/-- The 16 bytes before the operands of a native command (R157, R159, R160), with the queue whose ring holds it. -/
structure Hdr where
  queue : BitVec 20
  engine : Byte
  fence : Bool
  trace : Bool
  mark : Word
  waitTok : Byte
  waitCnt : Byte
  sigTok : Byte
  sigCnt : Byte
  sigRemote : Bool
  sigCore : BitVec 7
  targetValid : Bool
  targetCore : BitVec 7
  deriving DecidableEq, Repr

/-- Where a started or held command stands on a core: an engine queue, a stream descriptor's pending list, a thread. -/
inductive Place where
  | matrix | vector | sparse
  | stream (d : BitVec 6)
  | thread (t : BitVec 4)
  deriving DecidableEq, Repr

/-- Operand bytes of a scalar command (R165); BRANCH_SCALAR uses the same source fields (R173). -/
structure ScalarOps where
  dst : BitVec 5
  srcA : Byte
  srcB : Byte
  cond : Byte
  imm : Dword
  deriving DecidableEq, Repr

/-- One silent error of the array (R78 to R81): the output row and column and what it adds to the sum before tile scaling. -/
structure Upset where
  row : Nat
  col : Nat
  delta : Int
  pass : Nat
  deriving DecidableEq, Repr

/-- Operand bytes of PRODUCT (R162), and the silent errors of the array in this run (none on sound hardware). -/
structure ProductOps where
  xFromSp : Bool
  xReg : BitVec 4
  xTranspose : Bool
  wTranspose : Bool
  wReg : BitVec 4
  accumulate : Bool
  quadrant : BitVec 2
  acc : BitVec 2
  xFormat : Byte
  wFormat : Byte
  rows : BitVec 16
  xRow : BitVec 21
  xScale : F32
  upsets : List Upset
  deriving DecidableEq, Repr

/-- Operand bytes of SPARSE_PRODUCT (R244): those of PRODUCT, the sparse format, the metadata row, and for CHECK the register (R242). -/
structure SparseOps where
  product : ProductOps
  sparseFormat : BitVec 3
  metaRow : BitVec 21
  reg : BitVec 5
  deriving DecidableEq, Repr

/-- Operand bytes of a sparse ENCODE (R237). -/
structure EncodeOps where
  srcRow : BitVec 21
  metaRow : BitVec 21
  bodyRow : BitVec 21
  sparseFormat : BitVec 3
  valueFormat : Byte
  srcFormat : Byte
  kspanLog2 : BitVec 4
  slot : Byte
  round : BitVec 2
  tensorId : BitVec 16
  tileIndex : BitVec 24
  deriving DecidableEq, Repr

/-- Bytes 48 to 63 of a SLOT_SETUP (R164); reserved says that a reserved bit of them is set. -/
structure SetupOps where
  slot : Byte
  mode : BitVec 2
  target : BitVec 2
  owner : BitVec 2
  hasInit : Bool
  headroom : BitVec 3
  initExp : Byte
  reserved : Bool
  deriving DecidableEq, Repr

/-- Operand bytes of a vector command (R163). -/
structure VecOps where
  d : Word
  a : Word
  b : Word
  c : Word
  formatOut : Byte
  round : Byte
  slot : Byte
  cond : Byte
  rows : BitVec 16
  tensorId : BitVec 16
  tileIndex : BitVec 24
  srcFormat : Byte
  imm : F32
  deriving DecidableEq, Repr

/-- Operand bytes of LOOP (R167). -/
structure LoopOps where
  countSrc : Byte
  countImm : Word
  body : BitVec 16
  deriving DecidableEq, Repr

/-- Operand bytes of BRANCH_TENSOR (R174). -/
structure BranchTensorOps where
  srcB : Byte
  cond : Byte
  offset : Word
  imm : Dword
  spec : Word
  redOp : Byte
  scope : Byte
  reg : Byte
  deriving DecidableEq, Repr

/-- Operand bytes of GRAD_EMIT (R176, R370). -/
structure GradOps where
  port : BitVec 2
  transpose : Bool
  source : Word
  tensorId : BitVec 16
  tileIndex : BitVec 24
  deriving DecidableEq, Repr

/-- A mailbox request as it stands in the request area (R501): header STATUS, LENGTH, TAG and the payload bytes. trap: the fault code of a trap
of the head-keeper core that serves it, 0 where it does not trap (R477). -/
structure Req where
  status : BitVec 16
  length : Word
  tag : Dword
  payload : List Byte
  trap : BitVec 16 := 0
  deriving DecidableEq, Repr

/-- A tow message as the receiving port takes it (R418), with the port, the sender's PBR ID, the transaction tag, and
what the link reports of it: a byte that landed twice (R420), CXL poison (R426). -/
structure Tow where
  port : BitVec 2
  typ : Byte
  flags : Byte
  length : BitVec 16
  jobTag : BitVec 16
  src : BitVec 16
  dst : BitVec 16
  slot : BitVec 16
  step : Word
  mark : Word
  seq : Word
  key : Dword
  body : List Byte
  payload : List Byte
  pbr : BitVec 12
  tag : BitVec 16
  twice : Bool
  poison : Bool
  deriving DecidableEq, Repr

/-- One error that a stack controller's scrub meets (R274, R275): kind 0, a line of a page of the stack. Errors of the storage of the stack's site
come with it (R273, R441): kind 1, a physical row of its scratchpad (line); 2 and 3, a row (line) of a tile register or an accumulator (page). -/
structure ScrubHit where
  kind : Byte := 0
  page : Nat
  line : Nat
  uncorrectable : Bool
  deriving DecidableEq, Repr

/-- What the governor reads at one decision (R550): temperatures by reach in 1/16 °C, module power, input current in 1/16 A,
blade currents in A, coolant flow in 1/16 L/min and inlet in 1/16 °C. -/
structure GovIn where
  temps : List (Nat × Int)
  power : Nat
  current : Nat
  bladeA : Nat
  bladeB : Nat
  flow : Nat
  inlet : Int
  deriving DecidableEq, Repr

/-- Why a reach is taken off as planned: heat, the loss of its PLL's lock, or a request of its keeper (R345, R355, R489). -/
inductive OffCause where
  | heat | pll | request
  deriving DecidableEq, Repr

/-- A write of the host to an MSI-X mask: a vector's own, or the function's where vector is none; mask says whether it is set or cleared (R408). -/
structure MsixWrite where
  vector : Option (BitVec 7)
  mask : Bool := false
  deriving DecidableEq, Repr

/-- An SPDM message over DOE: on H0, or on a fabric port; ide says that it is IDE_KM's K_SET_GO (true) or K_SET_STOP, as the session's keys
decipher it (R405, R413, R498). -/
structure SpdmReq where
  port : Option (BitVec 2) := none
  ide : Option Bool := none
  msg : List Byte
  deriving DecidableEq, Repr

/-- What an arbiter sees in the cycle of a grant: its requesters; at a router output, per class the inputs and virtual channels that feed it
(class, 2 · input + VC); and whether the window counter wraps in the cycle of the first transfer (R346 to R348, R350). -/
structure ArbIn where
  requests : BitVec 16
  feeds : List (Nat × Nat) := []
  wraps : Bool := false
  deriving DecidableEq, Repr

/-- The commands: one constructor per row of spec/opcode_table.json, in its order. -/
inductive Instr where
  -- scalar class (R165, R570, R316)
  | mov (h : Hdr) (o : ScalarOps) | add (h : Hdr) (o : ScalarOps) | sub (h : Hdr) (o : ScalarOps)
  | mul (h : Hdr) (o : ScalarOps) | bitAnd (h : Hdr) (o : ScalarOps) | bitOr (h : Hdr) (o : ScalarOps)
  | bitXor (h : Hdr) (o : ScalarOps) | shl (h : Hdr) (o : ScalarOps) | shr (h : Hdr) (o : ScalarOps)
  | sra (h : Hdr) (o : ScalarOps) | setCond (h : Hdr) (o : ScalarOps) | fadd (h : Hdr) (o : ScalarOps)
  | fmul (h : Hdr) (o : ScalarOps) | fset (h : Hdr) (o : ScalarOps)
  | scalarLoad (h : Hdr) (o : ScalarOps) | scalarStore (h : Hdr) (o : ScalarOps)
  -- matrix class (R162, R244, R237, R242, R164)
  | product (h : Hdr) (o : ProductOps) | sparseProduct (h : Hdr) (o : SparseOps)
  | sparseEncode (h : Hdr) (o : EncodeOps) | sparseCheck (h : Hdr) (o : SparseOps)
  | sparseSlotSetup (h : Hdr) (o : SetupOps)
  -- vector class (R163)
  | vadd (h : Hdr) (o : VecOps) | vsub (h : Hdr) (o : VecOps) | vmul (h : Hdr) (o : VecOps) | vfma (h : Hdr) (o : VecOps)
  | vmin (h : Hdr) (o : VecOps) | vmax (h : Hdr) (o : VecOps) | vabs (h : Hdr) (o : VecOps) | vneg (h : Hdr) (o : VecOps)
  | vsel (h : Hdr) (o : VecOps) | vcmp (h : Hdr) (o : VecOps) | vexp2 (h : Hdr) (o : VecOps) | vlog2 (h : Hdr) (o : VecOps)
  | vrsqrt (h : Hdr) (o : VecOps) | vrecip (h : Hdr) (o : VecOps) | vtanh (h : Hdr) (o : VecOps) | vred (h : Hdr) (o : VecOps)
  | cvt (h : Hdr) (o : VecOps) | vectorSlotSetup (h : Hdr) (o : SetupOps)
  -- stream class (R296)
  | descLoad (h : Hdr) (desc : BitVec 6) (row : BitVec 21) | admitStream (h : Hdr) (desc : BitVec 6) (reg : BitVec 5)
  | nextUnit (h : Hdr) (desc : BitVec 6) | run (h : Hdr) (desc : BitVec 6) | retire (h : Hdr) (desc : BitVec 6)
  | streamSlotSetup (h : Hdr) (o : SetupOps) | streamUnitComplete (site : BitVec 7) (desc : BitVec 6) (late : Nat)
  -- sync class (R191)
  | wait (h : Hdr) | yieldQueue (h : Hdr) | barrier (h : Hdr) | barrierRelease (ctx : BitVec 6) (thread : BitVec 4)
  | layer (h : Hdr) (id : BitVec 16) (direction : Byte) | stepBegin (h : Hdr)
  -- call, loop, branch and reduce classes (R177, R167, R173, R174, R176, R370)
  | call (h : Hdr) (offset : Word) | returnCmd (h : Hdr) | enter (h : Hdr) (entry : Word) (handle : Dword) | exitCmd (h : Hdr)
  | loop (h : Hdr) (o : LoopOps) | branchScalar (h : Hdr) (o : ScalarOps) (offset : Word)
  | branchTensor (h : Hdr) (o : BranchTensorOps) | scalarReduce (h : Hdr) (dst src : Byte) (op : Byte)
  | gradEmit (h : Hdr) (o : GradOps)
  -- sync-token events (R93 to R95)
  | tokenWaitMet (site : BitVec 7) (place : Place) | engineCommandRetire (site : BitVec 7) (place : Place)
  | remoteSignalArrival (src dst : BitVec 7) (ctx : BitVec 6) | syncTimeout (site : BitVec 7) (place : Place)
  -- Ronora routines, arguments in S0 to S7 (R196, R209)
  | tileProduct (h : Hdr) | stripProduct (h : Hdr) | chainProduct (h : Hdr)
  | attnWindowFwd (h : Hdr) | attnWindowBwd (h : Hdr) | attnGlobalFwd (h : Hdr) | attnGlobalBwd (h : Hdr)
  | rmsnormFwd (h : Hdr) | rmsnormBwd (h : Hdr) | layernormFwd (h : Hdr) | layernormBwd (h : Hdr)
  | softmaxFwd (h : Hdr) | softmaxBwd (h : Hdr) | quant (h : Hdr) | dequant (h : Hdr) | transcode (h : Hdr)
  | rowReduce (h : Hdr) | layoutReduce (h : Hdr) | tensorNorm2 (h : Hdr) | sparseProductRoutine (h : Hdr)
  | selfCheck (h : Hdr) (failing : List Nat) (firstVector : Word) | libInfo (h : Hdr)
  -- queues and doorbells (R185, R530)
  | doorbellWrite (queue : BitVec 20) (size : Byte) (high : Bool) (value : Dword)
  | qsCreate (queue : BitVec 20) | qsRestart (queue : BitVec 20) | qsDisable (queue : BitVec 20)
  | qsEnable (queue : BitVec 20) | qsDestroy (queue : BitVec 20) | qsCmdDone | qsPeek (queue : BitVec 20)
  -- windows (R282 to R284)
  | wtOpen (site : BitVec 7) (window : BitVec 6) | wtClose (site : BitVec 7) (window : BitVec 6)
  | wtDrain (site : BitVec 7) (window : BitVec 6) | wtAbort (site : BitVec 7) (window : BitVec 6)
  | windowWrite (port : BitVec 2) (core : BitVec 7) (window : BitVec 6) (offset : Nat) (data : List Byte) (src : BitVec 12) (tag : BitVec 16) (poison : Bool)
  | windowRead (port : BitVec 2) (core : BitVec 7) (window : BitVec 6) (offset len : Nat) (src : BitVec 12) (tag : BitVec 16)
  | windowWriteLanded (site : BitVec 7) (window : BitVec 6)
  -- the crossbar word view (R321, R322)
  | xbarSet (site : BitVec 7) (value : Bool) | xbarWordRead (site : BitVec 7) | xbarWordWrite (site : BitVec 7) (value : Word)
  -- register pages (R512 to R525, R565)
  | shadowCommit (reach : BitVec 7) (page : BitVec 6) | shadowCommitEffect (reach : BitVec 7) (page : BitVec 6)
  | faultClear (reach : BitVec 7) (page : BitVec 6) | irqStatusClear (reach : BitVec 7) (page : BitVec 6) (value : Word)
  | counterReadClear (reach : BitVec 7) (page : BitVec 6) (offset : BitVec 12) | timestampRead (reach : BitVec 7)
  | registerWrite (addr : BitVec 26) (size : Byte) (value : Dword)
  -- the commit page (R364, R394, R402, R459, R460, R536)
  | stepArm | stepDisarm | resolveCommit | resolveDiscard (suspect : BitVec 12) | prime
  | secureStart (full : Bool) | secureSent | secureSeal | digestSelect (kind : Bool) (module : BitVec 12)
  -- host and fabric ports (R434, R438, R410 to R412, R408)
  | fpBarrier (port : BitVec 2) (id : Word) | fabricPortEnable (port : BitVec 2) | hdmEnable | hdmDisable
  | hdmAccess (offset : Nat) (write : Bool) (data : List Byte) | backInvalidateResponse (line : Nat) (data : List Byte)
  | msixUnmask (w : MsixWrite)
  -- pegs (R504 to R506)
  | pgTrigger | pegInEdge | pegLatch | pgRelease | autoRelease
  -- warm reset and tally access (R489, R540)
  | btReset (value : Word) | tlSel (region : BitVec 3) (index : BitVec 20) | tlDataNext | tallyLoadDone
  -- the mailbox (R501 to R503)
  | mailboxStatusClear | imagePush (r : Req) | imageWriteDone | identityRead (r : Req) | tallyRead (r : Req) | reset (r : Req)
  | contextCreate (r : Req) | contextEnd (r : Req) | contextReleased (ctx : BitVec 6) | alloc (r : Req) | free (r : Req)
  | fabricMap (r : Req) | load (r : Req) (image : List Byte) | jobRecord (r : Req) | shardRecord (r : Req)
  | restore (r : Req) (remote : List Byte) | moduleRing (r : Req)
  -- tow messages and the rings (R375, R419 to R437)
  | gradChunk (m : Tow) | ringAdd (port : BitVec 2) | ringCreditWrite (port : BitVec 2) (count : Dword)
  | weightRequest (m : Tow) | weightData (m : Tow) | commitVote (m : Tow) | commit (m : Tow) | barrierMessage (m : Tow)
  | pegMessage (m : Tow) | mirrorWrite (m : Tow) | parityWrite (m : Tow) | replayRequest (m : Tow) | digest (m : Tow)
  | windowOpen (m : Tow) | windowClose (m : Tow)
  | refusalRecord (port : BitVec 2) (code tag : BitVec 16) (mark : Word) (addr : Dword)
  | peerAbort (port : BitVec 2) (tag : BitVec 16) (mark : Word)
  | feederFetch (port : BitVec 2) | weightMulticast (port : BitVec 2) (late : Nat)
  | multicastAck (group : BitVec 4) (source : BitVec 7) (mask : BitVec 77)
  | reductionCombine (port : BitVec 2) (level index : Nat) | mangleChunk (port : BitVec 2) | pressApply (port : BitVec 2)
  | groupChainEnd (group : Byte)
  -- the vote and the replay (R391, R397, R448)
  | voteCast (busy : List Nat) | voteTimeout | replayDone
  -- memory (R265, R268, R281)
  | heatEpoch (counts : List (Nat × Nat × Nat)) | pageMoveDone (ok : Bool) | stackOffline (site : BitVec 7) (place : Place)
  -- faults and the risk monitor (R443, R445, R453)
  | faultRecord | faultAggregate | riskTick
  -- lock arbiters (R347 to R350)
  | lockWindowWrap (reach : BitVec 7) (page : BitVec 6) | arbiterGrant (reach : BitVec 7) (page : BitVec 6) (a : ArbIn)
  | arbiterWithdrawal (reach : BitVec 7) (page : BitVec 6)
  -- mesh and reach states (R327 to R358)
  | linkRetry (reach : BitVec 7) (dir : BitVec 2) (seq : Byte) | elasticSlip (reach : BitVec 7) (dir : BitVec 2)
  | routeRebuildStart | routeDrainDone | plannedOff (reach : BitVec 7) (why : OffCause) | clockLoss (reach : BitVec 7) (dir : BitVec 2)
  | supplyTrip (reach : BitVec 7) | pllUnlock (reach : BitVec 7) | reachReturn (reach : BitVec 7)
  | keeperRestart (reach : BitVec 7) (ok : Bool) | headKeeperTrap (core : BitVec 2)
  -- power (R545 to R558)
  | governorDecision (g : GovIn) | heatRecovery (reach : BitVec 7) | overcurrent | junctionCutoff (reach : BitVec 7)
  | coolant (flow : Nat) (inlet : Int) | inputLoss
  -- start-up (R482 to R488)
  | coldStart (straps : BitVec 6) | imageVerify | waveUp | ready (failed : List Nat) | refclkLoss | refclkReturn
  | fabricLinkTrained (port : BitVec 2) (width : BitVec 2) (speed64 ide : Bool) (pbr : BitVec 12) (base : Dword)
  | ideFail (port : BitVec 3) | h0LinkDown | h0LinkUp (width : BitVec 2) (speed64 flit256 ide : Bool)
  -- attestation and management (R498, R499, R557, R485, R475)
  | spdmRequest (r : SpdmReq) | getPqCert (offset : Nat) | getPqSignature | i3cEntdaa (addr : BitVec 7)
  | pldmSensorRead (reach : BitVec 7) (offset : BitVec 12) | pldmFirmwareUpdate (image : List Byte)
  | pldmTallyRead (region form : Byte) (first count : Word) | pldmReset
  | stackScrub (stack : Byte) (hits : List ScrubHit) | fabricLinkDown (port : BitVec 2)
  deriving DecidableEq, Repr

end Sys2Proof
end

