-- ==== Sys2Proof/Decode.lean ====
section
/-!
DEFINITION. Decode.lean: the command a word spells by the table's bits. No row of the table gives any bits, so no word spells one.
-/
namespace Sys2Proof

/-- The command that a word of nbits bits spells by spec/opcode_table.json: none, since no row of it gives bits. -/
def decodeTableWord (_nbits _w : Nat) : Option Instr := none

end Sys2Proof
end

