-- ==== Sys2Proof/Config.lean ====
section
/-!
DEFINITION. Config.lean: what the spec leaves open or takes from outside it, as constants with no body: nothing can be proved
of their values. Each names the log entry that says why it is open.
-/
namespace Sys2Proof.Config

/-- A free 32-bit value, numbered by State.freeCount (log entry 6). -/
opaque free32 : Nat → BitVec 32
/-- A free 64-bit value, numbered by State.freeCount (log entry 6). -/
opaque free64 : Nat → BitVec 64
/-- The root cycles since the last reference edge at which the commands before the next one stand (R344; log entry 143), modulo 144. -/
opaque finePhase : Nat → Nat
/-- The published tables of exp2, log2, rsqrt, recip and tanh are not in the spec, which bounds their error by 1 ulp (R88; log entry 12): which
neighbour of the exact value a function (0 exp2, 1 log2, 2 rsqrt, 3 recip, 4 tanh) gives for an input, and its result where no finite exact value
exists. -/
opaque tablePick : Nat → F32 → Nat
opaque tableEdge : Nat → F32 → F32
/-- SHA-512 and SHA-384 of a byte string, named but not defined by the spec (log entry 13). -/
opaque sha512 : List Byte → BitVec 512
opaque sha384 : List Byte → BitVec 384
/-- Whether a signature verifies: public key bytes, message or digest bytes, signature bytes (R482; log entry 13). -/
opaque ed25519Ok : List Byte → List Byte → List Byte → Bool
opaque mldsa65Ok : List Byte → List Byte → List Byte → Bool
/-- The identity record a stack carries (R495): record valid, lot words, wafer, die position (log entry 3). -/
opaque stackRecord : Nat → Bool × BitVec 32 × BitVec 16 × BitVec 5 × BitVec 12
/-- SPDM 1.3 (R498, R499; log entry 13): a response, by the number of its draw (nonces), the responder's capability flags, hash and base asymmetric
algorithm, the chain of slot 0, the private key, the request and the measurement blocks; the bytes that the signature of a signed response covers;
the boot ROM's bytes; a signature of bytes by an ML-DSA-65 key; the response of UnexpectedRequest; the maker's PCI-SIG vendor ID. -/
opaque spdmResponse : Nat → List Nat → List Byte → List Byte → List Byte → List (List Byte) → List Byte
opaque spdmCovered : Nat → List Byte → List Byte
opaque bootRom : List Byte
opaque pqSignature : List Byte → List Byte → List Byte
opaque spdmUnexpected : List Byte
opaque vendorId : Nat
/-- The DevID chains of the identity sector (R497), the public key of a private one, and a certificate for a public key signed by a DevID key (R496; log
entry 13); true for ML-DSA-65, false for Ed25519. -/
opaque devChain : Bool → List Byte
opaque publicKey : Bool → List Byte → List Byte
opaque keyCert : Bool → List Byte → List Byte → List Byte
/-- Sensor readings that no rule computes (R538, R557; log entry 14): reach, offset, draw number. -/
opaque sensor : Nat → Nat → Nat → BitVec 16
/-- What translation yields and the spec does not fix (R151; log entry 15): module bytes, and the library's level, width, thread grant and slice
weights, to spill bytes per core, threads, tokens and descriptors used; and to the native commands of each function in their order, each with its
function, the index of its Kweus instruction and its 64 bytes. -/
opaque translated : List Byte → List Nat → Nat × Nat × Nat × Nat
opaque nativeCode : List Byte → List Nat → List (Nat × Nat × List Byte)
/-- The context address translation gives a tensor as a logical core holds it, and its tile-scale table (log entry 15): module digest, logical
core, tensor ID. -/
opaque tensorBase : BitVec 256 → Nat → Nat → Nat
opaque tensorTable : BitVec 256 → Nat → Nat → Nat
/-- Results that no rule states, as functions of their operands (log entry 16): an output of layer normalisation from x, μ, r, gain and bias
(R212); an element of a normalisation's gradient (layer or RMS; 0 dX, 1 dGain, 2 dBias; column; the rows it rests on); an element that an
attention routine forms (routine, part, ROUND, the rows it rests on: R214 to R216); and what its conversion of probabilities leaves in the slot it
takes. -/
opaque layerOut : F32 → F32 → F32 → F32 → F32 → F32
opaque normGrad : Bool → Nat → Nat → List (List F32) → F32
opaque attnElem : Nat → Nat → Nat → List (List F32) → F32
opaque attnSlot : Nat → Nat → List (List F32) → BitVec 64
/-- The contents of a register or memory left undefined (R200; log entry 6): the number of the draw gives addresses and values. -/
opaque freeElems : Nat → List (Nat × BitVec 32)
opaque freeBytes : Nat → List (Nat × BitVec 8)
/-- The scale and the codes of a state block's 128 moments where one of them is not finite (R62, R386; log entry 41): the code's limit, the values, the
index. -/
opaque openScale : Nat → List F32 → BitVec 16
opaque openCode : Nat → List F32 → Nat → BitVec 8
/-- The layout version that the tally's header holds (R470), which the spec does not number. -/
opaque tallyVersion : Nat
/-- The 64-bit digest of collective arguments (R204; log entry 32). -/
opaque argDigest : List (BitVec 64) → BitVec 64
/-- The streamed format and tile scale of a scratchpad operand where a routine's arguments do not give them (R209; log entry 31). -/
opaque streamFormat : Byte → Byte
opaque streamScale : Nat → F32

/-- Whether a check of the FP32 checksum lane fails where its own rounding decides (R80; log entry 18): line (columns from 1024), its terms,
the difference of its sums and its bound, in units of 2^−300. -/
opaque laneFails : Nat → Nat → Int → Int → Bool
/-- The tile scale of a streamed operand of several tiles whose scales differ (R73, R244; log entry 19). -/
opaque mixedScale : List F32 → F32

/-- The port that the route tables choose for a fabric target (R258, R405; log entry 21): its PBR ID. -/
opaque fabricRoute : Nat → Nat

/-- Whether a core fails a SELF_CHECK that the head keeper runs itself (R450; log entry 37): number of the draw, logical core. -/
opaque checkFails : Nat → Nat → Bool

/-- What the keepers choose where the rules leave a choice (log entry 54): after a loss, a router's entry toward a destination (R330, R332), where
the table so chosen meets R330: reaches that answer, router, destination; and which of the neighbours nearer to a group's source a reach takes its
copy from (R336): reaches that answer, group, reach. -/
opaque keeperRoute : List Nat → Nat → Nat → Nat
opaque groupParent : List Nat → Nat → Nat → Nat
/-- How often a message on the towpath is resent, by draw (R478; log entry 146), modulo 9. -/
opaque towResends : Nat → Nat

/-- The bytes of a 64-byte unit of the tally's HEADER and COUNTERS, whose layout within the unit no rule states (R470; log entry 55): the
region's contents, the unit, the byte. -/
opaque tallyByte : List Nat → Nat → Nat → BitVec 8

/-- Bytes that no rule fixes, by draw and place: the identity sector (R497; draw 0, log entry 13), and the fields of a refused load's record
that have no value (R156; log entry 63). -/
opaque openByte : Nat → Nat → BitVec 8

end Sys2Proof.Config
end

