-- ==== Sys2Proof/Machine/Mesh.lean ====
section
/-!
DEFINITION. Mesh.lean: what a mesh link carries (R326, R328): the four classes with their channels, packet lengths and default share of a router
port, the flit's sideband, and the header flit. No command of the block acts on a flit: links, routes and packets that commands can meet are in
Reach.lean (log entry 103).
-/
namespace Sys2Proof.Machine

/-- The classes of the mesh in ascending number (R328). -/
inductive MeshClass where
  | control | deadline | reduction | bulk
  deriving DecidableEq, Repr

def meshClass (n : Nat) : MeshClass := match n with | 0 => .control | 1 => .deadline | 2 => .reduction | _ => .bulk
def MeshClass.number : MeshClass → Nat | .control => 0 | .deadline => 1 | .reduction => 2 | .bulk => 3

/-- Priority and quota of a class at a router port at reset; quota 0 is unlimited (R328, R346). -/
def MeshClass.share : MeshClass → Nat × Nat | .control => (3, 64) | .deadline => (2, 60) | .reduction => (1, 0) | .bulk => (0, 0)

/-- The fewest and the most flits of a packet of a class (R328). -/
def MeshClass.flits : MeshClass → Nat × Nat | .control => (1, 1) | .deadline => (1, 16) | .reduction => (17, 17) | .bulk => (1, 64)

/-- Virtual channels of a class per link direction, and the flits that each buffers under credits (R328). -/
def channelsPerClass : Nat := 2
def channelDepth : Nat := 8
/-- Flits of a link's replay buffer, and bytes of a flit (R326, R327). -/
def replayDepth : Nat := 32
def flitBytes : Nat := 256

/-- The sideband of a flit (R326). -/
structure Sideband where
  crc : BitVec 24
  seq : Byte
  head : Bool
  tail : Bool
  stain : Bool
  vc : Bool
  cls : MeshClass
  abort : Bool
  deriving DecidableEq, Repr

/-- The 48 bits of a sideband, and the sideband that 48 bits spell. -/
def Sideband.bits (b : Sideband) : Nat :=
  b.crc.toNat * 2 ^ 24 + b.seq.toNat * 2 ^ 16 + b.head.toNat * 2 ^ 15 + b.tail.toNat * 2 ^ 14 + b.stain.toNat * 2 ^ 13 + b.vc.toNat * 2 ^ 12 +
    b.cls.number * 2 ^ 10 + b.abort.toNat * 2 ^ 9
def sidebandOf (n : Nat) : Sideband :=
  { crc := BitVec.ofNat 24 (n / 2 ^ 24), seq := BitVec.ofNat 8 (n / 2 ^ 16), head := n.testBit 15, tail := n.testBit 14, stain := n.testBit 13,
    vc := n.testBit 12, cls := meshClass (n / 2 ^ 10 % 4), abort := n.testBit 9 }

/-- The header flit of a packet (R326). -/
structure PacketHead where
  dst : BitVec 7
  src : BitVec 7
  multicast : Option (BitVec 4)
  flits : Nat
  kind : Nat
  ctx : BitVec 6
  mark : Word
  target : Dword
  deriving DecidableEq, Repr

/-- Whether the sidebands of a packet's flits stand as R326 and R328 have them: a length of its class, HEAD on the first alone, TAIL on the last
alone, ABORT only there, one class and one channel throughout. -/
def packetOk (bs : List Sideband) : Bool :=
  match bs.head?, bs.getLast? with
  | some b, some e =>
    b.head && e.tail && bs.tail.all (fun x => !x.head) && bs.dropLast.all (fun x => !x.tail && !x.abort) &&
      bs.all (fun x => x.cls = b.cls && x.vc = b.vc) && (b.cls.flits.1 ≤ bs.length || e.abort) && bs.length ≤ b.cls.flits.2
  | _, _ => false

end Sys2Proof.Machine
end

