-- ==== Sys2Proof/Machine/Pages.lean ====
section
/-!
DEFINITION. Pages.lean: the register pages as the spec tabulates them (R510 to R518 and the block tables of the chapters):
which page stands where, which fields a word of it holds, their access and their reset values.
-/
namespace Sys2Proof.Machine

/-- Access codes (R11). -/
inductive Access where
  | ro | rw | w1c | wo | rc | rws
  deriving DecidableEq, Repr

/-- One row of a register table: word offset, bits hi to lo, access, reset value. -/
structure FieldRow where
  off : Nat
  hi : Nat
  lo : Nat
  acc : Access
  reset : Nat
  deriving DecidableEq, Repr

/-- A register page's block (R517), the two queue schedulers, the commit page and the head page apart. -/
inductive Block where
  | head | kp | ck | pw | mh | ab | qsCore | qsMod | sc | mx | vx | st | sx | sl | sp | wt | fp | mg | ps | commit | hp | pg | tl | fu | bt
  deriving DecidableEq, Repr

/-- The block type code of PAGE_ID (R517). -/
def blockCode : Block → Nat
  | .head => 0x01 | .kp => 0x01 | .ck => 0x02 | .pw => 0x03 | .mh => 0x04 | .ab => 0x05 | .qsCore => 0x06 | .qsMod => 0x06
  | .sc => 0x07 | .mx => 0x08 | .vx => 0x09 | .st => 0x0A | .sx => 0x0B | .sl => 0x0C | .sp => 0x0D | .wt => 0x0E
  | .fp => 0x0F | .mg => 0x10 | .ps => 0x11 | .commit => 0x11 | .hp => 0x12 | .pg => 0x13 | .tl => 0x14 | .fu => 0x15 | .bt => 0x16

/-- The reach number under which the head page stands in the word table (it has none of its own, R510). -/
def headPage : Nat := 77

/-- Which page p of reach r is (R511); none for a reserved index. -/
def blockOf (r p : Nat) : Option Block :=
  if r = headPage then (if p = 0 then some .head else none)
  else if 76 < r then none
  else match p with
    | 0x00 => some .kp | 0x01 => some .ck | 0x02 => some .pw | 0x03 => some .mh
    | 0x04 => some .ab | 0x05 => some .ab
    | 0x06 => if r < 72 then some .ab else none
    | 0x07 => if r < 72 then some .ab else none
    | 0x08 => if r < 72 then some .ab else none
    | 0x09 => if r < 72 then some .ab else none
    | 0x0A => if r < 72 then some .ab else none
    | 0x10 => if r < 72 then some .qsCore else none
    | 0x11 => if r < 72 then some .sc else none
    | 0x12 => if r < 72 then some .mx else none
    | 0x13 => if r < 72 then some .vx else none
    | 0x14 => if r < 72 then some .st else none
    | 0x15 => if r < 72 then some .sx else none
    | 0x16 => if r < 72 then some .sl else none
    | 0x17 => if r < 72 then some .sp else none
    | 0x18 => if r < 72 then some .wt else none
    | 0x20 => if r < 72 then none else if r = 76 then some .hp else some .fp
    | 0x21 => if 72 ≤ r ∧ r < 76 then some .ab else none
    | 0x22 => if 72 ≤ r ∧ r < 76 then some .mg else none
    | 0x23 => if 72 ≤ r ∧ r < 76 then some .ps else none
    | 0x24 => if 72 ≤ r ∧ r < 76 then some .ab else none
    | 0x28 => if r = 76 then some .qsMod else none
    | 0x29 => if r = 76 then some .commit else none
    | 0x2A => if r = 76 then some .tl else none
    | 0x2B => if r = 76 then some .pg else none
    | 0x2C => if r = 76 then some .fu else none
    | 0x2D => if r = 76 then some .bt else none
    | _ => none

/-- Every page index that some reach has (R511). -/
def pageIndexes : List Nat :=
  [0x00, 0x01, 0x02, 0x03, 0x04, 0x05, 0x06, 0x07, 0x08, 0x09, 0x0A, 0x10, 0x11, 0x12, 0x13, 0x14, 0x15, 0x16, 0x17, 0x18,
   0x20, 0x21, 0x22, 0x23, 0x24, 0x28, 0x29, 0x2A, 0x2B, 0x2C, 0x2D]

/-- The site an edge reach joins (R16, R564). -/
def attachSite (r : Nat) : Nat :=
  if r = 72 then 67 else if r = 73 then 44 else if r = 74 then 4 else if r = 75 then 27 else 0

/-- The port at the attachment site that leads to an edge reach (R564): 1 N, 2 E, 3 S, 4 W. -/
def attachPort (r : Nat) : Nat :=
  if r = 72 then 1 else if r = 73 then 2 else if r = 74 then 3 else if r = 75 then 4 else 3

/-- The opposite direction code. -/
def opposite (d : Nat) : Nat := if d = 1 then 3 else if d = 3 then 1 else if d = 2 then 4 else 2

/-- INSTANCE of PAGE_ID (R511, R564). -/
def instanceOf (r p : Nat) : Nat :=
  if r = headPage then 0xFF
  else match p with
    | 0x05 => if r < 72 then 1 else opposite (attachPort r)
    | 0x06 => 2 | 0x07 => 3 | 0x08 => 4 | 0x09 => 8 | 0x0A => 9 | 0x21 => 16 | 0x24 => 17 | 0x28 => 1 | 0x29 => 1
    | _ => 0

/-- The reach a site's X-then-Y route leaves by toward destination reach d, seen from reach r (R329, R564). -/
def xyRoute (r d : Nat) : Nat :=
  if r = d then 0
  else if 72 ≤ r then opposite (attachPort r)
  else
    let t := if 72 ≤ d then attachSite d else d
    if t % 9 > r % 9 then 2
    else if t % 9 < r % 9 then 4
    else if t / 9 > r / 9 then 1
    else if t / 9 < r / 9 then 3
    else attachPort d

/-- Default PRIO and QUOTA of requester n of an arbiter page, packed as its entry's first word (R346, R416, R380). -/
def arbDefault (p n : Nat) : Nat :=
  let pair := fun (prio quota : Nat) => quota * 65536 + prio
  if p ≤ 0x08 then pair (meshClass n).share.1 (meshClass n).share.2
  else if p = 0x09 ∨ p = 0x0A then
    match n with | 0 => pair 3 8 | 1 => pair 2 480 | _ => 0
  else if p = 0x21 then
    match n with | 0 => pair 3 8 | 1 => pair 2 4 | 2 => pair 1 0 | 3 => pair 1 0 | _ => 0
  else
    match n with | 0 => pair 3 8 | 1 => pair 2 0 | 2 => pair 1 0 | 3 => pair 1 0 | _ => 0

/-- The requesters of an arbiter page (R346, R416, R380). -/
def arbRequesters (p : Nat) : Nat :=
  if p ≤ 0x08 then 4 else if p = 0x09 ∨ p = 0x0A then 3 else if p = 0x21 then 6 else 4

/-- A whole-word field. -/
def word32 (off : Nat) (a : Access) (reset : Nat) : FieldRow := ⟨off, 31, 0, a, reset⟩

/-- The header of every page (R516). PAGE_ID, PAGE_CAPS, COMMIT_PENDING and FAULT_VALID are computed when read. -/
def headerRows : List FieldRow := [
  ⟨0x008, 0, 0, .rw, 0⟩, ⟨0x00C, 31, 24, .rc, 0⟩, word32 0x010 .w1c 0, word32 0x014 .rw 0,
  ⟨0x018, 31, 31, .w1c, 0⟩, ⟨0x018, 23, 16, .ro, 0⟩, ⟨0x018, 15, 0, .ro, 0⟩, word32 0x01C .ro 0,
  ⟨0x020, 27, 27, .ro, 0⟩, ⟨0x020, 26, 26, .ro, 0⟩, ⟨0x020, 25, 20, .ro, 0⟩, ⟨0x020, 19, 0, .ro, 0⟩,
  ⟨0x024, 31, 16, .ro, 0⟩, ⟨0x024, 1, 1, .ro, 0⟩, ⟨0x024, 0, 0, .wo, 0⟩]

/-- Consecutive whole-word read-only fields. -/
def roWords (off n : Nat) : List FieldRow := (List.range n).map (fun i => word32 (off + 4 * i) .ro 0)

/-- The block registers 0x040 to 0x3EF of each page. -/
def blockRows : Block → List FieldRow
  | .head => [⟨0x040, 31, 24, .ro, 0⟩, ⟨0x040, 2, 0, .ro, 0⟩, ⟨0x044, 6, 3, .ro, 0⟩, word32 0x048 .ro 0, word32 0x04C .ro 0,
      ⟨0x050, 12, 0, .ro, 0⟩, word32 0x054 .ro 0, word32 0x058 .ro 0, ⟨0x05C, 12, 0, .ro, 0⟩, word32 0x060 .rc 0,
      word32 0x064 .ro 0, word32 0x068 .ro 0]
  | .kp => [⟨0x040, 15, 8, .ro, 0⟩, ⟨0x040, 1, 0, .ro, 0⟩, word32 0x044 .ro 0, word32 0x048 .ro 0, word32 0x04C .rc 0]
  | .ck => [⟨0x040, 4, 0, .rw, 0x10⟩, ⟨0x044, 31, 31, .ro, 0⟩, ⟨0x044, 30, 30, .ro, 0⟩, ⟨0x044, 4, 0, .ro, 0x10⟩,
      word32 0x048 .ro 0, word32 0x04C .ro 0, ⟨0x050, 11, 0, .ro, 0⟩, word32 0x054 .rc 0, word32 0x058 .rc 0]
  | .pw => [⟨0x040, 15, 0, .ro, 0⟩, ⟨0x044, 15, 0, .rc, 0⟩, ⟨0x048, 2, 0, .ro, 0⟩, ⟨0x04C, 4, 0, .rw, 0x10⟩,
      ⟨0x050, 15, 0, .ro, 0⟩, ⟨0x054, 15, 0, .ro, 0⟩, ⟨0x080, 15, 0, .ro, 0⟩, ⟨0x084, 15, 0, .ro, 0⟩,
      ⟨0x088, 15, 0, .ro, 0⟩, ⟨0x08C, 15, 0, .ro, 0⟩, ⟨0x090, 15, 0, .ro, 0⟩]
  | .mh => [⟨0x040, 0, 0, .rw, 0⟩, ⟨0x044, 11, 0, .ro, 0⟩, word32 0x048 .rc 0, word32 0x04C .rc 0, word32 0x050 .rc 0]
  | .ab => [⟨0x040, 15, 0, .rws, 0x0400⟩, ⟨0x044, 15, 0, .ro, 0⟩, ⟨0x048, 31, 31, .ro, 0⟩, ⟨0x048, 3, 0, .ro, 0⟩,
      word32 0x04C .rc 0, ⟨0x050, 15, 0, .ro, 0⟩]
  | .qsCore => [word32 0x040 .ro 0, word32 0x044 .rc 0]
  | .qsMod => [⟨0x040, 31, 28, .wo, 0⟩, ⟨0x040, 19, 0, .wo, 0⟩, word32 0x044 .rw 0, ⟨0x048, 15, 0, .rw, 0⟩,
      ⟨0x04C, 31, 31, .rw, 0⟩, ⟨0x04C, 30, 26, .rw, 4⟩, ⟨0x04C, 25, 20, .rw, 0⟩, ⟨0x04C, 19, 13, .rw, 0⟩, ⟨0x04C, 12, 9, .rw, 0⟩,
      ⟨0x050, 19, 0, .rw, 0⟩, ⟨0x054, 31, 31, .ro, 0⟩, ⟨0x054, 30, 30, .rc, 0⟩, ⟨0x054, 15, 0, .ro, 0⟩,
      word32 0x058 .rc 0, word32 0x05C .rc 0, word32 0x060 .rc 0, ⟨0x064, 20, 0, .ro, 0⟩, word32 0x068 .rc 0,
      ⟨0x06C, 19, 0, .wo, 0⟩] ++ roWords 0x080 8
  | .sc => [word32 0x040 .rw 0, word32 0x044 .rw 1, word32 0x048 .rc 0]
  | .mx => [⟨0x040, 7, 4, .rw, 0xC⟩, ⟨0x040, 0, 0, .rw, 0⟩, word32 0x044 .ro 0, word32 0x048 .ro 0, word32 0x04C .rc 0,
      word32 0x050 .rc 0, word32 0x054 .rc 0, word32 0x058 .rc 0, word32 0x05C .rc 0,
      ⟨0x060, 31, 31, .rc, 0⟩, ⟨0x060, 30, 30, .rc, 0⟩, ⟨0x060, 19, 10, .rc, 0⟩, ⟨0x060, 9, 0, .rc, 0⟩]
  | .vx => []
  | .st => [⟨0x040, 15, 12, .rws, 4⟩, ⟨0x040, 11, 8, .rws, 6⟩, ⟨0x040, 5, 4, .rws, 2⟩, ⟨0x040, 0, 0, .rws, 0⟩,
      word32 0x044 .rw 0x1000, word32 0x048 .ro 0, word32 0x04C .ro 0, word32 0x050 .ro 0, word32 0x054 .ro 0, word32 0x058 .ro 0,
      word32 0x05C .rw 0]
  | .sx => [⟨0x040, 0, 0, .rw, 0⟩, word32 0x044 .ro 0, word32 0x048 .ro 0, word32 0x04C .rc 0, word32 0x050 .rc 0,
      word32 0x054 .rc 0, word32 0x058 .rc 0, word32 0x05C .rc 0, ⟨0x060, 23, 0, .ro, 0⟩]
  | .sl => [⟨0x040, 11, 8, .rws, 0xE⟩, ⟨0x040, 0, 0, .rws, 0⟩, word32 0x044 .rw 0x14, word32 0x048 .rw 0xC8, word32 0x04C .rw 4,
      word32 0x050 .rw 0xFA0, word32 0x054 .ro 0, word32 0x058 .ro 0, word32 0x05C .rc 0, word32 0x060 .rc 0,
      ⟨0x064, 31, 31, .rc, 0⟩, ⟨0x064, 29, 24, .rc, 0⟩, ⟨0x064, 23, 0, .rc, 0⟩, ⟨0x068, 20, 0, .rw, 0⟩, ⟨0x06C, 6, 0, .rw, 0⟩,
      word32 0x070 .rw 0, word32 0x074 .rc 0]
  | .sp => [⟨0x040, 0, 0, .rw, 0⟩, word32 0x044 .rws 0x54302010, ⟨0x048, 25, 0, .rw, 0⟩, word32 0x04C .rw 0, word32 0x050 .rc 0]
  | .wt => [⟨0x040, 7, 6, .wo, 0⟩, ⟨0x040, 5, 0, .wo, 0⟩, ⟨0x044, 15, 0, .ro, 0⟩, word32 0x048 .w1c 0, word32 0x04C .w1c 0,
      word32 0x050 .rc 0]
  | .fp => [⟨0x040, 3, 2, .rw, 0⟩, ⟨0x040, 1, 1, .rw, 0⟩, ⟨0x040, 0, 0, .rw, 0⟩, ⟨0x044, 31, 31, .ro, 0⟩, ⟨0x044, 30, 30, .ro, 0⟩,
      ⟨0x044, 29, 29, .ro, 0⟩, ⟨0x044, 7, 6, .ro, 0⟩, ⟨0x044, 5, 5, .ro, 0⟩, ⟨0x048, 11, 0, .ro, 0⟩, ⟨0x04C, 31, 16, .ro, 0⟩,
      ⟨0x04C, 11, 0, .ro, 0⟩, word32 0x050 .ro 0, word32 0x054 .ro 0, word32 0x058 .rc 0, word32 0x05C .rc 0, word32 0x060 .rc 0,
      ⟨0x064, 6, 6, .rw, 0⟩, ⟨0x064, 5, 0, .rw, 0⟩, word32 0x068 .wo 0]
  | .mg => [word32 0x040 .ro 0, word32 0x044 .rc 0, word32 0x048 .rc 0, word32 0x04C .rc 0, ⟨0x050, 6, 0, .ro, 0⟩, word32 0x054 .ro 0]
      ++ roWords 0x060 8
  | .ps => [⟨0x040, 4, 0, .rw, 4⟩, word32 0x044 .ro 0, word32 0x048 .rc 0, word32 0x04C .rc 0, word32 0x050 .rc 0,
      ⟨0x054, 22, 16, .ro, 0⟩, ⟨0x054, 8, 0, .ro, 0⟩, word32 0x058 .rc 0]
  | .commit => [⟨0x040, 1, 0, .wo, 0⟩, ⟨0x044, 0, 0, .ro, 0⟩, ⟨0x048, 2, 0, .ro, 0⟩, ⟨0x04C, 0, 0, .ro, 0⟩,
      word32 0x050 .ro 0xFFFFFFFF, ⟨0x054, 31, 30, .wo, 0⟩, ⟨0x054, 11, 0, .wo, 0⟩, word32 0x058 .wo 0, word32 0x05C .rw 0x2710,
      word32 0x060 .rw 0, ⟨0x064, 1, 1, .wo, 0⟩, ⟨0x064, 0, 0, .wo, 0⟩, word32 0x068 .wo 0, ⟨0x06C, 31, 8, .ro, 0⟩,
      ⟨0x06C, 4, 4, .ro, 0⟩, ⟨0x06C, 2, 0, .ro, 0⟩, ⟨0x070, 31, 24, .ro, 0⟩, ⟨0x070, 15, 0, .ro, 0⟩, ⟨0x074, 12, 12, .wo, 0⟩,
      ⟨0x074, 11, 0, .wo, 0⟩, ⟨0x078, 0, 0, .ro, 0⟩] ++ roWords 0x080 8
  | .hp => [⟨0x040, 6, 6, .rw, 0⟩, ⟨0x040, 5, 0, .rw, 0⟩, ⟨0x044, 31, 21, .rw, 0⟩, ⟨0x048, 15, 0, .rw, 0⟩, ⟨0x04C, 19, 0, .rw, 0⟩,
      ⟨0x050, 31, 31, .ro, 0⟩, ⟨0x050, 30, 30, .ro, 0⟩, ⟨0x050, 29, 29, .ro, 0⟩, ⟨0x050, 7, 6, .ro, 0⟩, ⟨0x050, 5, 5, .ro, 0⟩,
      ⟨0x050, 0, 0, .ro, 0⟩, word32 0x054 .rc 0, word32 0x058 .rc 0]
  | .pg => [⟨0x040, 31, 16, .rw, 0⟩, ⟨0x040, 4, 0, .rw, 0x1B⟩, ⟨0x044, 11, 1, .rw, 0⟩, word32 0x048 .wo 0, word32 0x04C .wo 0,
      ⟨0x050, 31, 31, .ro, 0⟩, ⟨0x050, 4, 0, .ro, 0⟩, word32 0x054 .ro 0, ⟨0x058, 15, 15, .ro, 0⟩, ⟨0x058, 11, 0, .ro, 0⟩,
      word32 0x05C .rc 0, word32 0x060 .ro 0]
  | .tl => [⟨0x040, 22, 20, .wo, 0⟩, ⟨0x040, 19, 0, .wo, 0⟩, ⟨0x044, 31, 31, .ro, 0⟩, ⟨0x044, 30, 30, .ro, 0⟩, ⟨0x044, 29, 29, .ro, 0⟩,
      ⟨0x044, 22, 20, .ro, 0⟩, ⟨0x044, 19, 0, .ro, 0⟩] ++ roWords 0x080 16 ++ roWords 0x100 10
  | .fu => [word32 0x040 .ro 0, ⟨0x044, 15, 0, .ro, 0⟩, ⟨0x048, 12, 8, .ro, 0⟩, ⟨0x048, 4, 0, .ro, 0⟩, ⟨0x04C, 6, 5, .ro, 0⟩,
      ⟨0x04C, 4, 4, .ro, 0⟩, ⟨0x04C, 3, 3, .ro, 0⟩, word32 0x050 .ro 0, word32 0x054 .ro 0, ⟨0x058, 7, 0, .ro, 0⟩,
      ⟨0x05C, 7, 0, .ro, 0⟩, ⟨0x060, 1, 1, .ro, 1⟩, ⟨0x060, 0, 0, .ro, 0⟩] ++ roWords 0x080 8 ++ roWords 0x0A0 8
  | .bt => [⟨0x040, 31, 24, .ro, 0⟩, ⟨0x040, 23, 16, .ro, 0⟩, ⟨0x040, 2, 0, .ro, 0⟩, word32 0x044 .ro 0, ⟨0x048, 15, 0, .ro, 0⟩,
      word32 0x04C .wo 0, ⟨0x050, 1, 1, .ro, 0⟩, ⟨0x050, 0, 0, .ro, 0⟩]

/-- The fields at offset o of a page's tables: slots, entries and arrays, and the peg snapshot area (R526), which is read only. -/
def tableRows (b : Block) (r p o : Nat) : List FieldRow :=
  if 0xC00 ≤ o then [word32 o .ro 0]
  else match b with
    | .head => if 0x400 ≤ o ∧ o < 0x448 then [word32 o .ro 0xFFFFFFFF] else []
    | .mh =>
      if 0x400 ≤ o ∧ o < 0x534 then
        [⟨o, 3, 3, .rws, 0⟩, ⟨o, 2, 0, .rws, xyRoute r ((o - 0x400) / 4)⟩]
      else if 0x600 ≤ o ∧ o < 0x640 then [⟨o, 4, 0, .rws, 0⟩] else []
    | .ab =>
      let n := (o - 0x400) / 16
      if 0x400 ≤ o ∧ n < arbRequesters p then
        match o % 16 with
        | 0 => [⟨o, 31, 16, .rws, arbDefault p n / 65536⟩, ⟨o, 1, 0, .rws, arbDefault p n % 4⟩]
        | 4 => [⟨o, 15, 0, .ro, 0⟩]
        | _ => [word32 o .rc 0]
      else []
    | .qsCore => if 0x400 ≤ o ∧ o < 0x440 then [word32 o .ro 0] else []
    | .st => if 0x400 ≤ o then [word32 o .ro 0] else []
    | .sl => if 0x400 ≤ o ∧ o < 0x600 then [word32 o .ro 0] else []
    | .wt =>
      if 0x400 ≤ o then
        match o % 32 with
        | 0x00 => [word32 o .rw 0]
        | 0x04 => [⟨o, 31, 31, .rw, 0⟩, ⟨o, 15, 0, .rw, 0⟩]
        | 0x08 => [word32 o .rw 0]
        | 0x0C => [⟨o, 15, 15, .rw, 0⟩, ⟨o, 11, 0, .rw, 0⟩, ⟨o, 23, 22, .rw, 0⟩, ⟨o, 21, 16, .rw, 0⟩, ⟨o, 25, 24, .ro, 0⟩]
        | 0x10 => [word32 o .ro 0]
        | 0x14 => [word32 o .rc 0]
        | 0x18 => [word32 o .rc 0]
        | _ => []
      else []
    | .commit => if 0x400 ≤ o ∧ o < 0x480 then [word32 o .rw 0] else []
    | .fu =>
      if 0x100 ≤ o ∧ o < 0x220 then [⟨o, 7, 0, .ro, 0⟩]
      else if 0x240 ≤ o ∧ o < 0xB40 then
        match o % 16 with
        | 0x0 => [word32 o .ro 0]
        | 0x4 => [⟨o, 15, 0, .ro, 0⟩]
        | 0x8 => [⟨o, 27, 16, .ro, 0⟩, ⟨o, 4, 0, .ro, 0⟩]
        | _ => [⟨o, 0, 0, .ro, 0⟩]
      else []
    | _ => []

/-- Every field of the word at offset o of page p of reach r; none at a reserved offset (R12). -/
def rowsAt (r p o : Nat) : List FieldRow :=
  match blockOf r p with
  | none => []
  | some b =>
    if o < 0x040 then headerRows.filter (fun f => f.off = o)
    else (blockRows b).filter (fun f => f.off = o) ++ tableRows b r p o

/-- The mask of one field. -/
def rowMask (f : FieldRow) : Word := BitVec.ofNat 32 ((2 ^ (f.hi + 1 - f.lo) - 1) * 2 ^ f.lo)

/-- The mask of every field with one of the given accesses. -/
def accMask (fs : List FieldRow) (a : Access) : Word :=
  fs.foldl (fun m f => if f.acc = a then m ||| rowMask f else m) 0

/-- The word at reset: every field at the value of its table. -/
def resetWord (r p o : Nat) : Word :=
  (rowsAt r p o).foldl (fun w f => w ||| BitVec.ofNat 32 (f.reset * 2 ^ f.lo)) 0

/-- The key of a register word in the word tables. -/
def pageKey (r p o : Nat) : Nat := r * 2 ^ 18 + p * 2 ^ 12 + o

/-- The word at reset by key. -/
def resetAt (k : Nat) : Word := resetWord (k / 2 ^ 18) (k / 2 ^ 12 % 64) (k % 2 ^ 12)

/-- Whether a page has RWS fields (PAGE_CAPS.SHADOW, R516). -/
def hasShadow : Block → Bool
  | .mh => true | .ab => true | .st => true | .sl => true | .sp => true | _ => false

end Sys2Proof.Machine
end

