-- ==== Sys2Proof/Machine/State.lean ====
section
/-!
DEFINITION. State.lean: everything the spec gives the Calyan module, as plain data. The hardware registers of every page
(R516 to R540 and the block tables) stand in one word table, Pages; the rest is what the chapters name beside them.
-/
namespace Sys2Proof.Machine

/-- Bytes by address, canonical: addresses strictly rising, no entry 0. Start-up fills stacks and scratchpads with 0 (R487). -/
abbrev Mem := List Host.Cell

/-- The fault outcome of a step. No command of this module raises it: every fault of the spec is a record and an effect
inside the module (R441, R442), so a step always goes on. Safe: nothing can be proved from it. -/
inductive Fault where
  /-- Raised by no command. Safe. -/
  | neverRaised
  deriving DecidableEq, Repr

/-- The refusal outcome of a step. -/
inductive Refusal where
  /-- Answered only by an arm of exec whose command has no meaning yet. Safe: the run stops. -/
  | notModelled (mnemonic : String)
  deriving DecidableEq, Repr

/-- The register pages (R510 to R523): words in force, shadow words, and captured shadow sets that wait for their effect
point. A key is reach · 2^18 + page · 2^12 + offset, the head page standing as reach 77. -/
structure Pages where
  live : Tab Word
  shadow : Tab Word
  captured : List (Nat × Tab Word)
  deriving DecidableEq, Repr

/-- One active hardware loop (R170): its body, its latched count and index, and the call level that entered it. -/
structure Loop where
  start : Nat
  body : Nat
  count : Nat
  index : Nat
  level : Nat
  deriving DecidableEq, Repr

/-- One entry of the return stack (R178): where the thread goes on, and the code object it was in. -/
structure Ret where
  pc : Nat
  code : Option Dword
  isEnter : Bool
  deriving DecidableEq, Repr

/-- What a thread leaves with a queue at a YIELD or a DISABLE, and takes up when it attaches to it again (R189). -/
structure Saved where
  loops : List Loop
  rets : List Ret
  code : Option Dword
  pc : Nat
  deriving DecidableEq, Repr

/-- One entry of the queue table (R184). stopping is a fault (code and mark) whose halt the table does not show yet (R444). -/
structure QEntry where
  base : BitVec 48
  log2 : Nat
  state : Nat
  thread : BitVec 4
  ctx : Nat
  core : Nat
  trace : Bool
  head : Nat
  tail : Nat
  haltMark : Word
  haltFault : BitVec 16
  stopping : Option (BitVec 16 × Word)
  saved : Option Saved
  deriving DecidableEq, Repr

/-- What a thread waits for: WAIT of R532, with the collective operations of R191, R174 and R176 beside it. -/
inductive Waits where
  | none | token | queueFull | scalarLoad | lock | doorbell | collective | outcome
  deriving DecidableEq, Repr

/-- One hardware thread (R144, R170, R178, R189). -/
structure Thread where
  regs : Tab Dword
  loops : List Loop
  rets : List Ret
  code : Option Dword
  pc : Nat
  attached : Option Nat
  waits : Waits
  held : Option Instr
  holder : Option Nat
  deriving DecidableEq, Repr

/-- One tile register (R41, R567): format code, data and scale bytes, tile scale, orientation bit, and the logical
rows and columns recorded by a stream load (R289; 0 for the full shape). -/
structure TileReg where
  format : Byte
  data : Mem
  scales : Mem
  tileScale : F32
  orient : Bool
  rows : Nat
  cols : Nat
  deriving DecidableEq, Repr

/-- One Starch slot (R113), with the setup's initial scale (R164). -/
structure Slot where
  target : BitVec 2
  owner : BitVec 2
  mode : BitVec 2
  headroom : BitVec 3
  hasInit : Bool
  initExp : Int
  valid : Bool
  clean : Nat
  corr : Nat
  scaleExp : Int
  est : F32
  deriving DecidableEq, Repr

/-- A stream descriptor image (R289). -/
structure DescImage where
  kind : Nat
  out : Bool
  nearKind : Nat
  farKind : Nat
  format : Byte
  unit : Nat
  tileRows : Nat
  tileCols : Nat
  farBase : Dword
  nearBase : Dword
  bufStride : Nat
  bufCount : Nat
  dims : Nat
  srcFormat : Byte
  round : Byte
  scaleTable : Dword
  rate : Nat
  cvt : Word
  dim : List (Nat × Nat × Int)
  deriving DecidableEq, Repr

/-- One stream descriptor (R297, R323). flight holds the started units: unit index, the command that started it, whether its completion completes that
command, and how many earlier commands of the descriptor have not retired (R298). running: a RUN whose units have not all started (R296). -/
structure Desc where
  state : Nat
  revoked : Bool
  image : Option DescImage
  nextUnit : Nat
  unitsDone : Nat
  ctx : Nat
  flight : List (Nat × Hdr × Bool × Nat)
  pins : List Nat
  running : Option Hdr := none
  deriving DecidableEq, Repr

/-- One core: threads, tokens, registers, Starch slots, descriptors, and the commands that stand in its engine queues
(held: not started; started: not retired). loaded is the weight set in the array (R70), lastIssue the thread that issued last (R90). wwPos is the schedule
position that the core reads next, firstToken and sliceTokens are what STEP_BEGIN writes into vs3 and vs4 (R366), wwOut the descriptor and ring slot of each weight unit under way, wwKept the ring slots whose tiles are
kept until the next STEP_BEGIN (R311, R312). -/
structure Core where
  threads : Tab Thread
  tokens : Tab (BitVec 16)
  tiles : Tab TileReg
  accs : Tab (Tab F32)
  slots : Tab Slot
  descs : Tab Desc
  held : List (Place × Instr)
  started : List (Place × Hdr)
  loaded : Option (Nat × Bool)
  lock : Option Nat
  lastLock : Nat
  satRaised : Bool
  nonfiniteRaised : Bool
  stainRows : List Nat
  layerPos : Option Nat
  wwPos : Nat
  wwOut : List (Nat × Nat)
  wwKept : List Nat
  lagRun : Nat
  passed : Bool
  lastIssue : Nat
  firstToken : Nat := 0
  sliceTokens : Nat := 0
  deriving DecidableEq, Repr

/-- One page-table entry of a mapped page (R256). state: 0 resident, 1 moving, 2 lost, 3 offline. fresh: the epoch in which the page was mapped
has not ended (R265). target: of a page in the fabric tier, the target that its map entry names, PBR ID · 2^64 + base (R258). -/
structure Pte where
  stain : Bool
  migratable : Bool
  pinned : Bool
  state : Nat
  fabric : Bool
  place : Nat
  page : Nat
  heat : Nat
  fresh : Bool := false
  target : Nat := 0
  deriving DecidableEq, Repr

/-- One allocated object (R262). dropped counts writes to its lost pages (R280). -/
structure Obj where
  base : Nat
  pages : Nat
  size : Nat
  tierSet : Nat
  home : List Nat
  fabricEntry : Nat
  migratable : Bool
  dropped : Nat
  deriving DecidableEq, Repr

/-- One parameter entry (R136). -/
structure Param where
  tensorId : Nat
  layer : Nat
  key : Nat
  rows : Nat
  cols : Nat
  format : Byte
  group : Nat
  frozen : Bool
  migratable : Bool
  deriving DecidableEq, Repr

/-- One TENSORS entry (R136): KIND 0 input, 1 activation, 2 saved, 3 scratch, and the sequence slots it is sized for. -/
structure TensorEntry where
  id : Nat
  kind : Nat
  rows : Nat
  cols : Nat
  format : Byte
  slotMask : Word
  deriving DecidableEq, Repr

/-- The numeric policy (R142) with its optimizer (R384) and risk (R452) records. -/
structure Policy where
  stCtrl : Word
  satLimit : Word
  mxCtrl : Word
  ratioWarmup : Nat
  roundAct : Nat
  beta1 : F32
  beta1c : F32
  beta2 : F32
  beta2c : F32
  eps : F32
  wd : F32
  gradScale : F32
  clipNorm : F32
  rhoPrior : F32
  rhoFloor : F32
  rhoSuspect : F32
  eSecure : F32
  halfLife : Nat
  secureMin : Nat
  secureMax : Nat
  lagBand : Nat
  lagSteps : Nat
  weights : List F32
  bands : List (F32 × F32)
  deriving DecidableEq, Repr

/-- A loaded program of a context (R151, R156, R308): what later commands read of it. native holds the commands of its native code in their
order, each with the function and the Kweus instruction that it comes from and its 64 bytes. -/
structure Loaded where
  handle : Dword
  width : Nat
  weights : List Nat
  threads : Nat
  moduleId : List Byte
  digest : BitVec 256
  entries : List (Nat × Nat × Nat)
  params : List Param
  tensors : List TensorEntry
  layers : List Nat
  policy : Policy
  native : List (Nat × Nat × List Byte)
  replay : Option (Nat × Nat)
  deriving DecidableEq, Repr

/-- One live context (R256, R270, R503). freed: the pages it gave back by FREE, which it may take again with their contents. ending holds the fault and mark that end it, once its end has begun (R491). -/
structure Ctx where
  spBase : Nat
  spRows : Nat
  stackPages : Nat
  fabricPages : Nat
  windows : Nat
  seed : Dword
  faultRing : Nat
  faultLog2 : Nat
  faultWritten : Nat
  traceRing : Nat
  traceLog2 : Nat
  traceWritten : Nat
  traceDropped : Nat
  objects : List Obj
  pt : Tab Pte
  freed : List Nat
  loaded : Option Loaded
  ending : Option (BitVec 16 × Word)
  deriving DecidableEq, Repr

/-- A page move under way (R268): the page's context and context page, where it goes, whether its old page is retired (R274), and for a
demotion the context page whose promotion it makes room for (R266). -/
structure Move where
  ctx : Nat
  page : Nat
  fabric : Bool
  place : Nat
  dest : Nat
  retire : Bool
  follow : Option Nat
  deriving DecidableEq, Repr

/-- Storage outside the registers: stacks (stack · 2^37 + byte), scratchpads (site · 2^28 + byte), the fabric tier
(PBR ID of the target · 2^64 + address at the target, R258), what the module has written to host memory, and the stained granules of stacks (64 B lines),
scratchpads (128 B rows) and the fabric tier (64 B). retired: stack pages out of use; due: those that are to go; corrected: the times of a stack page's
corrected errors (R274). -/
structure Store where
  stack : Mem
  scratch : Mem
  fabric : Mem
  host : Mem
  stainStack : List Nat
  stainScratch : List Nat
  stainFabric : List Nat
  retired : List Nat
  due : List Nat
  corrected : Tab (List Nat)
  deriving DecidableEq, Repr

/-- A fault record (R441). context, queue, core and site are none where the record says none. -/
structure FaultRec where
  code : BitVec 16
  effect : Nat
  context : Option Nat
  mark : Word
  queue : Option Nat
  core : Option Nat
  site : Option Nat
  reach : Nat
  block : Nat
  timestamp : Dword
  fine : Nat
  count : Nat
  step : Word
  detail : BitVec 128
  seq : Nat
  deriving DecidableEq, Repr

/-- The job record (R415): map holds, per port and module, the PBR ID and FABRIC_BASE. -/
structure Job where
  tag : BitVec 16
  modules : Nat
  index : Nat
  ringMode : Nat
  trainCtx : Nat
  map : Tab (Nat × Dword)
  deriving DecidableEq, Repr

/-- The shard record (R381). -/
structure Shard where
  genA : Nat
  genB : Nat
  serveA : Nat
  serveB : Nat
  sums : Nat
  modules : Nat
  index : Nat
  deriving DecidableEq, Repr

/-- The head keeper: fault records on their way (inbox) and waiting for a ring (waiting), the last sequence number
ever given and the last since start-up (R443, R527), the per-second counts of R445, the module ring, the mailbox, the job and shard records, the flash, the first bytes of the running image's header, the fused
identity seed (R496) and CRC (R493), and the image being pushed, the fabric map. -/
structure Head where
  inbox : List FaultRec
  waiting : List FaultRec
  seq : Nat
  lastSeq : Nat
  secondCount : Tab Nat
  secondLast : Tab FaultRec
  ringAddr : Option (Nat × Nat)
  ringWritten : Nat
  mbStatus : Nat
  mbTag : Dword
  mbCode : Nat
  response : List Byte
  jobPart : Mem
  job : Option Job
  shard : Option Shard
  flash : Mem
  running : List Byte
  seed : BitVec 256
  fuseCrc : Word
  pushed : Mem
  pushing : Bool
  resetWaits : Bool
  stopped : Bool
  ending : List (Nat × Dword)
  fabricMap : Tab (Nat × Nat × Nat × Nat)
  keeperFails : Tab Nat
  deriving DecidableEq, Repr

/-- The tally (R470): the regions' write counts, the header's counts and powered time in timestamp counts up to the last start, sticky and fault records, step entries (64 bytes each),
and the lifetime counters by kind and unit. -/
structure Tally where
  writes : Tab Nat
  powerOns : Nat
  marks : Nat
  powered : Nat
  stickyFull : Bool
  identity : List Byte
  counters : Tab Nat
  sticky : List FaultRec
  faultLog : List FaultRec
  stepLog : List (List Byte)
  loading : Option (Nat × Nat)
  deriving DecidableEq, Repr

/-- One G16 chunk (R59) of a parameter tile: 32 exponents and 2,048 mantissas, its step and the mark of its GRAD_EMIT. -/
structure Chunk where
  tensorId : Nat
  tileIndex : Nat
  number : Nat
  step : Word
  mark : Word
  exps : List Byte
  mants : List (BitVec 16)
  deriving DecidableEq, Repr

/-- A partial sum at a node of a port's reduction tree (R333). -/
structure Node where
  level : Nat
  index : Nat
  chunk : Chunk
  deriving DecidableEq, Repr

/-- A weight tile that a feeder fetches: its schedule position, global index, landing slots, parts landed, the stained rows of its image, and its image when whole (R426, R430). -/
structure Fetch where
  pos : Nat
  tile : Nat
  first : Nat
  parts : Nat
  landed : List Nat
  image : Mem
  tensorId : Nat
  tileIndex : Nat
  format : Byte
  tileScale : F32
  stained : List Nat
  ready : Bool
  deriving DecidableEq, Repr

/-- One fabric port with its Mangle, Press and feeder (R376, R310, R421). arrival: ring slots by SEQ, none for one whose chunk was dropped ahead of its turn; tops: chunks at the
tree top; press: chunks handed to the Press; heldRequests: weight requests held under R368; barrierPast: the BARRIER messages taken, by step, identifier and round (R427); mcastStatus: the status mask that the feeder's last
undelivered multicast returned (R338); untrusted: IDE has failed and the link has not retrained (R413). -/
structure Port where
  base : Dword
  arrival : List (Nat × Option Chunk)
  nextSeq : Nat
  released : Nat
  sent : Nat
  credit : Nat
  nodes : List Node
  own : List Chunk
  press : List Chunk
  digest : BitVec 256
  fetches : List Fetch
  feedPos : Nat
  feedStopped : Bool
  heldRequests : List Tow
  groups : Tab (Nat × Nat × Nat)
  groupSeq : Tab Nat
  barrierId : Option Word
  barrierRounds : List Nat
  barrierPast : List Nat
  mcastStatus : BitVec 77
  untrusted : Bool := false
  deriving DecidableEq, Repr

/-- The step record (R363). -/
structure StepRec where
  step : Word
  kind : Nat
  slotMask : Nat
  tokens : List Nat
  lr : F32
  resultAddr : Dword
  deriving DecidableEq, Repr

/-- A commit vote (R391, R431). -/
structure Vote where
  bits : Nat
  cause : Nat
  firstSuspect : Nat
  norm2 : F32
  deriving DecidableEq, Repr

/-- The training step in progress (R364 to R402): the latched record, what stands for the vote, the vote table, the digest
table of module 0, the update's constants (R385), the group sums (R388), applied chunks (R377), replay state (R448), the W16 codes changed in
the step and in the last committed one (R456), the largest λ of a lagging core (R472), the last resolution taken from a message: its STEP, the module it names,
and whether it is a DISCARD of a step that has not begun here (R427, R433), and whether PS_PRIME waits for a page or a line (R281, R411). -/
structure StepState where
  record : Option StepRec
  ctx : Nat
  back : Nat
  foul : Bool
  suspect : Bool
  lost : Bool
  cause : Nat
  begun : List Nat
  ended : List Nat
  skipped : Tab (List Nat)
  voted : Bool
  ownVote : Vote
  vote : Vote
  beginAt : Nat
  votes : Tab Vote
  round : Nat
  timedOut : Bool
  emitted : Tab Nat
  applied : List (Nat × Nat)
  tilesDone : List Nat
  late : Nat
  lateRaised : Bool
  t : Nat
  p1 : F32
  p2 : F32
  clip : F32
  h1 : F32
  h2 : F32
  sums : Tab (F32 × F32 × F32)
  groupsDone : List Nat
  norms : Tab F32
  digests : Tab (BitVec 256)
  contribution : BitVec 256
  warmup : Nat
  replayReq : Option (Word × Nat)
  verifyStep : Option Word
  verifyDigest : BitVec 256
  markPending : Bool
  lagCore : Option Nat
  lagRatio : Nat
  norm2 : F32
  changed : Tab (Nat × Nat)
  lastChanged : Tab (Nat × Nat)
  lagMost : F32
  resolution : Option (Word × Nat × Bool)
  primeWaits : Bool
  deriving DecidableEq, Repr

/-- The risk monitor (R453, R454). -/
structure Risk where
  rho : F32
  expected : F32
  counts : Tab Nat
  committed : Nat
  dueRaised : Bool
  deriving DecidableEq, Repr

/-- One securing slot (R458): the round it holds, whether its seal is set, whether the step after its generation has committed (R463) and that step's digest, the
bases of its parts in the training context, and what its parts held when the training context ended, with the stained granules (0 SNAP, 1 MIRROR, 2 PARITY) (log
entry 46). -/
structure SecureSlot where
  genStep : Nat
  round : Nat
  isSealed : Bool
  restorable : Bool
  verify : BitVec 256
  snap : Nat
  mirror : Nat
  parity : Nat
  keptSnap : Mem
  keptMirror : Mem
  keptParity : Mem
  keptStains : List (Nat × Nat)
  deriving DecidableEq, Repr

/-- Securing (R455 to R461): both slots, the round in progress (slot, full), rounds started, writes sent and not completed, the parts
sent (bit 0 mirror, bit 1 parity), the tensors under parity in the plan, the open windows of other modules (module, core and window,
secure groups), whether a plan stands, whether the next round is the first after priming, the committed steps at its start, and the slot of the
first round, whose SNAP alone holds the blocks of frozen tiles (R455). -/
structure Secure where
  slots : List SecureSlot
  active : Option (Nat × Bool)
  rounds : Nat
  uncompleted : Nat
  sent : Nat
  parityTensors : List Nat
  noticed : List (Nat × Nat × Nat)
  planned : Bool
  first : Bool
  mark : Nat
  frozenIn : Nat
  deriving DecidableEq, Repr

/-- One raised peg that has not yet latched (R504, R505): sources, and origin module, PEG_ID and time for a remote one. -/
structure PegReq where
  sources : Nat
  remote : Option (Nat × Nat × Dword × Nat)
  deriving DecidableEq, Repr

/-- A remote sync signal in flight (R94). -/
structure Signal where
  src : Nat
  dst : Nat
  ctx : Nat
  token : Nat
  count : Nat
  queue : Nat
  mark : Word
  deriving DecidableEq, Repr

/-- One core's arrival at a collective operation (R191, R174, R176, R204): kind 0 barrier, 1 scalar reduce, 2 tensor branch, 3 routine. -/
structure Arrival where
  kind : Nat
  ctx : Nat
  thread : Nat
  core : Nat
  queue : Nat
  op : Nat
  value : Dword
  refused : Option Nat
  instr : Instr
  deriving DecidableEq, Repr

/-- One multicast in flight (R336 to R338): its group, source reach, targets, and the targets lost since it was sent. -/
structure Mcast where
  group : Nat
  source : Nat
  targets : List Nat
  lost : List Nat := []
  deriving DecidableEq, Repr

/-- One accepted window write in flight (R283), with the port it came by and the transaction that completes when it is applied (R421). -/
structure Landing where
  port : Nat
  site : Nat
  window : Nat
  offset : Nat
  data : List Byte
  poison : Bool
  parity : Bool
  signal : Option (Nat × Nat)
  tag : Option Nat
  deriving DecidableEq, Repr

/-- What the arbiter keeps beside its page: the round-robin point, and the grant that a withdrawal undoes (R348, R349), and
the requesters whose MASKED_WINDOWS has counted the window under way (R361). granted: the owner, the round-robin point, USED and GRANTS
before its transfer, and whether the transfer masked it. pre: of each class of a router output, the last input and virtual channel that
transferred (preBefore: before the grant); chosen: the one that the grant went to (R346). -/
structure Arb where
  last : Nat
  granted : Option (Nat × Nat × Nat × Nat × Bool)
  counted : List Nat
  pre : Tab Nat := []
  preBefore : Tab Nat := []
  chosen : Option Nat := none
  deriving DecidableEq, Repr

/-- A read of a window that waits for an offline page (R281, R284): port, core, window, byte range, sender and tag. -/
structure WindowRead where
  port : Nat
  core : Nat
  window : Nat
  offset : Nat
  len : Nat
  src : Nat
  tag : Nat
  deriving DecidableEq, Repr

/-- The mesh (R327 to R339): replays per link, the rebuild in progress, whether links or reaches have changed since the last one, signals,
arrivals, multicasts and window writes in flight, arbiters, and the window reads that wait. -/
structure Mesh where
  retries : Tab (Nat × Nat)
  rebuilding : Bool
  dirty : Bool
  hostCommits : List Nat
  signals : List Signal
  arrivals : List Arrival
  mcasts : List Mcast
  landings : List Landing
  arbs : Tab Arb
  reads : List WindowRead
  deriving DecidableEq, Repr

/-- Power, cooling and the governor (R549 to R558): the reaches that are powered and answer, the caps of heat and power by reach, the
consecutive decisions below 100 °C, what each reach that is off is off for (1 heat, 2 its PLL, 3 its keeper, 4 its supply, 5 the reference
clock), the last ten powers, the consecutive decisions with a blade over 400 A, whether the coolant fault stands, and whether REFCLK is there. -/
structure Power where
  up : List Nat
  nt : Tab Nat
  np : Tab Nat
  cool : Tab Nat
  off : Tab Nat
  powers : List Nat
  blade : Nat
  coolantFault : Bool
  refclk : Bool
  deriving DecidableEq, Repr

/-- The host port's HDM window (R410 to R412): the snoop filter, oldest first, of lines by number in the window, each with whether the host
may hold it modified; the snoops not answered yet, with whether they invalidate; host accesses that wait for an answer. window: while
HDM_ACTIVE, the context, base and pages that HP_HDM_CTRL and HP_HDM_BASE gave when decoding began; draining: ENABLE has been written 0 and tracked lines are still out. functionMask: MSI-X's function mask. -/
structure Hdm where
  filter : List (Nat × Bool)
  asked : List (Nat × Bool)
  waiting : List (Nat × Bool × List Byte)
  msixPending : List Nat
  msixMasked : List Nat
  functionMask : Bool
  window : Option (Nat × Nat × Nat)
  draining : Bool
  h0Up : Bool
  everIde : Bool
  deriving DecidableEq, Repr

/-- Attestation, I3C and straps (R496, R498, R499, R557, R559): the bytes the last signed response covered, and the alias keys that the running
firmware holds. -/
structure Mgmt where
  signed : Option (List Byte)
  ownEd : List Byte
  ownMl : List Byte
  i3c : Option (BitVec 7)
  straps : BitVec 6
  deriving DecidableEq, Repr

/-- What the module gives to the outside: read data, completions, interrupts, messages, pins. Newest last. -/
inductive Out where
  | readData (w : Word)
  | unsupported
  | msix (vector : Nat)
  | tow (m : Tow)
  | completion (tag : Nat) (status : BitVec 16) (data : List Byte) (poison : Bool)
  | refusal (port tag : Nat) (code : BitVec 16) (mark : Word) (addr : Nat)
  | creditWrite (port : Nat) (count : Nat)
  | hostData (data : Option (List Byte))
  | snoop (line : Nat) (invalidate : Bool)
  | pegOut
  | spdm (data : List Byte)
  | pldm (data : List Byte)
  deriving DecidableEq, Repr

/-- The module. now and fine are the timestamp every reach agrees on (R344); freeCount numbers the free values drawn so far
(the MODEL's own field); pegCount is the last PEG_ID given and pegOrigin the origin's time of a held remote peg (R435, R505); withheld is the step state of a withheld step, kept for its resolution while a replay runs (R394, R399); pending holds the commands that wait, first in first out. -/
structure State where
  pages : Pages
  queues : Tab QEntry
  cores : Tab Core
  ctxs : Tab Ctx
  store : Store
  head : Head
  tally : Tally
  ports : Tab Port
  step : StepState
  withheld : Option StepState
  risk : Risk
  secure : Secure
  pegs : List PegReq
  pegCount : Nat
  pegOrigin : Option (Dword × Nat)
  mesh : Mesh
  power : Power
  hdm : Hdm
  mgmt : Mgmt
  moves : List Move
  outbox : List Out
  now : Dword
  fine : Nat
  freeCount : Nat
  pending : List Instr
  deriving DecidableEq, Repr

/-- The fused key hashes (R482, R508): SHA-256 of the key bytes that are all 0. DESIGN CHOICE (log entry 3). -/
def edKeyHash : List Word :=
  [0xAD7A6866, 0x77BD62F8, 0x8BC18F6C, 0x208E9F8E, 0x85149708, 0xB333E26E, 0x1D592A90, 0x25295F0D]
def mlKeyHash : List Word :=
  [0x987B9177, 0x02716716, 0x1D8D9FD2, 0x4C58BFA6, 0xFF16EAFA, 0x64B1F72D, 0xA9C8D75B, 0xB00212FF]

/-- The CRC-32 of the fused words below, by `fusedBytes` (R493; log entries 3 and 60). -/
def fuseCrcWord : Word := 0xC4E7BE4B

/-- The fused words of the fuse page at reset, as keys and words (R493, R494, R508): an LHM-CY72-F-P4, every site good.
DESIGN CHOICE (log entry 3): the spec leaves which module it is to manufacture. -/
def fusedWords : Tab Word :=
  [(76 * 2 ^ 18 + 0x2C * 2 ^ 12 + 0x048, 0x00000101#32), (76 * 2 ^ 18 + 0x2C * 2 ^ 12 + 0x050, 0xFFFFFFFF#32),
   (76 * 2 ^ 18 + 0x2C * 2 ^ 12 + 0x054, 0xFFFFFFFF#32), (76 * 2 ^ 18 + 0x2C * 2 ^ 12 + 0x058, 0x000000FF#32)] ++
  (List.range 8).map (fun i => (76 * 2 ^ 18 + 0x2C * 2 ^ 12 + 0x080 + 4 * i, edKeyHash.getD i 0)) ++
  (List.range 8).map (fun i => (76 * 2 ^ 18 + 0x2C * 2 ^ 12 + 0x0A0 + 4 * i, mlKeyHash.getD i 0)) ++
  (List.range 72).map (fun s => (76 * 2 ^ 18 + 0x2C * 2 ^ 12 + 0x100 + 4 * s, BitVec.ofNat 32 (128 + s / 9 * 16 + s % 9)))

/-- The module before the input first enters its range: every register at its table's reset value (an unlisted word), every
queue, context and buffer absent, every memory all 0 (R84, R93, R352, R487, R510 to R540). The values the spec does not
give are named in log entries 3, 4 and 5. -/
def State.reset : State where
  pages := { live := fusedWords, shadow := [], captured := [] }
  queues := []
  cores := []
  ctxs := []
  store := { stack := [], scratch := [], fabric := [], host := [], stainStack := [], stainScratch := [], stainFabric := [],
             retired := [], due := [], corrected := [] }
  head := { inbox := [], waiting := [], seq := 0, lastSeq := 0, secondCount := [], secondLast := [], ringAddr := none, ringWritten := 0,
            mbStatus := 0, mbTag := 0, mbCode := 0, response := [], jobPart := [], job := none, shard := none, flash := [], running := [], seed := 0, fuseCrc := fuseCrcWord,
            pushed := [], pushing := false, resetWaits := false, stopped := false, ending := [], fabricMap := [],
            keeperFails := [] }
  tally := { writes := [], powerOns := 0, marks := 0, powered := 0, stickyFull := false, identity := [], counters := [], sticky := [],
             faultLog := [], stepLog := [], loading := none }
  ports := []
  step := { record := none, ctx := 0, back := 0, foul := false, suspect := false, lost := false, cause := 0, begun := [], ended := [],
            skipped := [], voted := false, ownVote := { bits := 0, cause := 0, firstSuspect := 0xFFFF, norm2 := 0 },
            vote := { bits := 0, cause := 0, firstSuspect := 0xFFFF, norm2 := 0 }, beginAt := 0, votes := [],
            round := 0, timedOut := false, emitted := [], applied := [], tilesDone := [], late := 0, lateRaised := false,
            t := 0, p1 := 0, p2 := 0, clip := 0, h1 := 0, h2 := 0, sums := [], groupsDone := [], norms := [], digests := [],
            contribution := 0, warmup := 0, replayReq := none, verifyStep := none, verifyDigest := 0, markPending := false,
            lagCore := none, lagRatio := 0, norm2 := 0, changed := [], lastChanged := [], lagMost := 0, resolution := none, primeWaits := false }
  withheld := none
  risk := { rho := 0, expected := 0, counts := [], committed := 0, dueRaised := false }
  secure := { slots := [], active := none, rounds := 0, uncompleted := 0, sent := 0, parityTensors := [], noticed := [], planned := false,
              first := true, mark := 0, frozenIn := 0 }
  pegs := []
  pegCount := 0
  pegOrigin := none
  mesh := { retries := [], rebuilding := false, dirty := false, hostCommits := [], signals := [], arrivals := [], mcasts := [], landings := [], reads := [],
            arbs := [] }
  power := { up := [], nt := [], np := [], cool := [], off := [], powers := [], blade := 0, coolantFault := false,
             refclk := true }
  hdm := { filter := [], asked := [], waiting := [], msixPending := [], msixMasked := List.range 65, functionMask := false, window := none, draining := false, h0Up := false, everIde := false }
  mgmt := { signed := none, ownEd := [], ownMl := [], i3c := none, straps := 0 }
  moves := []
  outbox := []
  now := 0
  fine := 0
  freeCount := 0
  pending := []

end Sys2Proof.Machine
end

