-- ==== Sys2Proof/Machine/Ops.lean ====
section
/-!
DEFINITION. Ops.lean: the named operations every command is written with: sparse tables, register words, interrupts,
fault reports, cores, threads and queues, and memory by tier.
-/
namespace Sys2Proof.Machine

/-! ### Ordered lists -/

/-- Puts a number into a rising list, once. -/
def insertKey (x : Nat) : List Nat → List Nat
  | [] => [x]
  | y :: r => if x < y then x :: y :: r else if x = y then y :: r else y :: insertKey x r

/-- The distinct numbers of a list, rising. -/
def sortDistinct (l : List Nat) : List Nat := l.foldr insertKey []

/-- Puts an entry into an ordered list, before the first entry it may precede. -/
def insertBy {α : Type} (le : α → α → Bool) (x : α) : List α → List α
  | [] => [x]
  | y :: r => if le x y then x :: y :: r else y :: insertBy le x r

/-- The entries of a list in the order of a comparison; equals keep their places. -/
def sortBy {α : Type} (le : α → α → Bool) (l : List α) : List α := l.foldr (insertBy le) []

/-! ### Sparse tables -/

/-- The entry at a key. -/
def tFind {α : Type} (t : Tab α) (k : Nat) : Option α :=
  match t with
  | [] => none
  | (j, v) :: r => if j = k then some v else tFind r k

/-- The entry at a key, or the default. -/
def tGet {α : Type} (d : α) (t : Tab α) (k : Nat) : α := (tFind t k).getD d

/-- Sets the entry at a key, keeping keys rising. -/
def tIns {α : Type} (t : Tab α) (k : Nat) (v : α) : Tab α :=
  match t with
  | [] => [(k, v)]
  | (j, w) :: r => if k < j then (k, v) :: (j, w) :: r else if j = k then (k, v) :: r else (j, w) :: tIns r k v

/-- Removes the entry at a key. -/
def tDel {α : Type} (t : Tab α) (k : Nat) : Tab α := t.filter (fun e => e.1 ≠ k)

/-- Sets the entry at a key in canonical form: the value an unlisted key reads as removes the entry. -/
def tPut {α : Type} [DecidableEq α] (d : α) (t : Tab α) (k : Nat) (v : α) : Tab α :=
  if v = d then tDel t k else tIns t k v

/-- Adds to a counter held in a table. -/
def tAdd (t : Tab Nat) (k n : Nat) : Tab Nat := tPut 0 t k (tGet 0 t k + n)

/-- Keys strictly rising. -/
def tSorted {α : Type} : Tab α → Bool
  | [] => true
  | (j, _) :: r => (match r with | [] => true | (k, _) :: _ => decide (j < k)) && tSorted r

/-- A memory in canonical form: addresses strictly rising, no entry equal to what an unlisted address reads as. -/
def Memory.wf (m : Mem) : Bool := tSorted m && m.all (fun c => c.2 ≠ 0)

/-- One byte of a memory; an unlisted byte reads 0 (R487, log entry 5). -/
def memByte (m : Mem) (a : Nat) : Byte := tGet 0 m a

/-- Writes one byte. -/
def memPut (m : Mem) (a : Nat) (b : Byte) : Mem := tPut 0 m a b

/-- Bytes a to a + n − 1. -/
def memBytes (m : Mem) (a n : Nat) : List Byte := (List.range n).map (fun i => memByte m (a + i))

/-- Writes consecutive bytes from a. -/
def memStore (m : Mem) (a : Nat) (bs : List Byte) : Mem :=
  match bs with
  | [] => m
  | b :: r => memStore (memPut m a b) (a + 1) r

/-- The bytes a to a + n − 1 as a memory from 0. -/
def memSlice (m : Mem) (a n : Nat) : Mem :=
  (m.filter (fun c => a ≤ c.1 ∧ c.1 < a + n)).map (fun c => (c.1 - a, c.2))

/-- Replaces the bytes a to a + n − 1 by the first n bytes of src. -/
def memSplice (m : Mem) (a n : Nat) (src : Mem) : Mem :=
  m.filter (fun c => c.1 < a) ++ (src.filter (fun c => c.1 < n)).map (fun c => (c.1 + a, c.2)) ++
    m.filter (fun c => a + n ≤ c.1)

/-- Bytes as a memory from 0. -/
def memOf (bs : List Byte) : Mem := memStore [] 0 bs

/-- A little-endian number (R10). -/
def leNat : List Byte → Nat
  | [] => 0
  | b :: r => b.toNat + 256 * leNat r

/-- A number as n little-endian bytes (R10). -/
def leBytes : Nat → Nat → List Byte
  | 0, _ => []
  | n + 1, v => BitVec.ofNat 8 v :: leBytes n (v / 256)

/-- The little-endian number of n bytes at offset a of a byte list; absent bytes count 0. -/
def leAt (bs : List Byte) (a n : Nat) : Nat := leNat ((bs.drop a).take n)

/-- Bits hi to lo of a number. -/
def bitsOf (v hi lo : Nat) : Nat := v / 2 ^ lo % 2 ^ (hi + 1 - lo)

/-- Bit i of a number. -/
def bitOf (v i : Nat) : Bool := v / 2 ^ i % 2 = 1

/-- A two's-complement number of n bits. -/
def signedOf (n v : Nat) : Int := if v % 2 ^ n < 2 ^ (n - 1) then (v % 2 ^ n : Nat) else (v % 2 ^ n : Nat) - (2 ^ n : Nat)

/-- 0 or 1. -/
def boolNat (b : Bool) : Nat := if b then 1 else 0

/-- Adds x to a list of distinct numbers. -/
def addOnce (l : List Nat) (x : Nat) : List Nat := if l.contains x then l else l ++ [x]

/-- Replaces element i of a list. -/
def listSet {α : Type} (l : List α) (i : Nat) (x : α) : List α := l.set i x

/-! ### Register words -/

/-- A field of a register word. -/
structure Fld where
  off : Nat
  hi : Nat
  lo : Nat
  deriving DecidableEq, Repr

/-- The word in force at offset o of page p of reach r. -/
def regWord (s : State) (r p o : Nat) : Word := (tFind s.pages.live (pageKey r p o)).getD (resetWord r p o)

/-- Sets a word in force; a word equal to its reset value is not listed. -/
def setRegWord (s : State) (r p o : Nat) (w : Word) : State :=
  { s with pages := { s.pages with live := tPut (resetWord r p o) s.pages.live (pageKey r p o) w } }

/-- The shadow word at an offset (R520). -/
def shadowWord (s : State) (r p o : Nat) : Word := (tFind s.pages.shadow (pageKey r p o)).getD (resetWord r p o)

/-- Sets a shadow word. -/
def setShadowWord (s : State) (r p o : Nat) (w : Word) : State :=
  { s with pages := { s.pages with shadow := tPut (resetWord r p o) s.pages.shadow (pageKey r p o) w } }

/-- A field in force. -/
def fld (s : State) (r p : Nat) (f : Fld) : Nat := bitsOf (regWord s r p f.off).toNat f.hi f.lo

/-- A word with one field replaced. -/
def withField (w : Word) (hi lo v : Nat) : Word :=
  let span := 2 ^ (hi + 1 - lo)
  BitVec.ofNat 32 (w.toNat - w.toNat / 2 ^ lo % span * 2 ^ lo + v % span * 2 ^ lo)

/-- Sets a field in force. -/
def setFld (s : State) (r p : Nat) (f : Fld) (v : Nat) : State :=
  setRegWord s r p f.off (withField (regWord s r p f.off) f.hi f.lo v)

/-- Adds n to a counter field, which stays at all ones (R565). -/
def bump (s : State) (r p : Nat) (f : Fld) (n : Nat) : State :=
  setFld s r p f (min (fld s r p f + n) (2 ^ (f.hi + 1 - f.lo) - 1))

/-- Adds n to one of the free-running counters of R565. -/
def bumpWrap (s : State) (r p : Nat) (f : Fld) (n : Nat) : State := setFld s r p f (fld s r p f + n)

/-- Adds n to a free-running 64-bit counter in two words (R565). -/
def bumpPair (s : State) (r p o n : Nat) : State :=
  let v := (regWord s r p o).toNat + 2 ^ 32 * (regWord s r p (o + 4)).toNat + n
  setRegWord (setRegWord s r p o (BitVec.ofNat 32 v)) r p (o + 4) (BitVec.ofNat 32 (v / 2 ^ 32))

/-- A whole-word field. -/
def wordFld (o : Nat) : Fld := ⟨o, 31, 0⟩

/-- Whether a reach is powered and answers (R515, KP_REACH_UP of R527). -/
def reachUp (s : State) (r : Nat) : Bool := r = headPage || s.power.up.contains r

/-- The boot phase (R509). -/
def bootPhase (s : State) : Nat := fld s 76 0x2D ⟨0x040, 2, 0⟩

/-- The ROM waits for an image (R484). -/
def romWaits (s : State) : Bool := bootPhase s = 2 || bootPhase s = 6

/-- The in-service core count, the loader's and the scheduler's core count (R488). -/
def coreCount (s : State) : Nat := fld s 76 0x2D ⟨0x040, 31, 24⟩

/-- The site of logical core k (R14), as the head page gives it (R527). -/
def siteOf (s : State) (k : Nat) : Option Nat :=
  let b := bitsOf (regWord s headPage 0 (0x400 + k / 4 * 4)).toNat (8 * (k % 4) + 7) (8 * (k % 4))
  if k < 72 ∧ b < 72 then some b else none

/-- The logical core at a site, if one is in service there. -/
def logicalOf (s : State) (site : Nat) : Option Nat := (List.range 72).find? (fun k => siteOf s k = some site)

/-- Population F: every site carries two stacks (R3, R494). -/
def populationF (s : State) : Bool := fld s 76 0x2C ⟨0x04C, 4, 4⟩ = 0

/-- Port option P4 (R4, R494). -/
def optionP4 (s : State) : Bool := fld s 76 0x2C ⟨0x04C, 3, 3⟩ = 0

/-- Whether fabric port p, with its Mangle and Press, is present (R4). -/
def portPresent (s : State) (p : Nat) : Bool := p < 4 && (optionP4 s || p % 2 = 0)

/-- The good core count of the grade (R2, R494). -/
def gradeCores (s : State) : Nat := match fld s 76 0x2C ⟨0x04C, 6, 5⟩ with | 0 => 72 | 1 => 64 | 2 => 56 | _ => 0

/-- Whether a site is fused good (R508). -/
def siteGood (s : State) (site : Nat) : Bool := fld s 76 0x2C ⟨0x100 + 4 * site, 7, 7⟩ = 1

/-- Whether a stack exists (R3). -/
def stackPresent (s : State) (k : Nat) : Bool := k < 144 && (populationF s || k % 2 = 0)

/-- Whether the block of a page is present (R514). -/
def blockPresent (s : State) (r p : Nat) : Bool :=
  if r < 72 ∧ 0x10 ≤ p ∧ p ≤ 0x18 then (logicalOf s r).isSome
  else if (r = 73 ∨ r = 75) ∧ 0x20 ≤ p ∧ p ≤ 0x24 then optionP4 s
  else (blockOf r p).isSome

/-! ### Messages and interrupts -/

/-- Sends something to the outside. -/
def emit (s : State) (o : Out) : State := { s with outbox := s.outbox ++ [o] }

/-- An event on an MSI-X vector: its message, or its pending bit while the function or the vector is masked or H0 is down (R408; log entry 22). -/
def msix (s : State) (v : Nat) : State :=
  if s.hdm.functionMask || s.hdm.msixMasked.contains v || !s.hdm.h0Up then
    { s with hdm := { s.hdm with msixPending := addOnce s.hdm.msixPending v } }
  else emit s (.msix v)

/-- Whether a page's interrupt is pending (R524). -/
def irqPending (s : State) (r p : Nat) : Bool := (regWord s r p 0x010 &&& regWord s r p 0x014) ≠ 0

/-- MSI-X vector 64 when a page passes from not pending to pending (R525). -/
def irqRise (was : Bool) (s : State) (r p : Nat) : State := if !was && irqPending s r p then msix s 64 else s

/-- A block event: sets its IRQ_STATUS bit (R524). -/
def irqEvent (s : State) (r p bit : Nat) : State :=
  irqRise (irqPending s r p) (setRegWord s r p 0x010 (regWord s r p 0x010 ||| BitVec.ofNat 32 (2 ^ bit))) r p

/-! ### Cores, threads and queues -/

/-- A thread at the start of a context (R188). -/
def freshThread : Thread :=
  { regs := [], loops := [], rets := [], code := none, pc := 0, attached := none, waits := .none, held := none, holder := none }

/-- A tile register at the start of a context: all +0, HF4, scale 1.0 (R84). -/
def freshTile : TileReg :=
  { format := 5, data := [], scales := [], tileScale := 0x3F800000, orient := false, rows := 0, cols := 0 }

/-- A Starch slot before its setup (R113). -/
def freshSlot : Slot :=
  { target := 0, owner := 0, mode := 0, headroom := 0, hasInit := false, initExp := 0, valid := false, clean := 0, corr := 0,
    scaleExp := 0, est := 0 }

/-- A free stream descriptor (R297). -/
def freshDesc : Desc :=
  { state := 0, revoked := false, image := none, nextUnit := 0, unitsDone := 0, ctx := 0, flight := [], pins := [] }

/-- A core at the start of a context (R84, R93, R188). Thread 15 stands as the last to issue, so that thread 0 comes first (R90; log entry 120). -/
def freshCore : Core :=
  { threads := [], tokens := [], tiles := [], accs := [], slots := [], descs := [], held := [], started := [], loaded := none,
    lock := none, lastLock := 0, satRaised := false, nonfiniteRaised := false, stainRows := [], layerPos := none, wwPos := 0, wwOut := [], wwKept := [],
    lagRun := 0, passed := false, lastIssue := 15 }

/-- A fabric port with nothing in it. -/
def freshPort : Port :=
  { base := 0, arrival := [], nextSeq := 0, released := 0, sent := 0, credit := 0, nodes := [], own := [], press := [],
    digest := 0, fetches := [], feedPos := 0, feedStopped := false, heldRequests := [], groups := [], groupSeq := [],
    barrierId := none, barrierRounds := [], barrierPast := [], mcastStatus := 0 }

/-- The core at a site. -/
def coreAt (s : State) (site : Nat) : Core := tGet freshCore s.cores site

/-- Sets the core at a site. -/
def setCore (s : State) (site : Nat) (c : Core) : State := { s with cores := tIns s.cores site c }

/-- Changes the core at a site. -/
def modCore (s : State) (site : Nat) (f : Core → Core) : State := setCore s site (f (coreAt s site))

/-- A thread of the core at a site. -/
def threadAt (s : State) (site t : Nat) : Thread := tGet freshThread (coreAt s site).threads t

/-- Sets a thread. -/
def setThread (s : State) (site t : Nat) (th : Thread) : State :=
  modCore s site (fun c => { c with threads := tIns c.threads t th })

/-- Changes a thread. -/
def modThread (s : State) (site t : Nat) (f : Thread → Thread) : State := setThread s site t (f (threadAt s site t))

/-- A queue entry; none where the queue is not created (R184). -/
def queueAt (s : State) (q : Nat) : Option QEntry := tFind s.queues q

/-- Sets a queue entry. -/
def setQueue (s : State) (q : Nat) (e : QEntry) : State := { s with queues := tIns s.queues q e }

/-- Changes a queue entry, if the queue is created. -/
def modQueue (s : State) (q : Nat) (f : QEntry → QEntry) : State :=
  match queueAt s q with
  | none => s
  | some e => setQueue s q (f e)

/-- A live context. -/
def ctxAt (s : State) (c : Nat) : Option Ctx := tFind s.ctxs c

/-- Sets a context. -/
def setCtx (s : State) (c : Nat) (x : Ctx) : State := { s with ctxs := tIns s.ctxs c x }

/-- Changes a context, if it lives. -/
def modCtx (s : State) (c : Nat) (f : Ctx → Ctx) : State :=
  match ctxAt s c with
  | none => s
  | some x => setCtx s c (f x)

/-- A fabric port. -/
def portAt (s : State) (p : Nat) : Port := tGet freshPort s.ports p

/-- Changes a fabric port. -/
def modPort (s : State) (p : Nat) (f : Port → Port) : State := { s with ports := tIns s.ports p (f (portAt s p)) }

/-- A sync token of a core (R93). -/
def tokenOf (c : Core) (k : Nat) : BitVec 16 := tGet 0 c.tokens k

/-- The layout width of a context: 0 before a module is loaded into it. -/
def layoutWidth (s : State) (c : Nat) : Nat :=
  match ctxAt s c with
  | some x => match x.loaded with | some l => l.width | none => 0
  | none => 0

/-! ### Fault reports (R441 to R446, R519) -/

/-- What a unit reports of a fault: code, effect, and the identifiers its record carries. page is the raising page. -/
structure Report where
  code : Nat
  effect : Nat
  ctx : Option Nat
  mark : Word
  queue : Option Nat
  core : Option Nat
  site : Option Nat
  reach : Nat
  page : Nat
  detail : Nat
  deriving DecidableEq, Repr

/-- A report with no context, queue, core or detail. -/
def plainReport (code effect reach page : Nat) : Report :=
  { code := code, effect := effect, ctx := none, mark := 0, queue := none, core := none, site := none, reach := reach, page := page,
    detail := 0 }

/-- Latches a fault in its page's header, or counts it in FAULT_OVERRUN (R519). -/
def latch (s : State) (f : Report) : State :=
  if fld s f.reach f.page ⟨0x018, 31, 31⟩ = 1 then bump s f.reach f.page ⟨0x00C, 31, 24⟩ 1
  else
    let s := setRegWord s f.reach f.page 0x018 (BitVec.ofNat 32 (2 ^ 31 + f.effect * 65536 + f.code))
    let s := setRegWord s f.reach f.page 0x01C f.mark
    let s := setRegWord s f.reach f.page 0x020 (BitVec.ofNat 32
      (boolNat f.queue.isSome * 2 ^ 27 + boolNat f.ctx.isSome * 2 ^ 26 + f.ctx.getD 0 % 64 * 2 ^ 20 + f.queue.getD 0 % 2 ^ 20))
    irqEvent s f.reach f.page 31

/-- The record a unit sends to the head keeper (R441); SEQ is given on arrival (R443). -/
def recordOf (s : State) (f : Report) : FaultRec :=
  { code := BitVec.ofNat 16 f.code, effect := f.effect, context := f.ctx, mark := f.mark, queue := f.queue, core := f.core,
    site := f.site, reach := f.reach, block := ((blockOf f.reach f.page).map blockCode).getD 1, timestamp := s.now,
    fine := s.fine, count := 1, step := regWord s 76 0x29 0x050, detail := BitVec.ofNat 128 f.detail, seq := 0 }

/-- The hardware queue of a command that runs on an engine queue. -/
def instrQueue : Instr → Option Nat := fun i =>
  match i with
  | .product h _ => some h.queue.toNat | .sparseProduct h _ => some h.queue.toNat | .sparseEncode h _ => some h.queue.toNat
  | .sparseCheck h _ => some h.queue.toNat | .sparseSlotSetup h _ => some h.queue.toNat
  | .vadd h _ => some h.queue.toNat | .vsub h _ => some h.queue.toNat | .vmul h _ => some h.queue.toNat
  | .vfma h _ => some h.queue.toNat | .vmin h _ => some h.queue.toNat | .vmax h _ => some h.queue.toNat
  | .vabs h _ => some h.queue.toNat | .vneg h _ => some h.queue.toNat | .vsel h _ => some h.queue.toNat
  | .vcmp h _ => some h.queue.toNat | .vexp2 h _ => some h.queue.toNat | .vlog2 h _ => some h.queue.toNat
  | .vrsqrt h _ => some h.queue.toNat | .vrecip h _ => some h.queue.toNat | .vtanh h _ => some h.queue.toNat
  | .vred h _ => some h.queue.toNat | .cvt h _ => some h.queue.toNat | .vectorSlotSetup h _ => some h.queue.toNat
  | .descLoad h _ _ => some h.queue.toNat | .admitStream h _ _ => some h.queue.toNat | .nextUnit h _ => some h.queue.toNat
  | .run h _ => some h.queue.toNat | .retire h _ => some h.queue.toNat | .streamSlotSetup h _ => some h.queue.toNat
  | .gradEmit h _ => some h.queue.toNat
  | _ => none

/-- A thread that leaves its queue at a halt: no loop, no return point, nothing held (log entry 24). -/
def threadHalted (th : Thread) : Thread :=
  { th with loops := [], rets := [], code := none, pc := 0, attached := none, waits := .none, held := none }

/-- Idle, or ready where something of the queue is left to run: commands in its ring, or a code object under way (R184, R189, R530). -/
def idleOrReady (e : QEntry) : Nat :=
  if e.head = e.tail ∧ (e.saved.bind Saved.code).isNone then 0 else 1

/-- A thread leaves its queue, and what it was in stays with the queue (R189; log entry 24). -/
def leaveQueue (s : State) (q site t : Nat) : State :=
  let th := tGet freshThread (coreAt s site).threads t
  let keep := if th.loops = [] ∧ th.rets = [] ∧ th.code = none then none
    else some { loops := th.loops, rets := th.rets, code := th.code, pc := th.pc : Saved }
  modThread (modQueue s q (fun e => { e with saved := keep })) site t (fun th =>
    { th with attached := none, loops := [], rets := [], code := none, pc := 0, waits := .none })

/-- Whether a queue is ready and bound to a core's thread (R184, R189). -/
def readyFor (s : State) (core t q : Nat) : Bool :=
  match queueAt s q with
  | none => false
  | some e => decide (e.core = core ∧ e.thread.toNat = t ∧ e.state = 1 ∧ e.stopping = none)

/-- Attaches a free thread to the next ready queue bound to it, in ascending number after the one it left, wrapping (R189). -/
def attachNext (s : State) (core site t left : Nat) : State :=
  let mine := (s.queues.map (·.1)).filter (readyFor s core t)
  match (mine.find? (fun q => left < q)).or mine.head? with
  | none => s
  | some q =>
    let saved := (queueAt s q).bind QEntry.saved
    modThread (modQueue s q (fun e => { e with state := 2, saved := none })) site t (fun th =>
      match saved with
      | none => { th with attached := some q }
      | some v => { th with attached := some q, loops := v.loops, rets := v.rets, code := v.code, pc := v.pc })

/-- Stops queue q with a fault code and mark: nothing more of it is fetched, and its commands that wait unstarted in engine
queues are removed and counted (R98, R194). The queue table shows the halt once the record is in its ring (R444). -/
def stopQueue (s : State) (q : Nat) (code : Nat) (mark : Word) : State :=
  match queueAt s q with
  | none => s
  | some e =>
    if e.state = 3 ∨ e.stopping.isSome then s
    else
      let s := setQueue s q { e with stopping := some (BitVec.ofNat 16 code, mark), saved := none }
      let mine := fun (x : Place × Instr) => instrQueue x.2 = some q
      let s := bump s 76 0x28 (wordFld 0x068) ((s.cores.map (fun c => (c.2.held.filter mine).length)).foldl (· + ·) 0)
      let s := { s with cores := s.cores.map (fun c => (c.1, { c.2 with held := c.2.held.filter (fun x => !mine x) })) }
      match siteOf s e.core with
      | none => s
      | some site =>
        if (threadAt s site e.thread.toNat).attached = some q then
          attachNext (modThread s site e.thread.toNat threadHalted) e.core site e.thread.toNat q
        else s

/-- Shows a stopped queue as halted (R184, R194, R444). -/
def showHalt (s : State) (q : Nat) : State :=
  modQueue s q (fun e => match e.stopping with
    | none => e
    | some (code, mark) => { e with state := 3, haltFault := code, haltMark := mark, stopping := none })

/-- A halt that no record announces shows at once; a queue that stops already for a record on its way shows its own with that record (R444). -/
def haltNow (s : State) (q code : Nat) (mark : Word) : State :=
  match (queueAt s q).bind QEntry.stopping with
  | some _ => s
  | none => showHalt (stopQueue s q code mark) q

/-- The CAUSE bit of a code that makes the step suspect (R398). -/
def causeBit (code : Nat) : Nat := if code = 0x0901 ∨ code = 0x0902 then 0 else if code = 0x0210 then 1 else if code = 0x0211 then 2 else 3

/-- The step becomes suspect, with its cause (R391, R398). -/
def suspectStep (s : State) (code : Nat) : State :=
  { s with step := { s.step with suspect := true, cause := if bitOf s.step.cause (causeBit code) then s.step.cause else s.step.cause + 2 ^ causeBit code } }

/-- Sends a report: latched, recorded, and its effect on the step or the queue begun (R442, R443, R519); BT_LAST_FAULT takes class
0x07 (R509). An interlude has no foul
flag (R400). -/
def raise (s : State) (f : Report) : State :=
  let rec' := recordOf s f
  let s := latch s f
  let s := if f.code / 256 = 7 then setRegWord s 76 0x2D 0x048 (BitVec.ofNat 32 f.code) else s
  let s := { s with head := { s.head with inbox := s.head.inbox ++ [rec'] } }
  match f.effect with
  | 3 => match f.queue with | some q => stopQueue s q f.code f.mark | none => s
  | 5 => if fld s 76 0x29 ⟨0x048, 2, 0⟩ = 5 then s else { s with step := { s.step with foul := true } }
  | 6 => suspectStep s f.code
  | 8 => { s with head := { s.head with stopped := true } }
  | _ => s

/-- A lifetime counter of the tally (R470): kinds 0 corrected errors, 1 uncorrected, 2 retired pages, by stack; 3 heat switch-offs, 4
throttled milliseconds, by site; 5 link retries, 6 link downs, by reach · 8 + direction; 7 losses, by reach. -/
def tallyCount (s : State) (kind unit : Nat) : State :=
  { s with tally := { s.tally with counters := tAdd s.tally.counters (kind * 4096 + unit) 1, writes := tAdd s.tally.writes 1 1 } }

/-- The reaches that answer. -/
def reachesUp (s : State) : List Nat := (List.range 77).filter (reachUp s)

/-! ### Memory by tier (R254 to R258, R273 to R279) -/

/-- The target that a fabric-map entry names: PBR ID · 2^64 + base (R258). No entry that a page names changes. -/
def fabricTarget (s : State) (e : Nat) : Nat := let x := tGet (0, 0, 0, 0) s.head.fabricMap e; x.1 * 2 ^ 64 + x.2.1

/-- The object of a context that holds an address, with the address inside its size (R257). -/
def objectAt (x : Ctx) (a : Nat) : Option Obj := x.objects.find? (fun o => o.base ≤ a ∧ a < o.base + o.size)

/-- The page-table entry of the page that holds a context address, where an object covers it (R256, R257). -/
def translate (x : Ctx) (a : Nat) : Option Pte := if (objectAt x a).isSome then tFind x.pt (a / 2 ^ 21) else none

/-- The byte key of offset off of a mapped page in its tier's memory: in the fabric tier, its address at the target (R258). -/
def pteKey (e : Pte) (off : Nat) : Nat := if e.fabric then e.target + e.page * 2 ^ 21 + off else e.place * 2 ^ 37 + e.page * 2 ^ 21 + off

/-- Whether every byte a to a + n − 1 of a context is mapped (R257); pages are taken one at a time. -/
def mapped (x : Ctx) (a n : Nat) : Bool :=
  n = 0 || ((List.range ((a + n - 1) / 2 ^ 21 - a / 2 ^ 21 + 1)).all (fun i =>
    let first := max a ((a / 2 ^ 21 + i) * 2 ^ 21)
    let last := min (a + n - 1) ((a / 2 ^ 21 + i) * 2 ^ 21 + 2 ^ 21 - 1)
    (translate x first).isSome && (translate x last).isSome))

/-- Whether a fabric port is in service (R413). -/
def inService (s : State) (p : Nat) : Bool := portPresent s p && fld s (72 + p) 0x20 ⟨0x044, 29, 29⟩ = 1

/-- The fabric port that carries the UIO transactions of a page in the fabric tier (R258). -/
def pagePort (s : State) (e : Pte) : Nat := Config.fabricRoute ((tGet (0, 0, 0, 0) s.head.fabricMap e.place).1) % 4

/-- Whether an access to a page waits: the page is offline (R281), or it is in the fabric tier and its port is not in service (R258; log entry
135). -/
def pageAway (s : State) (e : Pte) : Bool := e.state = 3 || (e.fabric && !inService s (pagePort s e))

/-- Whether an access to a range waits for a page of it. -/
def offline (s : State) (x : Ctx) (a n : Nat) : Bool :=
  n ≠ 0 && ((List.range ((a + n - 1) / 2 ^ 21 - a / 2 ^ 21 + 1)).any (fun i =>
    match tFind x.pt (a / 2 ^ 21 + i) with | some e => pageAway s e | none => false))

/-- The pieces of a range by page: entry, offset in the page, offset in the range, length. -/
def pieces (x : Ctx) (a n : Nat) : List (Pte × Nat × Nat × Nat) :=
  if n = 0 then []
  else (List.range ((a + n - 1) / 2 ^ 21 - a / 2 ^ 21 + 1)).filterMap (fun i =>
    let start := (a / 2 ^ 21 + i) * 2 ^ 21
    let first := max a start
    let last := min (a + n - 1) (start + 2 ^ 21 - 1)
    (tFind x.pt (a / 2 ^ 21 + i)).map (fun e => (e, first - start, first - a, last + 1 - first)))

/-- The bytes of a mapped range as a memory from 0. -/
def ctxSlice (s : State) (x : Ctx) (a n : Nat) : Mem :=
  (pieces x a n).foldl (fun m y =>
    memSplice m y.2.2.1 y.2.2.2 (memSlice (if y.1.fabric then s.store.fabric else s.store.stack) (pteKey y.1 y.2.1) y.2.2.2)) []

/-- Whether a granule of a mapped range is stained (R275, R276, R280). -/
def ctxStained (s : State) (x : Ctx) (a n : Nat) : Bool :=
  (pieces x a n).any (fun y => y.1.stain || (if y.1.fabric then s.store.stainFabric else s.store.stainStack).any (fun g =>
    pteKey y.1 y.2.1 / 64 ≤ g ∧ g ≤ (pteKey y.1 y.2.1 + y.2.2.2 - 1) / 64))

/-- The stained granules of a mapped range, as offsets in 64-byte units. -/
def ctxStains (s : State) (x : Ctx) (a n : Nat) : List Nat :=
  (pieces x a n).flatMap (fun y =>
    let key := pteKey y.1 y.2.1
    if y.1.stain then (List.range ((y.2.2.2 + 63) / 64)).map (fun i => y.2.2.1 / 64 + i)
    else ((if y.1.fabric then s.store.stainFabric else s.store.stainStack).filter (fun g => key / 64 ≤ g ∧ g ≤ (key + y.2.2.2 - 1) / 64)).map
      (fun g => y.2.2.1 / 64 + (g - key / 64)))

/-- The stained granules after a write of bytes k to k + n − 1: a granule written whole is clean, and a write of stained data
stains every granule it touches (R276, R277). -/
def stainWrite (stains : List Nat) (size k n : Nat) (stained : Bool) : List Nat :=
  let first := k / size
  let count := (k + n - 1) / size - first + 1
  if stained then (List.range count).foldl (fun l i => addOnce l (first + i)) stains
  else stains.filter (fun g => !(k ≤ g * size ∧ (g + 1) * size ≤ k + n))

/-- Writes the first n bytes of src to a mapped range, with its stain; a write to a lost page is dropped and counted (R280). -/
def ctxSplice (s : State) (c : Nat) (x : Ctx) (a n : Nat) (src : Mem) (stained : Bool) : State :=
  (pieces x a n).foldl (fun s y =>
    let key := pteKey y.1 y.2.1
    if y.1.state = 2 then
      modCtx s c (fun x => { x with objects := x.objects.map (fun o =>
        if o.base ≤ a + y.2.2.1 ∧ a + y.2.2.1 < o.base + o.size then { o with dropped := o.dropped + 1 } else o) })
    else if y.1.fabric then
      { s with store := { s.store with
          fabric := memSplice s.store.fabric key y.2.2.2 (memSlice src y.2.2.1 y.2.2.2)
          stainFabric := stainWrite s.store.stainFabric 64 key y.2.2.2 stained } }
    else
      { s with store := { s.store with
          stack := memSplice s.store.stack key y.2.2.2 (memSlice src y.2.2.1 y.2.2.2)
          stainStack := stainWrite s.store.stainStack 64 key y.2.2.2 stained } }) s

/-- The byte key of a scratchpad row of a core: physical row = SP_BASE + row (R257). -/
def rowKey (site phys : Nat) : Nat := site * 2 ^ 28 + phys * 128

/-- The bytes of rows of a core's scratchpad as a memory from 0. -/
def rowsSlice (s : State) (site phys n : Nat) : Mem := memSlice s.store.scratch (rowKey site phys) n

/-- Whether a row of a byte range of a core's scratchpad is stained. -/
def rowsStained (s : State) (site phys n : Nat) : Bool :=
  s.store.stainScratch.any (fun g => rowKey site phys / 128 ≤ g ∧ g ≤ (rowKey site phys + n - 1) / 128)

/-- Writes bytes of a core's scratchpad by byte key. -/
def scratchSplice (s : State) (key n : Nat) (src : Mem) (stained : Bool) : State :=
  if n = 0 then s
  else { s with store := { s.store with scratch := memSplice s.store.scratch key n src
                                        stainScratch := stainWrite s.store.stainScratch 128 key n stained } }

/-- Writes bytes to host memory (rings, records, requests). -/
def hostStore (s : State) (a : Nat) (bs : List Byte) : State :=
  { s with store := { s.store with host := memStore s.store.host a bs } }

/-- Free values drawn so far, and the next one (log entry 6). -/
def drawFree (s : State) : Dword × State := (Config.free64 s.freeCount, { s with freeCount := s.freeCount + 1 })

/-! ### Mesh routes (R326, R329, R331, R332) -/

/-- The neighbour of a reach by direction 1 N, 2 E, 3 S, 4 W; an edge reach has its attachment site. -/
def neighbour (r dir : Nat) : Option Nat :=
  match [72, 73, 74, 75, 76].find? (fun e => r < 72 ∧ attachSite e = r ∧ attachPort e = dir ∧ !(dir = 1 ∧ r + 9 < 72)) with
  | some e => some e
  | none =>
    if 72 ≤ r then (if dir = opposite (attachPort r) then some (attachSite r) else none)
    else match dir with
      | 1 => if r + 9 < 72 then some (r + 9) else none
      | 2 => if r % 9 < 8 then some (r + 1) else none
      | 3 => if 9 ≤ r then some (r - 9) else none
      | 4 => if r % 9 ≠ 0 then some (r - 1) else none
      | _ => none

/-- MH_LINK_STATE of a link: 0 absent, 1 up, 2 training, 3 planned-off, 4 down. -/
def linkState (s : State) (r d : Nat) : Nat := fld s r 0x03 ⟨0x044, 3 * d - 1, 3 * (d - 1)⟩
def setLink (s : State) (r d v : Nat) : State := setFld s r 0x03 ⟨0x044, 3 * d - 1, 3 * (d - 1)⟩ v

/-- The links of a reach, as direction and neighbour. -/
def linksOf (r : Nat) : List (Nat × Nat) := [1, 2, 3, 4].filterMap (fun d => (neighbour r d).map (fun c => (d, c)))

/-- How a packet's way by the routes in force ends: it arrives; a router drops it, whose entry is unreachable or whose neighbour is off (R331,
R356); or it waits at a link that retrains or is down, until that link or its routes are back (R327, R332, R342; log entry 144). -/
inductive RouteEnd where
  | arrives
  | dropped (router : Nat)
  | waits
  deriving DecidableEq, Repr

/-- Where a packet for reach b goes from reach a by the routes in force. -/
def routeEnd (s : State) (b : Nat) : Nat → Nat → RouteEnd
  | 0, a => .dropped a
  | n + 1, a =>
    if a = b then .arrives
    else
      let d := fld s a 0x03 ⟨0x400 + 4 * b, 2, 0⟩
      match neighbour a d with
      | some c => if !reachUp s c then .dropped a else if 1 < linkState s a d then .waits else routeEnd s b n c
      | none => .dropped a

/-- The router that drops a packet from a to b; none where it arrives or waits (R331). -/
def dropAt (s : State) (a b : Nat) : Option Nat := match routeEnd s b 160 a with | .dropped r => some r | _ => none

/-- Whether a packet from a to b waits at a link on its way. -/
def routeWaits (s : State) (a b : Nat) : Bool := decide (routeEnd s b 160 a = .waits)

/-- A packet dropped at a router (R331). -/
def dropPacket (s : State) (r : Nat) : State := bump s r 0x03 (wordFld 0x04C) 1

/-- HOLD of a router: its sources inject no deadline, reduction or bulk packet (R332). -/
def holdSet (s : State) (r : Nat) : Bool := fld s r 0x03 ⟨0x040, 0, 0⟩ = 1

/-- Whether a packet of those classes from a to b does not go now: its source is held, or its way waits. -/
def packetHeld (s : State) (a b : Nat) : Bool := holdSet s a || routeWaits s a b

/-- The root of BARRIER and SCALAR_REDUCE: site 31's router, or where that is out of service the in-service router with the smallest greatest hop
distance to every core, the lowest site on ties (R339). Hops are counted on the grid (log entry 145). -/
def hops (a b : Nat) : Nat := (max (a % 9) (b % 9) - min (a % 9) (b % 9)) + (max (a / 9) (b / 9) - min (a / 9) (b / 9))
def barrierRoot (s : State) : Option Nat :=
  if reachUp s 31 then some 31
  else
    let up := (List.range 72).filter (reachUp s)
    let far := fun (r : Nat) => ((up.filter (fun c => (logicalOf s c).isSome)).map (hops r)).foldl max 0
    up.find? (fun r => up.all (fun x => decide (far r ≤ far x)))

/-! ### The towpath (R478) -/

/-- A towpath message from or to a reach's keeper: a message that fails its CRC-32 is resent, up to eight times; how often is open (R478; log
entry 146). -/
def towpath (s : State) (r : Nat) : State :=
  if r = 76 ∨ !reachUp s r then s
  else bump { s with freeCount := s.freeCount + 1 } r 0 (wordFld 0x04C) (Config.towResends s.freeCount % 9)

/-! ### Reference periods (R340, R343, R344, R483) -/

/-- The AC groups of 16 pulses, 64 root cycles, that end in the reference period after count n: CK_SWALLOW_GROUPS counts those of every reach
whose N is below 16 (R340, R343, R359). -/
def groupsIn (n : Nat) : Nat := 9 * (n + 1) / 4 - 9 * n / 4
def countSwallows (s : State) : State :=
  ((reachesUp s).filter (fun r => decide (fld s r 0x01 ⟨0x044, 4, 0⟩ < 16))).foldl (fun s r => bump s r 0x01 (wordFld 0x054) (groupsIn s.now.toNat)) s

/-- On a READY module the head keeper blows one bit of the rollback counter in each period, until it equals the image's ROLLBACK (R483; log
entry 142). -/
def blowFuse (s : State) : State :=
  let n := fld s 76 0x2C ⟨0x05C, 7, 0⟩
  if bootPhase s = 5 ∧ n < leAt s.head.running 0x0C 4 then setFld s 76 0x2C ⟨0x05C, 7, 0⟩ (n + 1) else s

/-- Links that retrain have trained by the end of a period (R342; log entry 144). -/
def finishTraining (s : State) : State :=
  (reachesUp s).foldl (fun s r => [1, 2, 3, 4].foldl (fun s d => if linkState s r d = 2 then setLink s r d 1 else s) s) s

/-- One reference period: the timestamps count it, while the module is powered and the reference is there (R344, R558; log entry 2). The fine
count at which the commands before the next period stand is open (log entry 143). -/
def tick (s : State) : State :=
  if reachUp s 76 && s.power.refclk then
    let t := blowFuse (countSwallows (finishTraining s))
    { t with now := s.now + 1, fine := Config.finePhase s.freeCount % 144, freeCount := s.freeCount + 1 }
  else s

end Sys2Proof.Machine
end

