-- ==== Sys2Proof/Machine/Fp.lean ====
section
/-!
DEFINITION. Fp.lean: floating-point values as exact fractions, one rounding to a code (R38 to R40, R51 to R54), and the FP32
operations built on it.
-/
namespace Sys2Proof.Machine

/-- The value of a floating-point code: not a number, infinite, or finite with a sign and a magnitude num / den (den > 0). -/
inductive Num where
  | nan
  | inf (neg : Bool)
  | fin (neg : Bool) (num den : Nat)
  deriving DecidableEq, Repr

/-- A binary format: mantissa bits, least normal exponent, and the code of the largest finite magnitude. -/
structure FpFmt where
  mant : Nat
  emin : Int
  maxCode : Nat
  deriving DecidableEq, Repr

def fp32Fmt : FpFmt := ⟨23, -126, 0x7F7FFFFF⟩
def bf16Fmt : FpFmt := ⟨7, -126, 0x7F7F⟩
def fp16Fmt : FpFmt := ⟨10, -14, 0x7BFF⟩
/-- R26. -/
def e4m3Fmt : FpFmt := ⟨3, -6, 0x7E⟩
def e5m2Fmt : FpFmt := ⟨2, -14, 0x7B⟩
/-- R27. -/
def e2m3Fmt : FpFmt := ⟨3, 0, 0x1F⟩
def e3m2Fmt : FpFmt := ⟨2, -2, 0x1F⟩
/-- R24. -/
def e2m1Fmt : FpFmt := ⟨1, 0, 7⟩

/-- A rounding: to nearest even (R52), toward zero (R53), or stochastic with its random value (R54, R55). -/
inductive Rnd where
  | rne | rtz | sr (r : Nat)
  deriving DecidableEq, Repr

/-- n · 2^k as a fraction. -/
def scaleTwo (n : Nat) (k : Int) : Nat × Nat := if 0 ≤ k then (n * 2 ^ k.toNat, 1) else (n, 2 ^ (-k).toNat)

/-- The magnitude of a code as a fraction. -/
def codeMag (f : FpFmt) (code : Nat) : Nat × Nat :=
  let e := code / 2 ^ f.mant
  let m := code % 2 ^ f.mant
  if e = 0 then scaleTwo m (f.emin - f.mant) else scaleTwo (2 ^ f.mant + m) (f.emin - f.mant + (e : Nat) - 1)

/-- ⌊log₂ (num / den)⌋ of a positive fraction. -/
def floorLog2 (num den : Nat) : Int :=
  let k : Int := (Nat.log2 num : Nat) - (Nat.log2 den : Nat)
  let below := if 0 ≤ k then decide (num < den * 2 ^ k.toNat) else decide (num * 2 ^ (-k).toNat < den)
  if below then k - 1 else k

/-- The code at or below a magnitude, with the remainder over the step between it and the next code. -/
def codeBelow (f : FpFmt) (num den : Nat) : Nat × Nat × Nat :=
  if num = 0 then (0, 0, 1)
  else
    let u := max (floorLog2 num den - f.mant) (f.emin - f.mant)
    let a := if 0 ≤ u then num else num * 2 ^ (-u).toNat
    let b := if 0 ≤ u then den * 2 ^ u.toNat else den
    ((u - (f.emin - f.mant)).toNat * 2 ^ f.mant + a / b, a % b, b)

/-- One rounding of a signed magnitude to a code; the code may pass maxCode, rung by rung. -/
def roundCode (f : FpFmt) (m : Rnd) (neg : Bool) (num den : Nat) : Nat :=
  let (c, rem, step) := codeBelow f num den
  if rem = 0 then c
  else match m with
    | .rtz => c
    | .rne => if 2 * rem < step then c else if step < 2 * rem then c + 1 else c + c % 2
    | .sr r =>
      if neg then (if r < 256 * (step - rem) / step then c else c + 1)
      else (if r < 256 * rem / step then c + 1 else c)

/-- The smallest code whose magnitude is at least num / den. -/
def codeAtLeast (f : FpFmt) (num den : Nat) : Nat :=
  let (c, rem, _) := codeBelow f num den
  if rem = 0 then c else c + 1

/-- The value of a code of a format with infinities and NaN above maxCode. -/
def ieeeNum (f : FpFmt) (neg : Bool) (code : Nat) : Num :=
  if code ≤ f.maxCode then .fin neg (codeMag f code).1 (codeMag f code).2
  else if code = f.maxCode + 1 then .inf neg else .nan

/-- A value rounded to FP32, BF16 or FP16 magnitude code with its sign; NaN is the positive quiet NaN (R39, R40). -/
def ieeeCode (f : FpFmt) (m : Rnd) (x : Num) : Bool × Nat :=
  match x with
  | .nan => (false, f.maxCode + 1 + 2 ^ (f.mant - 1))
  | .inf neg => (neg, f.maxCode + 1)
  | .fin neg n d =>
    -- between the largest finite value and the rung of infinity R40 rounds the magnitude
    let c := roundCode f m (neg && (codeBelow f n d).1 < f.maxCode) n d
    (neg, if c ≤ f.maxCode then c else match m with | .rtz => f.maxCode | _ => f.maxCode + 1)

/-- The value of an FP32 code. -/
def num32 (w : F32) : Num := ieeeNum fp32Fmt (2 ^ 31 ≤ w.toNat) (w.toNat % 2 ^ 31)

/-- A value rounded to FP32. -/
def to32 (m : Rnd) (x : Num) : F32 :=
  let (neg, c) := ieeeCode fp32Fmt m x
  BitVec.ofNat 32 (boolNat neg * 2 ^ 31 + c)

/-- A value rounded to BF16 or FP16. -/
def to16 (f : FpFmt) (m : Rnd) (x : Num) : BitVec 16 :=
  let (neg, c) := ieeeCode f m x
  BitVec.ofNat 16 (boolNat neg * 2 ^ 15 + c)

/-- The value of a BF16 or FP16 code. -/
def num16 (f : FpFmt) (w : BitVec 16) : Num := ieeeNum f (2 ^ 15 ≤ w.toNat) (w.toNat % 2 ^ 15)

def negNum : Num → Num
  | .nan => .nan
  | .inf n => .inf (!n)
  | .fin n a b => .fin (!n) a b

/-- The signed numerator of a finite value. -/
def signedNum (neg : Bool) (n : Nat) : Int := if neg then -(n : Int) else n

/-- An exact sum as a value; the zero of two negative zeros is negative, any other zero positive. -/
def sumNum (neg1 : Bool) (n1 d1 : Nat) (neg2 : Bool) (n2 d2 : Nat) : Num :=
  let v := signedNum neg1 (n1 * d2) + signedNum neg2 (n2 * d1)
  if v = 0 then .fin (neg1 && neg2) 0 1 else .fin (decide (v < 0)) v.natAbs (d1 * d2)

def addNum (x y : Num) : Num :=
  match x, y with
  | .nan, _ => .nan
  | _, .nan => .nan
  | .inf a, .inf b => if a = b then .inf a else .nan
  | .inf a, .fin _ _ _ => .inf a
  | .fin _ _ _, .inf b => .inf b
  | .fin a n d, .fin b m e => sumNum a n d b m e

def mulNum (x y : Num) : Num :=
  match x, y with
  | .nan, _ => .nan
  | _, .nan => .nan
  | .inf a, .inf b => .inf (a != b)
  | .inf a, .fin b m _ => if m = 0 then .nan else .inf (a != b)
  | .fin a n _, .inf b => if n = 0 then .nan else .inf (a != b)
  | .fin a n d, .fin b m e => .fin (a != b) (n * m) (d * e)

def divNum (x y : Num) : Num :=
  match x, y with
  | .nan, _ => .nan
  | _, .nan => .nan
  | .inf _, .inf _ => .nan
  | .inf a, .fin b _ _ => .inf (a != b)
  | .fin a _ _, .inf b => .fin (a != b) 0 1
  | .fin a n d, .fin b m e => if m = 0 then (if n = 0 then .nan else .inf (a != b)) else .fin (a != b) (n * e) (d * m)

/-- FP32 addition under RNE. -/
def add32 (a b : F32) : F32 := to32 .rne (addNum (num32 a) (num32 b))
def sub32 (a b : F32) : F32 := to32 .rne (addNum (num32 a) (negNum (num32 b)))
def mul32 (a b : F32) : F32 := to32 .rne (mulNum (num32 a) (num32 b))
def div32 (a b : F32) : F32 := to32 .rne (divNum (num32 a) (num32 b))
/-- a · b + c with one rounding. -/
def fma32 (a b c : F32) : F32 := to32 .rne (addNum (mulNum (num32 a) (num32 b)) (num32 c))

/-- The square root as a value whose rounding to FP32 is that of the exact root: 32 more bits than the mantissa, and a last
bit that says whether anything was dropped. -/
def sqrtNum (x : Num) : Num :=
  match x with
  | .nan => .nan
  | .inf neg => if neg then .nan else .inf false
  | .fin neg n d =>
    if n = 0 then .fin neg 0 1
    else if neg then .nan
    else
      let k := 128 + 2 * (Nat.log2 d + 1)
      let v := n * 2 ^ (2 * k) / d
      let r := Nat.sqrt v
      if r * r = v ∧ v * d = n * 2 ^ (2 * k) then .fin false r (2 ^ k) else .fin false (2 * r + 1) (2 ^ (k + 1))

def sqrt32 (a : F32) : F32 := to32 .rne (sqrtNum (num32 a))

/-- Whether an FP32 code is a NaN, is infinite or NaN, is zero. -/
def isNan32 (a : F32) : Bool := 0x7F800000 < a.toNat % 2 ^ 31
def nonfinite32 (a : F32) : Bool := 0x7F800000 ≤ a.toNat % 2 ^ 31
def isZero32 (a : F32) : Bool := a.toNat % 2 ^ 31 = 0
/-- A positive normal FP32 value (R261). -/
def posNormal32 (a : F32) : Bool := 0x00800000 ≤ a.toNat && a.toNat < 0x7F800000

/-- Order of two values that are not NaN. -/
def ltNum (x y : Num) : Bool :=
  match x, y with
  | .nan, _ => false
  | _, .nan => false
  | .inf a, .inf b => a && !b
  | .inf a, .fin _ _ _ => a
  | .fin _ _ _, .inf b => !b
  | .fin a n d, .fin b m e => decide (signedNum a (n * e) < signedNum b (m * d))

/-- FLT of R570: false on a NaN. -/
def flt32 (a b : F32) : Bool := ltNum (num32 a) (num32 b)
/-- FGE of R570: false on a NaN. -/
def fge32 (a b : F32) : Bool := !isNan32 a && !isNan32 b && !flt32 a b

/-- The quiet NaN of R39. -/
def nan32 : F32 := 0x7FC00000
/-- A NaN as the quiet NaN, any other code as it is. -/
def quiet32 (a : F32) : F32 := if isNan32 a then nan32 else a
def abs32 (a : F32) : F32 := quiet32 (a &&& 0x7FFFFFFF)
def neg32 (a : F32) : F32 := quiet32 (a ^^^ 0x80000000)

/-- VMIN and VMAX: NaN when either input is NaN, and −0 below +0 (R86). -/
def min32 (a b : F32) : F32 :=
  if isNan32 a || isNan32 b then nan32
  else if isZero32 a && isZero32 b then (if 2 ^ 31 ≤ a.toNat then a else b)
  else if flt32 b a then b else a
def max32 (a b : F32) : F32 :=
  if isNan32 a || isNan32 b then nan32
  else if isZero32 a && isZero32 b then (if 2 ^ 31 ≤ a.toNat then b else a)
  else if flt32 a b then b else a

/-- A whole number as FP32 under RNE. -/
def nat32 (n : Nat) : F32 := to32 .rne (.fin false n 1)
def int32 (i : Int) : F32 := to32 .rne (.fin (decide (i < 0)) i.natAbs 1)

/-- A pairwise tree over a list: neighbours combine, left operand first, an unpaired last one passes up (R87, R333). -/
def pairUp {α : Type} (f : α → α → α) : List α → List α
  | a :: b :: r => f a b :: pairUp f r
  | l => l

/-- The tree's root over fuel levels; the default for an empty list. -/
def treeFold {α : Type} (f : α → α → α) (dflt : α) : Nat → List α → α
  | 0, l => l.headD dflt
  | n + 1, l => match l with | [] => dflt | [a] => a | l => treeFold f dflt n (pairUp f l)

end Sys2Proof.Machine
end

