-- ==== Sys2Proof/Machine/Elementary.lean ====
section
/-!
DEFINITION. Elementary.lean: the functions of R88. The exact value is computed to far more bits than FP32 holds; the published tables fix
which FP32 value within 1 ulp of it is the result, and that choice is open (log entry 12).
-/
namespace Sys2Proof.Machine

/-- Fraction bits of the working values. -/
def workBits : Nat := 192

/-- Sum of the first n terms of the exponential series of y / 2^workBits, and the last term. -/
def expTerms (y : Nat) : Nat → Nat × Nat
  | 0 => (0, 2 ^ workBits)
  | n + 1 =>
    let (sum, term) := expTerms y n
    (sum + term, term * y / 2 ^ workBits / (n + 1))

/-- e^y for 0 ≤ y < 1, scaled by 2^workBits. -/
def expWork (y : Nat) : Nat := (expTerms y 64).1

/-- Sum of z^(2k+1) / (2k+1) for the first n values of k, and the next power. -/
def atanhTerms (z : Nat) : Nat → Nat × Nat
  | 0 => (0, z)
  | n + 1 =>
    let (sum, power) := atanhTerms z n
    (sum + power / (2 * n + 1), power * z / 2 ^ workBits * z / 2 ^ workBits)

/-- ln ((1 + z) / (1 − z)) for 0 ≤ z ≤ 1/3, scaled by 2^workBits. -/
def logWork (z : Nat) : Nat := 2 * (atanhTerms z 64).1

/-- ln 2, scaled by 2^workBits. -/
def ln2Work : Nat := logWork (2 ^ workBits / 3)

/-- 2^x of a finite value: exact for a whole x. -/
def exp2Exact (neg : Bool) (n d : Nat) : Num :=
  if 1024 * d ≤ n then (if neg then .fin false 1 (2 ^ 1024) else .fin false (2 ^ 1024) 1)
  else
    let v := signedNum neg n
    let k := v / (d : Int)
    let f := (v % (d : Int)).toNat * 2 ^ workBits / d
    let r := scaleTwo (if f = 0 then 2 ^ workBits else expWork (f * ln2Work / 2 ^ workBits)) (k - workBits)
    .fin false r.1 r.2

/-- log₂ of a positive value: exact for a power of two. -/
def log2Exact (n d : Nat) : Num :=
  let e := floorLog2 n d
  let a := if 0 ≤ e then n else n * 2 ^ (-e).toNat
  let b := if 0 ≤ e then d * 2 ^ e.toNat else d
  let l := logWork ((a - b) * 2 ^ workBits / (a + b)) * 2 ^ workBits / ln2Work
  let v : Int := e * 2 ^ workBits + l
  .fin (decide (v < 0)) v.natAbs (2 ^ workBits)

/-- tanh of a finite value: below 2^-12 it lies less than one step below |x|, from 16 on less than one step below 1. -/
def tanhExact (neg : Bool) (n d : Nat) : Num :=
  if n = 0 then .fin neg 0 1
  else if n * 2 ^ 12 < d then .fin neg (n * 2 ^ workBits - 1) (d * 2 ^ workBits)
  else if 16 * d ≤ n then .fin neg (2 ^ workBits - 1) (2 ^ workBits)
  else
    let y := 2 * n * 2 ^ workBits / d
    let e := expWork (y % ln2Work) * 2 ^ (y / ln2Work)
    .fin neg (e - 2 ^ workBits) (e + 2 ^ workBits)

/-- The FP32 value that a table gives for an exact value: the code below it or above it; for an exact code that code or a neighbour. -/
def withinUlp (pick : Nat) (x : Num) : F32 :=
  match x with
  | .fin neg n d =>
    let (c, rem, _) := codeBelow fp32Fmt n d
    let c := if pick % 3 = 1 then c + 1 else if pick % 3 = 2 ∧ rem = 0 then c - 1 else c
    BitVec.ofNat 32 (boolNat neg * 2 ^ 31 + min c 0x7F800000)
  | x => to32 .rne x

/-- A function's result: within 1 ulp of the exact value; a NaN's is the quiet NaN (R39); no finite exact value leaves it to the table. -/
def tableResult (k : Nat) (x : F32) (exact : Num) : F32 :=
  match num32 x, exact with
  | .nan, _ => nan32
  | _, .fin neg n d => withinUlp (Config.tablePick k x) (.fin neg n d)
  | _, _ => quiet32 (Config.tableEdge k x)

def exp2F (x : F32) : F32 := tableResult 0 x (match num32 x with | .fin neg n d => exp2Exact neg n d | _ => .nan)
/-- 2^x of a finite value under RNE (R453). -/
def exp2Rne (x : F32) : F32 := match num32 x with | .fin neg n d => to32 .rne (exp2Exact neg n d) | _ => nan32
def log2F (x : F32) : F32 :=
  tableResult 1 x (match num32 x with | .fin neg n d => if neg ∨ n = 0 then .nan else log2Exact n d | _ => .nan)
def rsqrt32 (x : F32) : F32 := tableResult 2 x (divNum (.fin false 1 1) (sqrtNum (num32 x)))
def recip32 (x : F32) : F32 := tableResult 3 x (divNum (.fin false 1 1) (num32 x))
def tanhF (x : F32) : F32 := tableResult 4 x (match num32 x with | .fin neg n d => tanhExact neg n d | _ => .nan)

end Sys2Proof.Machine
end

