-- ==== Sys2Proof/Machine/Commands.lean ====
section
/-!
DEFINITION. Commands.lean: the 64 bytes of a native command on a hardware queue's ring (R157 to R167, R173 to R177, R191, R209, R237, R244,
R296, R370): which command they spell.
-/
namespace Sys2Proof.Machine

/-- What 64 bytes spell: a command; a class, operation or FLAGS value that is not defined (R158, R242); a RONORA call of an identifier that
the resident library does not hold (R179). -/
inductive Spelled where
  | command (i : Instr)
  | badOpcode (h : Hdr)
  | noRoutine (h : Hdr)
  deriving DecidableEq, Repr

/-- Byte o of a command. -/
def byteAt (b : List Byte) (o : Nat) : Byte := b.getD o 0

/-- FLAGS, ENGINE, MARK and the sync block (R157, R159, R160). -/
def spelledHdr (q : Nat) (b : List Byte) : Hdr where
  queue := BitVec.ofNat 20 q
  engine := byteAt b 3
  fence := bitOf (byteAt b 2).toNat 7
  trace := bitOf (byteAt b 2).toNat 6
  mark := BitVec.ofNat 32 (leAt b 4 4)
  waitTok := byteAt b 8
  waitCnt := byteAt b 9
  sigTok := byteAt b 10
  sigCnt := byteAt b 11
  sigRemote := bitOf (byteAt b 12).toNat 7
  sigCore := BitVec.ofNat 7 (byteAt b 12).toNat
  targetValid := bitOf (byteAt b 13).toNat 7
  targetCore := BitVec.ofNat 7 (byteAt b 13).toNat

/-- The operands of a scalar command (R165); BRANCH_SCALAR's stand at the same bytes (R173). -/
def spelledScalar (b : List Byte) : ScalarOps where
  dst := BitVec.ofNat 5 (byteAt b 16).toNat
  srcA := byteAt b 17
  srcB := byteAt b 18
  cond := byteAt b 19
  imm := BitVec.ofNat 64 (leAt b 24 8)

/-- The operands of PRODUCT (R162). -/
def spelledProduct (b : List Byte) : ProductOps where
  xFromSp := bitOf (byteAt b 16).toNat 7
  xReg := BitVec.ofNat 4 (byteAt b 16).toNat
  xTranspose := bitOf (byteAt b 17).toNat 5
  wTranspose := bitOf (byteAt b 17).toNat 4
  wReg := BitVec.ofNat 4 (byteAt b 17).toNat
  accumulate := bitOf (byteAt b 18).toNat 4
  quadrant := BitVec.ofNat 2 (bitsOf (byteAt b 18).toNat 3 2)
  acc := BitVec.ofNat 2 (byteAt b 18).toNat
  xFormat := byteAt b 19
  wFormat := byteAt b 20
  rows := BitVec.ofNat 16 (leAt b 22 2)
  xRow := BitVec.ofNat 21 (leAt b 24 4)
  xScale := BitVec.ofNat 32 (leAt b 28 4)
  upsets := []

/-- The operands of SPARSE_PRODUCT as a product or a check (R242, R244). -/
def spelledSparse (b : List Byte) : SparseOps where
  product := spelledProduct b
  sparseFormat := BitVec.ofNat 3 (byteAt b 21).toNat
  metaRow := BitVec.ofNat 21 (leAt b 32 4)
  reg := BitVec.ofNat 5 (byteAt b 38).toNat

/-- The operands of ENCODE (R237). -/
def spelledEncode (b : List Byte) : EncodeOps where
  srcRow := BitVec.ofNat 21 (leAt b 16 4)
  metaRow := BitVec.ofNat 21 (leAt b 20 4)
  bodyRow := BitVec.ofNat 21 (leAt b 24 4)
  sparseFormat := BitVec.ofNat 3 (byteAt b 28).toNat
  valueFormat := byteAt b 29
  srcFormat := byteAt b 30
  kspanLog2 := BitVec.ofNat 4 (byteAt b 31).toNat
  slot := byteAt b 32
  round := BitVec.ofNat 2 (byteAt b 33).toNat
  tensorId := BitVec.ofNat 16 (leAt b 34 2)
  tileIndex := BitVec.ofNat 24 (leAt b 36 4)

/-- Bytes 48 to 63 of a SLOT_SETUP (R164). -/
def spelledSetup (b : List Byte) : SetupOps where
  slot := byteAt b 48
  mode := BitVec.ofNat 2 (bitsOf (byteAt b 49).toNat 5 4)
  target := BitVec.ofNat 2 (bitsOf (byteAt b 49).toNat 3 2)
  owner := BitVec.ofNat 2 (byteAt b 49).toNat
  hasInit := bitOf (byteAt b 50).toNat 7
  headroom := BitVec.ofNat 3 (byteAt b 50).toNat
  initExp := byteAt b 51
  reserved := decide (bitsOf (byteAt b 49).toNat 7 6 ≠ 0) || decide (bitsOf (byteAt b 50).toNat 6 3 ≠ 0) || decide (leAt b 52 12 ≠ 0)

/-- The operands of a vector command (R163). -/
def spelledVector (b : List Byte) : VecOps where
  d := BitVec.ofNat 32 (leAt b 16 4)
  a := BitVec.ofNat 32 (leAt b 20 4)
  b := BitVec.ofNat 32 (leAt b 24 4)
  c := BitVec.ofNat 32 (leAt b 28 4)
  formatOut := byteAt b 32
  round := byteAt b 33
  slot := byteAt b 34
  cond := byteAt b 35
  rows := BitVec.ofNat 16 (leAt b 36 2)
  tensorId := BitVec.ofNat 16 (leAt b 38 2)
  tileIndex := BitVec.ofNat 24 (leAt b 40 4)
  srcFormat := byteAt b 44
  imm := BitVec.ofNat 32 (leAt b 48 4)

/-- The operands of BRANCH_TENSOR (R174). -/
def spelledTensor (b : List Byte) : BranchTensorOps where
  srcB := byteAt b 18
  cond := byteAt b 19
  offset := BitVec.ofNat 32 (leAt b 20 4)
  imm := BitVec.ofNat 64 (leAt b 24 8)
  spec := BitVec.ofNat 32 (leAt b 32 4)
  redOp := byteAt b 36
  scope := byteAt b 37
  reg := byteAt b 38

/-- The operands of GRAD_EMIT (R370). -/
def spelledGrad (b : List Byte) : GradOps where
  port := BitVec.ofNat 2 (byteAt b 16).toNat
  transpose := bitOf (byteAt b 17).toNat 0
  source := BitVec.ofNat 32 (leAt b 32 4)
  tensorId := BitVec.ofNat 16 (leAt b 38 2)
  tileIndex := BitVec.ofNat 24 (leAt b 40 4)

/-- The scalar class (R165). -/
def spelledScalarOp (h : Hdr) (o : ScalarOps) : Nat → Option Instr
  | 0x001 => some (.mov h o) | 0x002 => some (.add h o) | 0x003 => some (.sub h o) | 0x004 => some (.mul h o)
  | 0x005 => some (.bitAnd h o) | 0x006 => some (.bitOr h o) | 0x007 => some (.bitXor h o) | 0x008 => some (.shl h o)
  | 0x009 => some (.shr h o) | 0x00A => some (.sra h o) | 0x00B => some (.setCond h o)
  | 0x010 => some (.fadd h o) | 0x011 => some (.fmul h o) | 0x012 => some (.fset h o)
  | 0x020 => some (.scalarLoad h o) | 0x021 => some (.scalarStore h o) | _ => none

/-- The matrix class (R162, R164, R237, R242, R244): FLAGS[1:0] chooses among the commands of operation 0x002. -/
def spelledMatrixOp (h : Hdr) (b : List Byte) : Nat → Option Instr
  | 0x001 => some (.product h (spelledProduct b))
  | 0x002 => match (byteAt b 2).toNat % 4 with
    | 0 => some (.sparseProduct h (spelledSparse b)) | 1 => some (.sparseCheck h (spelledSparse b))
    | 2 => some (.sparseEncode h (spelledEncode b)) | _ => none
  | 0x003 => some (.sparseSlotSetup h (spelledSetup b)) | _ => none

/-- The vector class: the Kweus opcode minus 0x0030 (R163, R147). -/
def spelledVectorOp (h : Hdr) (b : List Byte) (o : VecOps) : Nat → Option Instr
  | 0x000 => some (.vadd h o) | 0x001 => some (.vsub h o) | 0x002 => some (.vmul h o) | 0x003 => some (.vfma h o)
  | 0x004 => some (.vmin h o) | 0x005 => some (.vmax h o) | 0x006 => some (.vabs h o) | 0x007 => some (.vneg h o)
  | 0x008 => some (.vsel h o) | 0x009 => some (.vcmp h o) | 0x00A => some (.vexp2 h o) | 0x00B => some (.vlog2 h o)
  | 0x00C => some (.vrsqrt h o) | 0x00D => some (.vrecip h o) | 0x00E => some (.vtanh h o) | 0x010 => some (.vred h o)
  | 0x011 => some (.cvt h o) | 0x012 => some (.vectorSlotSetup h (spelledSetup b)) | _ => none

/-- The stream class (R296). -/
def spelledStreamOp (h : Hdr) (b : List Byte) (d : BitVec 6) : Nat → Option Instr
  | 0x001 => some (.descLoad h d (BitVec.ofNat 21 (leAt b 20 4))) | 0x002 => some (.admitStream h d (BitVec.ofNat 5 (byteAt b 38).toNat))
  | 0x003 => some (.nextUnit h d) | 0x004 => some (.run h d) | 0x005 => some (.retire h d)
  | 0x006 => some (.streamSlotSetup h (spelledSetup b)) | _ => none

/-- A routine by its identifier (R209). -/
def routineOf (h : Hdr) : Nat → Option Instr
  | 0x0101 => some (.tileProduct h) | 0x0102 => some (.stripProduct h) | 0x0103 => some (.chainProduct h)
  | 0x0201 => some (.attnWindowFwd h) | 0x0202 => some (.attnWindowBwd h) | 0x0203 => some (.attnGlobalFwd h)
  | 0x0204 => some (.attnGlobalBwd h) | 0x0301 => some (.rmsnormFwd h) | 0x0302 => some (.rmsnormBwd h)
  | 0x0303 => some (.layernormFwd h) | 0x0304 => some (.layernormBwd h) | 0x0305 => some (.softmaxFwd h)
  | 0x0306 => some (.softmaxBwd h) | 0x0401 => some (.quant h) | 0x0402 => some (.dequant h) | 0x0403 => some (.transcode h)
  | 0x0501 => some (.rowReduce h) | 0x0502 => some (.layoutReduce h) | 0x0503 => some (.tensorNorm2 h)
  | 0x0601 => some (.sparseProductRoutine h) | 0x0F01 => some (.selfCheck h [] 0) | 0x0F02 => some (.libInfo h) | _ => none

/-- The sync, loop, branch and reduce classes (R167, R173, R174, R176, R191, R370). -/
def spelledControlOp (h : Hdr) (b : List Byte) (cls op : Nat) : Option Instr :=
  match cls, op with
  | 4, 0x001 => some (.wait h) | 4, 0x002 => some (.yieldQueue h) | 4, 0x003 => some (.barrier h)
  | 4, 0x004 => some (.layer h (BitVec.ofNat 16 (leAt b 20 2)) (byteAt b 22)) | 4, 0x005 => some (.stepBegin h)
  | 6, 0x001 => some (.loop h { countSrc := byteAt b 16, countImm := BitVec.ofNat 32 (leAt b 20 4), body := BitVec.ofNat 16 (leAt b 24 2) })
  | 7, 0x001 => some (.branchScalar h (spelledScalar b) (BitVec.ofNat 32 (leAt b 20 4)))
  | 7, 0x002 => some (.branchTensor h (spelledTensor b))
  | 8, 0x001 => some (.scalarReduce h (byteAt b 16) (byteAt b 17) (byteAt b 18))
  | 8, 0x002 => some (.gradEmit h (spelledGrad b))
  | _, _ => none

/-- The call class but for RONORA (R177). -/
def spelledCallOp (h : Hdr) (b : List Byte) : Nat → Option Instr
  | 0x001 => some (.call h (BitVec.ofNat 32 (leAt b 20 4))) | 0x002 => some (.returnCmd h)
  | 0x004 => some (.enter h (BitVec.ofNat 32 (leAt b 20 4)) (BitVec.ofNat 64 (leAt b 24 8))) | 0x005 => some (.exitCmd h) | _ => none

/-- The command that 64 bytes on the ring of queue q spell: CLASS[15:12] and OPERATION[11:0] of OPCODE choose it (R157, R158). -/
def spelled (q : Nat) (b : List Byte) : Spelled :=
  let h := spelledHdr q b
  let cls := leAt b 0 2 / 4096
  let op := leAt b 0 2 % 4096
  let known := fun (x : Option Instr) => match x with | some i => .command i | none => .badOpcode h
  match cls with
  | 0 => known (spelledScalarOp h (spelledScalar b) op)
  | 1 => known (spelledMatrixOp h b op)
  | 2 => known (spelledVectorOp h b (spelledVector b) op)
  | 3 => known (spelledStreamOp h b (BitVec.ofNat 6 (byteAt b 16).toNat) op)
  | 5 => if op = 3 then (match routineOf h (leAt b 16 2) with | some i => .command i | none => .noRoutine h) else known (spelledCallOp h b op)
  | _ => known (spelledControlOp h b cls op)

/-- A command as its bytes spell it: without what its row says of the hardware's soundness (the array's errors, a self check's finding). -/
def written : Instr → Instr
  | .product h o => .product h { o with upsets := [] }
  | .sparseProduct h o => .sparseProduct h { o with product := { o.product with upsets := [] } }
  | .sparseCheck h o => .sparseCheck h { o with product := { o.product with upsets := [] } }
  | .selfCheck h _ _ => .selfCheck h [] 0
  | i => i

end Sys2Proof.Machine
end

