-- ==== Sys2Proof/Machine/Flags.lean ====
section
/-!
DEFINITION. Flags.lean: the conditions of compares and branches (R570), the module's only flag computations of a program.
-/
namespace Sys2Proof.Machine

/-- A scalar compare under a condition code; none for a code R570 does not list. -/
def condScalar (cond : Byte) (a b : Dword) : Option Bool :=
  match cond.toNat with
  | 0 => some (a == b)
  | 1 => some (a != b)
  | 2 => some (a.slt b)
  | 3 => some (!a.slt b)
  | 4 => some (a.ult b)
  | 5 => some (!a.ult b)
  | 6 => some (flt32 (a.setWidth 32) (b.setWidth 32))
  | 7 => some (fge32 (a.setWidth 32) (b.setWidth 32))
  | 8 => some true
  | _ => none

/-- A vector compare of two elements, on their 32 bits. -/
def condVector (cond : Byte) (a b : F32) : Bool :=
  match cond.toNat with
  | 0 => a == b
  | 1 => a != b
  | 2 => a.slt b
  | 3 => !a.slt b
  | 4 => a.ult b
  | 5 => !a.ult b
  | 6 => flt32 a b
  | 7 => fge32 a b
  | _ => true

/-- Whether a condition code is one of R570. -/
def condKnown (cond : Byte) : Bool := cond.toNat ≤ 8

end Sys2Proof.Machine
end

