-- ==== Sys2Proof/Machine/Formats.lean ====
section
/-!
DEFINITION. Formats.lean: the tile formats of R23: shapes and packing (R41, R42), decoding (R24 to R37), block scales and
conversion into narrow formats (R43 to R50), stochastic rounding (R55), G16 (R58 to R61) and the state formats (R62, R63).
-/
namespace Sys2Proof.Machine

/-- The shape of a tile: rows, columns, bits per element, data bytes, scale bytes (R41). -/
structure Shape where
  rows : Nat
  cols : Nat
  bits : Nat
  dataBytes : Nat
  scaleBytes : Nat
  deriving DecidableEq, Repr

/-- The tile formats by code (R161, R41); none for a format that no tile register holds. -/
def shapeOf (fmt : Byte) : Option Shape :=
  match fmt.toNat with
  | 0x00 => some ⟨256, 512, 32, 524288, 0⟩
  | 0x01 => some ⟨512, 512, 16, 524288, 0⟩
  | 0x02 => some ⟨512, 512, 16, 524288, 0⟩
  | 0x03 => some ⟨1024, 512, 8, 524288, 0⟩
  | 0x04 => some ⟨1024, 512, 8, 524288, 0⟩
  | 0x05 => some ⟨1024, 1024, 4, 524288, 65536⟩
  | 0x06 => some ⟨1024, 1024, 4, 524288, 4096⟩
  | 0x07 => some ⟨1024, 1024, 2, 262144, 65536⟩
  | 0x08 => some ⟨1024, 1024, 4, 524288, 32768⟩
  | 0x09 => some ⟨1024, 512, 6, 393216, 16384⟩
  | 0x0A => some ⟨1024, 512, 6, 393216, 16384⟩
  | 0x0B => some ⟨1024, 512, 8, 524288, 16384⟩
  | 0x0C => some ⟨1024, 512, 8, 524288, 16384⟩
  | _ => none

/-- The shape, with an empty one for a code that names no tile format. -/
def shapeD (fmt : Byte) : Shape := (shapeOf fmt).getD ⟨0, 1, 8, 0, 0⟩

/-- Formats with an FP32 tile scale: HF4, HF4Q, HF2, FP8 (R261). -/
def tileScaled (fmt : Byte) : Bool := 0x03 ≤ fmt.toNat && fmt.toNat ≤ 0x07
/-- Formats with 16-element E4M3-scaled blocks: HF4, HF4Q, HF2. -/
def hfBlock (fmt : Byte) : Bool := 0x05 ≤ fmt.toNat && fmt.toNat ≤ 0x07
/-- OCP MX formats. -/
def mxBlock (fmt : Byte) : Bool := 0x08 ≤ fmt.toNat && fmt.toNat ≤ 0x0C

/-- The Starch target that matches a tile-scaled format (R102). -/
def starchTarget (fmt : Byte) : Nat := match fmt.toNat with | 0x07 => 1 | 0x03 => 2 | 0x04 => 3 | _ => 0

/-- Where element (row, column), given by its row-major index, stands in the data (R32, R42). -/
def dataIndex (fmt : Byte) (idx : Nat) : Nat :=
  if fmt.toNat = 0x06 then
    let r := idx / 1024; let c := idx % 1024
    (r / 16 * 64 + c / 16) * 256 + r % 16 * 16 + c % 16
  else idx

/-- The block an element belongs to, which is also its scale byte (R31, R32, R35). -/
def blockIndex (fmt : Byte) (idx : Nat) : Nat :=
  if fmt.toNat = 0x06 then idx / 1024 / 16 * 64 + idx % 1024 / 16
  else if hfBlock fmt then idx / 16
  else if mxBlock fmt then idx / 32
  else idx

/-- The row-major indexes of a block's elements. -/
def blockElems (fmt : Byte) (b : Nat) : List Nat :=
  if fmt.toNat = 0x06 then (List.range 256).map (fun i => (b / 64 * 16 + i / 16) * 1024 + b % 64 * 16 + i % 16)
  else if hfBlock fmt then (List.range 16).map (fun i => b * 16 + i)
  else if mxBlock fmt then (List.range 32).map (fun i => b * 32 + i)
  else [b]

/-- w bits at bit w · i of packed data (R42). -/
def packedGet (m : Mem) (w i : Nat) : Nat := leNat (memBytes m (w * i / 8) ((w + 15) / 8)) / 2 ^ (w * i % 8) % 2 ^ w

/-- Sets w bits at bit w · i of packed data. -/
def packedSet (m : Mem) (w i v : Nat) : Mem :=
  let n := (w + 15) / 8
  let a := w * i / 8
  let old := leNat (memBytes m a n)
  let sh := 2 ^ (w * i % 8)
  let new := old - old / sh % 2 ^ w * sh + v % 2 ^ w * sh
  if old = new then m else memStore m a (leBytes n new)

/-- The value of an element code, before any scale (R24 to R27, R33, R38). -/
def elemNum (fmt : Byte) (code : Nat) : Num :=
  let plain := fun (f : FpFmt) (w : Nat) => let m := codeMag f (code % 2 ^ (w - 1)); Num.fin (2 ^ (w - 1) ≤ code) m.1 m.2
  match fmt.toNat with
  | 0x00 => num32 (BitVec.ofNat 32 code)
  | 0x01 => num16 bf16Fmt (BitVec.ofNat 16 code)
  | 0x02 => num16 fp16Fmt (BitVec.ofNat 16 code)
  | 0x03 => if code % 128 = 127 then .nan else plain e4m3Fmt 8
  | 0x0B => if code % 128 = 127 then .nan else plain e4m3Fmt 8
  | 0x04 => ieeeNum e5m2Fmt (128 ≤ code) (code % 128)
  | 0x0C => ieeeNum e5m2Fmt (128 ≤ code) (code % 128)
  | 0x07 => .fin (2 ≤ code) (2 * (code % 2) + 1) 2
  | 0x09 => plain e2m3Fmt 6
  | 0x0A => plain e3m2Fmt 6
  | _ => if code % 8 = 0 then .fin false 0 1 else plain e2m1Fmt 4

/-- A block scale as a value: none for a non-finite block (R28, R29). -/
def scaleNum (fmt : Byte) (code : Nat) : Option (Nat × Nat) :=
  if mxBlock fmt then (if code = 255 then none else some (scaleTwo 1 ((code : Nat) - 127)))
  else if hfBlock fmt then (if code % 128 = 127 then none else some (codeMag e4m3Fmt (code % 128)))
  else some (1, 1)

/-- A block scale's code for an element of a tile. -/
def scaleCode (t : TileReg) (idx : Nat) : Nat := (memByte t.scales (blockIndex t.format idx)).toNat

/-- An element's code by its row-major index. -/
def elemCode (t : TileReg) (idx : Nat) : Nat := packedGet t.data (shapeD t.format).bits (dataIndex t.format idx)

/-- Element value times block scale; NaN in a non-finite block, zero in a zero block (R30, R36). -/
def blockValue (t : TileReg) (idx : Nat) : Num :=
  match scaleNum t.format (scaleCode t idx) with
  | none => .nan
  | some (n, d) =>
    if n = 0 then .fin false 0 1
    else match elemNum t.format (elemCode t idx) with
      | .fin neg a b => .fin neg (a * n) (b * d)
      | x => x

/-- An element decoded to FP32, tile scale included (R30, R37; log entry 17 on its one rounding). -/
def tile32 (t : TileReg) (idx : Nat) : F32 :=
  if tileScaled t.format then to32 .rne (mulNum (blockValue t idx) (num32 t.tileScale)) else to32 .rne (blockValue t idx)

/-- The row-major indexes whose data or scale is not all zero bits; every other element decodes to +0 (HF2: its scale is 0). -/
def liveElems (t : TileReg) : List Nat :=
  let sh := shapeD t.format
  let ofByte := fun (a : Nat) =>
    (List.range ((8 + sh.bits - 1) / sh.bits + 1)).map (fun i => a * 8 / sh.bits + i)
  let un := fun (d : Nat) =>
    if t.format.toNat = 0x06 then
      let b := d / 256; let i := d % 256
      (b / 64 * 16 + i / 16) * 1024 + b % 64 * 16 + i % 16
    else d
  let fromData := (t.data.map (fun c => (ofByte c.1).map un)).flatten
  let fromScales := (t.scales.map (fun c => blockElems t.format c.1)).flatten
  sortDistinct ((fromData ++ fromScales).filter (fun i => i < sh.rows * sh.cols))

/-- A tile decoded to FP32, +0 elements unlisted. -/
def tileVals (t : TileReg) : Tab F32 :=
  ((liveElems t).map (fun i => (i, tile32 t i))).filter (fun x => x.2 ≠ 0)

/-- The tile register that an image of a format makes: data, then block scales (R41, R259). -/
def tileOfImage (fmt : Byte) (m : Mem) (scale : F32) : TileReg :=
  let sh := shapeD fmt
  { format := fmt, data := memSlice m 0 sh.dataBytes, scales := memSlice m sh.dataBytes sh.scaleBytes, tileScale := scale,
    orient := false, rows := 0, cols := 0 }

/-- The image of a tile register. -/
def imageOfTile (t : TileReg) : Mem :=
  let sh := shapeD t.format
  memSplice t.data sh.dataBytes sh.scaleBytes t.scales

/-- The bytes of a tile's image (R259). -/
def imageBytes (fmt : Byte) : Nat := (shapeD fmt).dataBytes + (shapeD fmt).scaleBytes

/-! ### Stochastic rounding (R55) -/

/-- The random value of one element. -/
def srBits (k : Dword) (n : Word) (t : BitVec 16) (g : BitVec 24) (e : Nat) : Nat :=
  let key := k ^^^ ((n.setWidth 64 + 1) * 0x9E3779B97F4A7C15#64)
  let c := (t.setWidth 64 <<< 44) ||| (g.setWidth 64 <<< 20) ||| BitVec.ofNat 64 e
  let z := key ^^^ c
  let z := (z ^^^ (z >>> 30)) * 0xBF58476D1CE4E5B9#64
  let z := (z ^^^ (z >>> 27)) * 0x94D049BB133111EB#64
  let z := z ^^^ (z >>> 31)
  z.toNat / 2 ^ 56

/-! ### Conversion into a format (R43 to R50) -/

/-- What a conversion gives: the tile's data and scales, and the counts of R48, R49 and R50. -/
structure Encoded where
  data : Mem
  scales : Mem
  sat : Nat
  zeroed : Nat
  nonfinite : Nat
  deriving DecidableEq, Repr

/-- y of R43: x over the tile scale, exact when the scale is a power of two, else rounded once to FP32 and held finite. -/
def scaledDown (x : F32) (scale : F32) : Num :=
  match divNum (num32 x) (num32 scale) with
  | .fin neg n d =>
    if scale.toNat % 2 ^ 23 = 0 then .fin neg n d
    else match num32 (to32 .rne (.fin neg n d)) with
      | .inf s => .fin s (codeMag fp32Fmt fp32Fmt.maxCode).1 (codeMag fp32Fmt fp32Fmt.maxCode).2
      | v => v
  | v => v

/-- The larger of two fractions. -/
def maxFrac (a b : Nat × Nat) : Nat × Nat := if a.1 * b.2 < b.1 * a.2 then b else a

/-- The magnitude of a finite value; 0 for any other. -/
def magFrac : Num → Nat × Nat
  | .fin _ n d => (n, d)
  | _ => (0, 1)

/-- The largest element magnitude and emax of an MX element type, or P of R45. -/
def elemFmt (fmt : Byte) : FpFmt × Int :=
  match fmt.toNat with
  | 0x03 => (e4m3Fmt, 8) | 0x0B => (e4m3Fmt, 8) | 0x04 => (e5m2Fmt, 15) | 0x0C => (e5m2Fmt, 15)
  | 0x09 => (e2m3Fmt, 2) | 0x0A => (e3m2Fmt, 4) | _ => (e2m1Fmt, 2)

/-- The block scale's code from the block's largest magnitude (R45, R46). -/
def blockScaleCode (fmt : Byte) (a : Nat × Nat) : Nat :=
  if a.1 = 0 then 0
  else if mxBlock fmt then
    let x := min 127 (max (-127) (floorLog2 a.1 a.2 - (elemFmt fmt).2))
    (x + 127).toNat
  else
    let q : Nat × Nat := if fmt.toNat = 0x07 then (2 * a.1, 3 * a.2) else (a.1, 6 * a.2)
    if 448 * q.2 < q.1 then 0x7E else max 1 (codeAtLeast e4m3Fmt q.1 q.2)

/-- An HF2 code of a scaled value, with its saturation (R33, R52 to R54). -/
def hf2Code (m : Rnd) (neg : Bool) (n d : Nat) : Nat × Bool :=
  if 3 * d < 2 * n then (boolNat neg * 2 + 1, true)
  else if 2 * n = 3 * d then (boolNat neg * 2 + 1, false)
  else
    (match m with
    | .rne => if n ≤ d then (if n = 0 then 0 else boolNat neg * 2) else boolNat neg * 2 + 1
    | .rtz => if n = 0 then 0 else boolNat neg * 2
    | .sr r =>
      if 2 * n = d then boolNat neg * 2
      else if 2 * n < d then
        -- between −0.5 and +0.5: the fraction is q + 0.5
        (let f := if neg then 256 * (d - 2 * n) / (2 * d) else 256 * (2 * n + d) / (2 * d)
         if r < f then 0 else 2)
      else if neg then (if r < 256 * (3 * d - 2 * n) / (2 * d) then 2 else 3)
      else (if r < 256 * (2 * n - d) / (2 * d) then 1 else 0), false)

/-- The code of a scaled value in a format of eight bits or fewer, with its saturation (R25, R48). R25 says both that an element keeps
its input's sign and that a zero of either sign is written as +0; an FP8 or FP6 element here keeps the sign of a −0 input and of a
value that rounds to zero: DESIGN CHOICE, log entry 115. -/
def narrowCode (fmt : Byte) (m : Rnd) (neg : Bool) (n d : Nat) : Nat × Bool :=
  if fmt.toNat = 0x07 then hf2Code m neg n d
  else
    let f := (elemFmt fmt).1
    let top := codeMag f f.maxCode
    let sign := boolNat neg * 2 ^ ((shapeD fmt).bits - 1)
    if top.1 * d < n * top.2 then (sign + f.maxCode, true)
    else
      let c := roundCode f m neg n d
      if c = 0 ∧ (fmt.toNat = 0x05 ∨ fmt.toNat = 0x06 ∨ fmt.toNat = 0x08) then (0, false) else (sign + c, false)

/-- One block converted: its scale code, its element codes with their row-major indexes, and its counts. -/
def encodeBlock (fmt : Byte) (scale : F32) (rnd : Nat → Rnd) (elems : List (Nat × F32)) : Nat × List (Nat × Nat) × Nat × Nat × Nat :=
  if elems.any (fun x => nonfinite32 x.2) then
    ((if mxBlock fmt then 255 else 0x7F), elems.map (fun x => (x.1, 0)), 0, 0, 1)
  else
    let ys := elems.map (fun x => (x.1, if mxBlock fmt then num32 x.2 else scaledDown x.2 scale))
    let a := ys.foldl (fun m y => maxFrac m (magFrac y.2)) (0, 1)
    if a.1 = 0 then (0, elems.map (fun x => (x.1, 0)), 0, 0, 0)
    else
      let sc := blockScaleCode fmt a
      let s := (scaleNum fmt sc).getD (1, 1)
      let codes := ys.map (fun y => match y.2 with
        | .fin neg n d => (y.1, narrowCode fmt (rnd y.1) neg (n * s.2) (d * s.1))
        | _ => (y.1, (0, false)))
      let allZero := fmt.toNat ≠ 0x07 && codes.all (fun c => c.2.1 % 2 ^ ((shapeD fmt).bits - 1) = 0)
      (sc, codes.map (fun c => (c.1, c.2.1)), (codes.filter (fun c => c.2.2)).length, boolNat allZero, 0)

/-- One unblocked element converted: its code and its counts (R40, R47, R50). -/
def encodeElem (fmt : Byte) (scale : F32) (m : Rnd) (x : F32) : Nat × Nat × Nat :=
  match fmt.toNat with
  | 0x00 => ((quiet32 x).toNat, 0, 0)
  | 0x01 => let c := to16 bf16Fmt m (num32 x); (c.toNat, 0, boolNat (bf16Fmt.maxCode < c.toNat % 2 ^ 15))
  | 0x02 => let c := to16 fp16Fmt m (num32 x); (c.toNat, 0, boolNat (fp16Fmt.maxCode < c.toNat % 2 ^ 15))
  | _ =>
    match scaledDown x scale with
    | .fin neg n d => let c := narrowCode fmt m neg n d; (c.1, boolNat c.2, 0)
    | .nan => (0x7F, 0, 1)
    | .inf neg => (if fmt.toNat = 0x04 then boolNat neg * 128 + 0x7C else 0x7F, 0, 1)

/-- A tile of FP32 values (by row-major index, +0 unlisted) converted into a format at a tile scale (R43 to R50). -/
def encodeTile (fmt : Byte) (scale : F32) (rnd : Nat → Rnd) (vals : Tab F32) : Encoded :=
  let bits := (shapeD fmt).bits
  if hfBlock fmt || mxBlock fmt then
    (sortDistinct (vals.map (fun v => blockIndex fmt v.1))).foldl (fun e b =>
      let r := encodeBlock fmt scale rnd ((blockElems fmt b).map (fun i => (i, tGet 0 vals i)))
      { data := r.2.1.foldl (fun m c => packedSet m bits (dataIndex fmt c.1) c.2) e.data
        scales := memPut e.scales b (BitVec.ofNat 8 r.1)
        sat := e.sat + r.2.2.1
        zeroed := e.zeroed + r.2.2.2.1
        nonfinite := e.nonfinite + r.2.2.2.2 }) ⟨[], [], 0, 0, 0⟩
  else
    vals.foldl (fun e v =>
      let r := encodeElem fmt scale (rnd v.1) v.2
      { e with data := packedSet e.data bits v.1 r.1, sat := e.sat + r.2.1, nonfinite := e.nonfinite + r.2.2 }) ⟨[], [], 0, 0, 0⟩

/-! ### G16 (R58 to R61) -/

/-- A group of FP32 values encoded: exponent, mantissas, saturations, whether it is non-finite (R60). -/
def g16Encode (xs : List F32) : Byte × List (BitVec 16) × Nat × Bool :=
  if xs.any nonfinite32 then (255, xs.map (fun _ => 0), 0, true)
  else
    let a := xs.foldl (fun m x => maxFrac m (magFrac (num32 x))) (0, 1)
    if a.1 = 0 then (0, xs.map (fun _ => 0), 0, false)
    else
      -- the largest k with a · 2^k < 32767.5: the quotient lies in [2^14, 2^15), so k is one of two values
      let k0 : Int := 14 - floorLog2 a.1 a.2
      let fits := fun (k : Int) => let s := scaleTwo (2 * a.1) k; decide (s.1 < 65535 * a.2 * s.2)
      let k := if fits (k0 + 1) then k0 + 1 else if fits k0 then k0 else k0 - 1
      let e : Int := min 254 (max 1 (141 - k))
      let one := fun (x : F32) =>
        match num32 x with
        | .fin neg n d =>
          let s := scaleTwo n (141 - e)
          let den := d * s.2
          let q := s.1 / den
          let rem := s.1 % den
          let r := if 2 * rem < den then q else if den < 2 * rem then q + 1 else q + q % 2
          let sat := decide (32767 < r)
          (BitVec.ofInt 16 (signedNum neg (min r 32767)), boolNat sat)
        | _ => (0, 0)
      let ms := xs.map one
      (BitVec.ofInt 8 e, ms.map (·.1), (ms.map (·.2)).foldl (· + ·) 0, false)

/-- A G16 element decoded to FP32. -/
def g16Decode (e : Byte) (m : BitVec 16) : F32 :=
  if e = 0 then 0
  else if e = 255 then nan32
  else
    let s := scaleTwo m.toInt.natAbs ((e.toNat : Int) - 141)
    to32 .rne (.fin (decide (m.toInt < 0)) s.1 s.2)

/-! ### State formats (R62, R63) -/

/-- The smallest BF16 at least a positive fraction, held at the largest finite one; whether it was held (R62). -/
def bf16AtLeast (n d : Nat) : BitVec 16 × Bool :=
  let c := codeAtLeast bf16Fmt n d
  if bf16Fmt.maxCode < c then (0x7F7F, true) else (BitVec.ofNat 16 c, false)

/-- A code of M8A or M8B: the stochastic rounding of |q| on the integers with its sign, clamped at the largest code; whether it
was clamped (R54, R62). -/
def stepCode (limit r : Nat) (neg : Bool) (n d : Nat) : Int × Bool :=
  let lo := n / d
  let rem := n % d
  let c := if rem = 0 then lo
    else if neg then (if r < 256 * (d - rem) / d then lo else lo + 1)
    else (if r < 256 * rem / d then lo + 1 else lo)
  if limit < c then (signedNum neg limit, true) else (signedNum neg c, false)

/-- A BF16 scale's value as a fraction. -/
def bf16Frac (s : BitVec 16) : Nat × Nat := codeMag bf16Fmt (s.toNat % 2 ^ 15)

/-- A sub-block of 128 values of one state format encoded: scale, codes, clamped codes (R62). limit is 127 or 255. -/
def stateEncode (limit : Nat) (rnd : Nat → Nat) (xs : List F32) : BitVec 16 × List Byte × Nat :=
  let a := xs.foldl (fun m x => maxFrac m (magFrac (num32 x))) (0, 1)
  if a.1 = 0 then (0, xs.map (fun _ => 0), 0)
  else
    let s := (bf16AtLeast a.1 (a.2 * limit)).1
    let f := bf16Frac s
    let codes := xs.zipIdx.map (fun x => match num32 x.1 with
      | .fin neg n d => stepCode limit (rnd x.2) neg (n * f.2) (d * f.1)
      | _ => (0, false))
    (s, codes.map (fun c => BitVec.ofInt 8 c.1), (codes.filter (·.2)).length)

/-- A decoded M8A code. -/
def m8aDecode (s : BitVec 16) (q : Byte) : F32 :=
  let f := bf16Frac s
  to32 .rne (.fin (decide (q.toInt < 0)) (q.toInt.natAbs * f.1) f.2)

/-- A decoded M8B code, (q · s)², in FP32. -/
def m8bDecode (s : BitVec 16) (q : Byte) : F32 :=
  let f := bf16Frac s
  to32 .rne (.fin false (q.toNat * f.1 * (q.toNat * f.1)) (f.2 * f.2))

end Sys2Proof.Machine
end

