-- ==== Sys2Proof/Machine/Operands.lean ====
section
/-!
DEFINITION. Operands.lean: how a command's operand fields name values: scalar sources (R165), operand specifiers of the vector
engine and what they read (R163, R568).
-/
namespace Sys2Proof.Machine

/-- A scalar register of a thread. -/
def regOf (th : Thread) (i : Nat) : Dword := tGet 0 th.regs i

/-- Writes a scalar register. -/
def setReg (th : Thread) (i : Nat) (v : Dword) : Thread := { th with regs := tPut 0 th.regs i v }

/-- Loop counter LCd: the iteration index of the loop at depth d, 0 while free (R170). -/
def loopCounter (th : Thread) (d : Nat) : Dword := BitVec.ofNat 64 ((th.loops[d]?.map Loop.index).getD 0)

/-- Source A of a scalar command: bit 5 names a loop counter (R165). -/
def sourceA (th : Thread) (a : Byte) : Dword :=
  if bitOf a.toNat 5 then loopCounter th (a.toNat % 4) else regOf th (a.toNat % 32)

/-- Source B of a scalar command: bit 6 takes the immediate (R165). -/
def sourceB (th : Thread) (b : Byte) (imm : Dword) : Dword := if bitOf b.toNat 6 then imm else sourceA th b

/-- KIND of a specifier (R163). -/
def specKind (w : Word) : Nat := w.toNat / 2 ^ 28
/-- INDEX of a specifier that names a tile register. -/
def specTile (w : Word) : Nat := w.toNat % 16
def specAcc (w : Word) : Nat := w.toNat % 4
def specRow (w : Word) : Nat := w.toNat % 2 ^ 21
def specReg (w : Word) : Nat := w.toNat % 32

/-- A tile register of a core. -/
def tileAt (c : Core) (i : Nat) : TileReg := tGet freshTile c.tiles i
def setTile (c : Core) (i : Nat) (t : TileReg) : Core :=
  { c with tiles := tIns c.tiles i t, loaded := match c.loaded with | some (j, w) => if j = i then none else some (j, w) | none => none }

/-- An accumulator: FP32 by row · 1024 + column, +0 unlisted. -/
def accAt (c : Core) (i : Nat) : Tab F32 := tGet [] c.accs i
def setAcc (c : Core) (i : Nat) (a : Tab F32) : Core := { c with accs := tPut [] c.accs i a }

/-- What a vector source gives: a broadcast value, or a grid with its rows and columns (+0 unlisted), keyed row · cols + column. -/
inductive Source where
  | bcast (v : F32)
  | grid (rows cols : Nat) (vals : Tab F32)
  deriving DecidableEq, Repr

/-- The value of a source at a position; +0 outside its shape (R568). -/
def sourceAt (x : Source) (r c : Nat) : F32 :=
  match x with
  | .bcast v => v
  | .grid rows cols vals => if r < rows ∧ c < cols then tGet 0 vals (r * cols + c) else 0

/-- The rows that a source gives at least one listed value for. -/
def sourceRows (x : Source) : List Nat :=
  match x with
  | .bcast _ => []
  | .grid _ cols vals => (vals.map (fun v => v.1 / cols)).eraseDups

/-- The elements of packed FP32, BF16 or FP16 data as FP32, zeros left out (R568). -/
def packedVals (fmt : Byte) (m : Mem) : Tab F32 :=
  let w := (shapeD fmt).bits / 8
  (((m.map (fun c => c.1 / w)).eraseDups).map (fun i => (i, to32 .rne (elemNum fmt (leNat (memBytes m (w * i) w)))))).filter
    (fun x => x.2 ≠ 0)

end Sys2Proof.Machine
end

