-- ==== Sys2Proof/Machine/Context.lean ====
section
/-!
DEFINITION. Context.lean: what ends with a context: its windows (R282, R283, R285), its descriptors (R297), its HDM window
(R412), its queues (R491), and the consumption of a stain (R278).
-/
namespace Sys2Proof.Machine

/-- The word offset of window w's entry (R287). -/
def windowOff (w : Nat) : Nat := 0x400 + 32 * w
/-- STATE, INFLIGHT and owning CONTEXT of a window. -/
def windowState (s : State) (site w : Nat) : Nat := fld s site 0x18 ⟨windowOff w + 0x0C, 25, 24⟩
def windowInflight (s : State) (site w : Nat) : Nat := fld s site 0x18 (wordFld (windowOff w + 0x10))
def windowCtx (s : State) (site w : Nat) : Nat := fld s site 0x18 ⟨windowOff w + 0x0C, 21, 16⟩
def setWindowState (s : State) (site w v : Nat) : State := setFld s site 0x18 ⟨windowOff w + 0x0C, 25, 24⟩ v

/-- The secure groups bound to a window come free on every port (R423). -/
def freeGroups (s : State) (site w : Nat) : State :=
  { s with ports := s.ports.map (fun x => (x.1, { x.2 with groups := x.2.groups.filter (fun g => !(g.2.1 = site ∧ g.2.2.1 = w)) })) }

/-- A window reaches CLOSED: its CLOSE_DONE bit is set, and the page's event (R283, R287). -/
def closeWindow (s : State) (site w : Nat) : State :=
  let s := freeGroups (setWindowState s site w 0) site w
  let o := if w < 32 then 0x048 else 0x04C
  irqEvent (setRegWord s site 0x18 o (regWord s site 0x18 o ||| BitVec.ofNat 32 (2 ^ (w % 32)))) site 0x18 0

/-- DRAIN or ABORT: DRAINING, or CLOSED in the same cycle when nothing is in flight (R283). -/
def drainWindow (s : State) (site w : Nat) : State :=
  if windowInflight s site w = 0 then closeWindow s site w else setWindowState s site w 3

/-- The sites of the in-service cores. -/
def serviceSites (s : State) : List Nat := (List.range 72).filterMap (siteOf s)

/-- The windows of a context, as (site, window). -/
def ctxWindows (s : State) (c : Nat) : List (Nat × Nat) :=
  ((serviceSites s).map (fun site => ((List.range 64).filter (fun w => windowState s site w ≠ 0 ∧ windowCtx s site w = c)).map
    (fun w => (site, w)))).flatten

/-- ABORT of every window of a context (R285). -/
def abortWindows (s : State) (c : Nat) : State :=
  (ctxWindows s c).foldl (fun s x => if windowState s x.1 x.2 = 3 then s else drainWindow s x.1 x.2) s

/-- The pages a descriptor pins come free unless another descriptor of the context pins them (R267). -/
def unpin (s : State) (c : Nat) (pages : List Nat) : State :=
  let still := ((s.cores.map (fun k => (k.2.descs.filter (fun d => d.2.ctx = c ∧ (d.2.state = 2 ∨ d.2.state = 3))).map (fun d => d.2.pins))).flatten).flatten
  modCtx s c (fun x => { x with pt := x.pt.map (fun e =>
    if pages.contains e.1 && !still.contains e.1 then (e.1, { e.2 with pinned := false }) else e) })

/-- A descriptor in RETIRING becomes FREE once its started units have completed (R297). -/
def settleDesc (s : State) (site d : Nat) : State :=
  let x := tGet freshDesc (coreAt s site).descs d
  if x.state = 3 ∧ x.flight = [] then
    unpin (modCore s site (fun c => { c with descs := tIns c.descs d freshDesc })) x.ctx x.pins
  else s

/-- A descriptor goes to RETIRING, its commands not yet started dropped (R297). -/
def retireDesc (s : State) (site d : Nat) : State :=
  settleDesc (modCore s site (fun c => { c with
    descs := tIns c.descs d { tGet freshDesc c.descs d with state := 3, running := none }
    held := c.held.filter (fun x => x.1 ≠ .stream (BitVec.ofNat 6 d)) })) site d

/-- Every descriptor of a context goes to RETIRING (R278, R491). -/
def retireDescs (s : State) (c : Nat) : State :=
  s.cores.foldl (fun s k => k.2.descs.foldl (fun s d => if d.2.ctx = c ∧ d.2.state ≠ 0 then retireDesc s k.1 d.1 else s) s) s

/-! ### The host's lines (R410 to R412) -/

/-- Context, base context address and bytes that the HP_HDM fields give (R410, R439), and those of the window in force: as they were when its decoding
began (R410, R412). -/
def hdmFields (s : State) : Nat × Nat × Nat :=
  (fld s 76 0x20 ⟨0x040, 5, 0⟩, fld s 76 0x20 ⟨0x044, 31, 21⟩ * 2 ^ 21 + fld s 76 0x20 ⟨0x048, 15, 0⟩ * 2 ^ 32, fld s 76 0x20 ⟨0x04C, 19, 0⟩ * 2 ^ 21)
def hdmWindow (s : State) : Nat × Nat × Nat := s.hdm.window.getD (hdmFields s)
def hdmCtx (s : State) : Nat := (hdmWindow s).1
def hdmBase (s : State) : Nat := (hdmWindow s).2.1
def hdmBytes (s : State) : Nat := (hdmWindow s).2.2

/-- One back-invalidate snoop, unless the line is asked already: BISnpInv or BISnpData (R411). -/
def snoopLine (s : State) (line : Nat) (inv : Bool) : State :=
  if s.hdm.asked.any (fun x => x.1 = line ∧ (x.2 || !inv)) then s
  else
    let s := emit (bump s 76 0x20 (wordFld 0x054) 1) (.snoop line inv)
    { s with hdm := { s.hdm with asked := s.hdm.asked.filter (fun x => x.1 ≠ line) ++ [(line, inv)] } }

/-- The lines of a context range that the module must ask the host for: any it holds before a write, those it may hold modified
before a read (R411). -/
def hostLines (s : State) (c a n : Nat) (write : Bool) : List Nat :=
  if c ≠ hdmCtx s ∨ n = 0 then []
  else (s.hdm.filter.filter (fun x => (x.2 || write) && a < hdmBase s + x.1 * 64 + 64 && hdmBase s + x.1 * 64 < a + n)).map (·.1)

/-- Asks the host for lines. -/
def askHost (s : State) (lines : List Nat) (inv : Bool) : State := lines.foldl (fun s l => snoopLine s l inv) s

/-- HP_HDM_CTRL.ENABLE (R439). -/
def hdmEnabled (s : State) : Bool := fld s 76 0x20 ⟨0x040, 6, 6⟩ = 1

/-- The last tracked line is back: the decoding stops, and begins again with the fields as they are where ENABLE has been written 1 since (R412). -/
def hdmDrained (s : State) : State :=
  let on := hdmEnabled s
  setFld { s with hdm := { s.hdm with draining := false, window := if on then some (hdmFields s) else none } } 76 0x20 ⟨0x050, 0, 0⟩ (boolNat on)

/-- ENABLE is written 0: every tracked line is back-invalidated, and then the decoding stops (R412). -/
def hdmStop (s : State) : State :=
  let s := askHost (setFld s 76 0x20 ⟨0x040, 6, 6⟩ 0) (s.hdm.filter.map (·.1)) true
  if s.hdm.filter = [] then hdmDrained s else { s with hdm := { s.hdm with draining := true } }

/-- The queues of a context. -/
def ctxQueues (s : State) (c : Nat) : List Nat := (s.queues.filter (fun x => x.2.ctx = c)).map (·.1)

/-- A replay whose context ends does not finish: 0x0906, no digest, the state it came from; the feeders begin the forward schedule again (R369,
R448). -/
def replayEnds (s : State) : State :=
  let s := raise { s with step := { s.step with verifyStep := none, skipped := [] } } { plainReport 0x0906 0 76 0x29 with ctx := some s.step.ctx }
  let s := { s with
    ports := s.ports.map (fun x => (x.1, { x.2 with feedPos := 0, fetches := [], feedStopped := false }))
    cores := s.cores.map (fun x => (x.1, { x.2 with wwPos := 0 })) }
  setFld s 76 0x29 ⟨0x048, 2, 0⟩ s.step.back

/-- A context ends, steps 1 to 4 of R491. The halt of each queue shows at once after a request (shown), and with the record of
the fault otherwise (R444). -/
def endCtx (s : State) (c code : Nat) (mark : Word) (shown : Bool) : State :=
  match ctxAt s c with
  | none => s
  | some x =>
    if x.ending.isSome then s
    else
      let s := setCtx s c { x with ending := some (BitVec.ofNat 16 code, mark) }
      let s := (ctxQueues s c).foldl (fun s q => if shown then haltNow s q code mark else stopQueue s q code mark) s
      let s := abortWindows s c
      let s := retireDescs s c
      let s := { s with mesh := { s.mesh with arrivals := s.mesh.arrivals.filter (fun a => a.ctx ≠ c) } }
      let s := if hdmEnabled s ∧ (hdmCtx s = c ∨ (hdmFields s).1 = c) then hdmStop s else s
      if fld s 76 0x29 ⟨0x048, 2, 0⟩ = 6 ∧ s.step.ctx = c then replayEnds s else s

/-- The consumption of stained data: fault 0x0303, and the context ends (R278). -/
def consumeStain (s : State) (f : Report) : State :=
  let s := raise s { f with code := 0x0303, effect := 4 }
  match f.ctx with
  | some c => endCtx s c 0x0303 f.mark false
  | none => s

end Sys2Proof.Machine
end

