-- ==== Sys2Proof/Machine/Native.lean ====
section
/-!
DEFINITION. Native.lean: how a native command is fetched, held, started and retired: the queue scheduler (R184 to R194), the sync
block (R93 to R95, R159, R160), loops and the return stack's effect on the fetch (R167 to R172), traces (R183).
-/
namespace Sys2Proof.Machine

/-- Who issues a command and where it acts: its queue, context and thread, the logical core and site it acts on, and the site of the
issuing thread. -/
structure Issue where
  q : Nat
  ctx : Nat
  core : Nat
  site : Nat
  t : Nat
  home : Nat
  deriving DecidableEq, Repr

/-- How a command ended its start: done, done with a jump, still under way, refused with its queue halted, or not started since
something it needs is not there yet (offline: a page of a reach switched off, R281). -/
inductive Ran where
  | done | jumped | waiting | halted
  | blocked (offline : Bool)
  deriving DecidableEq, Repr

/-- The issuer bound to queue q (R184). -/
def issueBase (s : State) (q : Nat) : Option Issue :=
  match queueAt s q with
  | none => none
  | some e =>
    match siteOf s e.core with
    | none => none
    | some site => some { q := q, ctx := e.ctx, core := e.core, site := site, t := e.thread.toNat, home := site }

/-- Where an engine's command acts: on the core that TARGET_CORE names, where TARGET_VALID is set (R160; log entry 121). -/
def actOn (s : State) (u : Issue) (h : Hdr) : Issue :=
  if h.targetValid then (match siteOf s h.targetCore.toNat with
    | some site => { u with core := h.targetCore.toNat, site := site }
    | none => u)
  else u

/-- The queue entry of an issuer; an empty one where there is none. -/
def entryD (s : State) (q : Nat) : QEntry :=
  (queueAt s q).getD { base := 0, log2 := 4, state := 7, thread := 0, ctx := 0, core := 0, trace := false, head := 0, tail := 0, haltMark := 0, haltFault := 0, stopping := none, saved := none }

/-- The context address of the command at HEAD (R184). -/
def headAddr (s : State) (u : Issue) : Nat := (entryD s u.q).base.toNat + 64 * (entryD s u.q).head

/-- Whether the thread of a queue is ready to fetch from it: attached, not stopped, not waiting, a command between HEAD and TAIL
(or the thread inside a code object), the context alive (R90, R189, R190, R194). -/
def threadReady (s : State) (u : Issue) : Bool :=
  let e := entryD s u.q
  let th := threadAt s u.site u.t
  e.state = 2 && e.stopping = none && th.attached = some u.q && th.waits = .none &&
    (th.code.isSome || e.head ≠ e.tail) && reachUp s u.site && !s.head.stopped &&
    (match ctxAt s u.ctx with | some x => x.ending = none | none => false)

/-- Whether the ring page of a thread's next command is offline, so that its fetch waits (R281). -/
def ringOffline (s : State) (u : Issue) : Bool :=
  (threadAt s u.site u.t).code.isNone && (match ctxAt s u.ctx with | some x => offline s x (headAddr s u) 64 | none => false)

/-- Whether it is a thread's turn: no other ready thread of its core stands between the one that issued last and it, in round-robin
order (R90). -/
def hasTurn (s : State) (u : Issue) : Bool :=
  (((List.range 16).map (fun i => ((coreAt s u.site).lastIssue + 1 + i) % 16)).takeWhile (fun t => t ≠ u.t)).all (fun t =>
    match (threadAt s u.site t).attached.bind (issueBase s) with
    | some v => !threadReady s v || ringOffline s v
    | none => true)

/-- Whether the thread of a queue fetches from it now: it is ready, and it is its turn (R90). -/
def canFetch (s : State) (u : Issue) : Bool := threadReady s u && hasTurn s u

/-- The issuer of a command presented by its queue, when the queue can be fetched. -/
def issueOf (s : State) (h : Hdr) : Option Issue :=
  match issueBase s h.queue.toNat with
  | none => none
  | some u => if canFetch s u then some u else none

/-- A report of a native command. -/
def cmdReport (u : Issue) (h : Hdr) (code effect page detail : Nat) : Report :=
  { code := code, effect := effect, ctx := some u.ctx, mark := h.mark, queue := some u.q, core := some u.core, site := some u.site,
    reach := u.site, page := page, detail := detail }

/-- A trace record: kind 0 start, 1 retire, 2 refused (R183, R503). A full ring drops it and counts it. -/
def traceRec (s : State) (u : Issue) (h : Hdr) (kind : Nat) : State :=
  match ctxAt s u.ctx with
  | none => s
  | some x =>
    if !(h.trace || (entryD s u.q).trace) || x.traceLog2 = 0 then s
    else if x.traceWritten - leNat (memBytes s.store.host (x.traceRing - 48) 8) = 2 ^ x.traceLog2 then
      let s := setCtx s u.ctx { x with traceDropped := x.traceDropped + 1 }
      hostStore s (x.traceRing - 56) (leBytes 8 (x.traceDropped + 1))
    else
      let rec' := leBytes 4 h.mark.toNat ++ leBytes 4 u.q ++ leBytes 1 u.core ++ leBytes 1 h.engine.toNat ++ leBytes 1 kind ++
        leBytes 1 0 ++ leBytes 8 s.now.toNat ++ leBytes 4 s.fine ++ leBytes 8 0
      let s := setCtx s u.ctx { x with traceWritten := x.traceWritten + 1 }
      let s := hostStore s (x.traceRing + 32 * (x.traceWritten % 2 ^ x.traceLog2)) rec'
      hostStore s (x.traceRing - 64) (leBytes 8 (x.traceWritten + 1))

/-- A command's packets dropped at router r: its completion carries 0x0405, which halts no queue (R331, R442, R446; log entry 152). -/
def undelivered (s : State) (u : Issue) (h : Hdr) (r page : Nat) : State := raise (dropPacket s r) (cmdReport u h 0x0405 1 page 0)

/-- A command refused with a fault that halts its queue (R98). -/
def haltCmd (s : State) (u : Issue) (h : Hdr) (code page : Nat) : State :=
  traceRec (raise s (cmdReport u h code 3 page 0)) u h 2

/-- The same as the end of a command's start. -/
def refused (s : State) (u : Issue) (h : Hdr) (code page : Nat) : State × Ran := (haltCmd s u h code page, .halted)

/-! ### Frame slots of the scratchpad (R315 to R321) -/

/-- SP_CTRL.XBAR: the crossbar word view is set and the frame stops (R321). -/
def xbarOn (s : State) (site : Nat) : Bool := fld s site 0x17 ⟨0x040, 0, 0⟩ = 1

/-- Frame slots that an owner holds in a map (R324). -/
def slotsHeld (map owner : Nat) : Nat := ((List.range 8).filter (fun i => bitsOf map (4 * i + 3) (4 * i) = owner)).length

/-- Whether an owner of R324 meets the banks: the frame runs and the map in force gives it a slot; otherwise it waits (R319, R321; log entry
134). Owners: 0 matrix, 1 stream-in, 2 stream-out, 3 vector, 4 remote DMA, 5 scalar narrow. -/
def spServed (s : State) (site owner : Nat) : Bool :=
  !xbarOn s site && decide (0 < slotsHeld (regWord s site 0x17 0x044).toNat owner)

/-! ### Fetch -/

/-- The cores a command names in its sync block and target. -/
def namedCores (h : Hdr) : List Nat :=
  (if h.sigRemote then [h.sigCore.toNat] else []) ++ (if h.targetValid then [h.targetCore.toNat] else [])

/-- The fault of a command refused at fetch (R192, R193); absent says that an operand names an absent unit. -/
def fetchFault (s : State) (u : Issue) (h : Hdr) (absent : Bool) : Option Nat :=
  if absent || (namedCores h).any (fun k => coreCount s ≤ k) then some 0x0101
  else if (namedCores h).any (fun k => layoutWidth s u.ctx ≤ k) then some 0x010D
  else none

/-- The position of the next command: HEAD on the ring, the thread's own counter in a code object. -/
def curPos (s : State) (u : Issue) : Nat :=
  if (threadAt s u.site u.t).code.isSome then (threadAt s u.site u.t).pc else (entryD s u.q).head

/-- A position on the ring wraps at its size (R186). -/
def wrapPos (s : State) (u : Issue) (p : Int) : Nat :=
  if (threadAt s u.site u.t).code.isSome then p.toNat else (p % (2 ^ (entryD s u.q).log2 : Nat)).toNat

/-- Sets the position of the next command. -/
def setPos (s : State) (u : Issue) (p : Int) : State :=
  let n := wrapPos s u p
  if (threadAt s u.site u.t).code.isSome then modThread s u.site u.t (fun th => { th with pc := n })
  else modQueue s u.q (fun e => { e with head := n })

/-- What the fetch of the presented command does: it goes no further (nothing can be fetched, it is refused and HEAD stays, or it is
stained and ends the context), or it is fetched with HEAD past it and QS_FETCHED counted (R192 to R194, R278, R532). -/
inductive Fetched where
  | stays (s : State)
  | passed (s : State)

/-- The fetch (R190, R192, R193, R257, R278). A ring page that is offline makes the fetch wait (R281). -/
def fetchCmd (s : State) (u : Issue) (h : Hdr) (absent : Bool) : Fetched :=
  let x := (ctxAt s u.ctx).map (fun x =>
    if (threadAt s u.site u.t).code.isSome then (true, false, false)
    else (mapped x (headAddr s u) 64, offline s x (headAddr s u) 64, ctxStained s x (headAddr s u) 64))
  match x with
  | none => .stays s
  | some (ok, off, stain) =>
    let past := fun (s : State) =>
      modCore (bumpWrap (setPos s u ((curPos s u : Nat) + 1)) u.site 0x10 (wordFld 0x040) 1) u.site (fun c => { c with lastIssue := u.t })
    if !ok then .stays (haltCmd s u h 0x0307 0x10)
    else if off then .stays s
    else if stain then .stays (consumeStain (past s) (cmdReport u h 0x0303 4 0x10 0))
    else match fetchFault s u h absent with
      | some code => .stays (bump (haltCmd s u h code 0x10) u.site 0x10 (wordFld 0x044) 1)
      | none => .passed (past s)

/-- How a presented row stands to the 64 bytes at HEAD: it is the command they spell, another command or none stands there, or they spell none
that runs, which is refused with the given header and fault (R158, R179). -/
inductive RingView where
  | same | other
  | bad (h : Hdr) (code : Nat)

/-- The command at a position of the native code of a program: function f's commands stand at f · 2^32 onward (log entry 15). -/
def nativeAt (l : Loaded) (pc : Nat) : Option (List Byte) :=
  ((l.native.filter (fun c => c.1 = pc / 2 ^ 32))[pc % 2 ^ 32]?).map (fun c => c.2.2)

/-- A row against the bytes of the command that stands there. -/
def viewOf (q : Nat) (b : List Byte) (i : Instr) : RingView :=
  match spelled q b with
  | .command j => if j = written i then .same else .other
  | .badOpcode h => .bad h 0x0113
  | .noRoutine h => .bad h 0x0106

/-- The row against the 64 bytes at HEAD of its ring, or inside a code object against the native code at the thread's position, where nothing
stands beyond its end (log entry 9). Bytes that cannot be read are the fetch's concern. -/
def ringView (s : State) (u : Issue) (i : Instr) : RingView :=
  match ctxAt s u.ctx with
  | none => .same
  | some x =>
    let th := threadAt s u.site u.t
    let a := headAddr s u
    if th.code.isSome then
      (match x.loaded.bind (fun l => nativeAt l th.pc) with
       | some b => viewOf u.q b i
       | none => .other)
    else if !mapped x a 64 || offline s x a 64 || ctxStained s x a 64 then .same
    else viewOf u.q (memBytes (ctxSlice s x a 64) 0 64) i

/-- The fetch of a presented row: it ends there (with its state), or the row's command goes on. A row that is not the command at HEAD
changes nothing. -/
def fetchRow (i : Instr) (h : Hdr) (absent : Bool) (s : State) : State ⊕ State × Issue :=
  match issueOf s h with
  | none => .inl s
  | some u =>
    match ringView s u i with
    | .other => .inl s
    | .bad g code => (match fetchCmd s u g false with
      | .stays s => .inl s
      | .passed s => .inl (haltCmd s u g code 0x11))
    | .same => match fetchCmd s u h absent with
      | .stays s => .inl s
      | .passed s => .inr (s, u)

/-! ### The sync block -/

/-- Whether the wait of a command is met on its core (R93). -/
def tokenMet (s : State) (site : Nat) (h : Hdr) : Bool := h.waitCnt.toNat ≤ (tokenOf (coreAt s site) h.waitTok.toNat).toNat

/-- The wait takes its count from the token (R93). -/
def takeToken (s : State) (site : Nat) (h : Hdr) : State :=
  modCore s site (fun c => { c with tokens := tPut 0 c.tokens h.waitTok.toNat (tokenOf c h.waitTok.toNat - h.waitCnt.setWidth 16) })

/-- A signal of n on a token of the core at a site, which stays at 65,535 where it would pass it; whether it would (R93). -/
def addToken (s : State) (site token n : Nat) : State × Bool :=
  let v := (tokenOf (coreAt s site) token).toNat + n
  (modCore s site (fun c => { c with tokens := tPut 0 c.tokens token (BitVec.ofNat 16 (min v 65535)) }), decide (65535 < v))

/-- The signal of a command that retires (R93, R94); page is that of the engine it retired on. -/
def giveSignal (s : State) (u : Issue) (h : Hdr) (page : Nat) : State :=
  if h.sigCnt = 0 then s
  else if h.sigRemote then
    { s with mesh := { s.mesh with signals := s.mesh.signals ++
        [{ src := u.core, dst := h.sigCore.toNat, ctx := u.ctx, token := h.sigTok.toNat, count := h.sigCnt.toNat, queue := u.q, mark := h.mark }] } }
  else
    let r := addToken s u.site h.sigTok.toNat h.sigCnt.toNat
    if r.2 then raise r.1 (cmdReport u h 0x0122 3 page 0) else r.1

/-- A command retires: trace record and signal. -/
def retireCmd (s : State) (u : Issue) (h : Hdr) (page : Nat) : State := giveSignal (traceRec s u h 1) u h page

/-- Whether every earlier command of a queue has retired on every engine (R159). -/
def fenceMet (s : State) (q : Nat) : Bool :=
  s.cores.all (fun c => c.2.held.all (fun x => instrQueue x.2 ≠ some q) && c.2.started.all (fun x => x.2.queue.toNat ≠ q) &&
    c.2.descs.all (fun d => d.2.flight.all (fun f => f.2.1.queue.toNat ≠ q)))

/-! ### After a command -/

/-- The innermost loop turns or ends when its body's last command has run (R170); a loop that ends may end its parent's body. -/
def loopTurn (s : State) (u : Issue) : Nat → State
  | 0 => s
  | fuel + 1 =>
    let th := threadAt s u.site u.t
    match th.loops.getLast? with
    | none => s
    | some l =>
      if l.level = th.rets.length ∧ curPos s u = wrapPos s u ((l.start : Nat) + l.body + 1) then
        if l.index + 1 < l.count then
          setPos (modThread s u.site u.t (fun th => { th with loops := th.loops.dropLast ++ [{ l with index := l.index + 1 }] })) u
            ((l.start : Nat) + 1)
        else loopTurn (modThread s u.site u.t (fun th => { th with loops := th.loops.dropLast })) u fuel
      else s

/-- A thread with nothing more to fetch: it waits for the doorbell inside a loop or call, and otherwise leaves the queue and
attaches to the next ready one (R189). It leaves a queue disabled meanwhile at once (R530). -/
def leaveIfEmpty (s : State) (u : Issue) : State :=
  let th := threadAt s u.site u.t
  let e := entryD s u.q
  if e.state = 4 then attachNext (leaveQueue s u.q u.site u.t) u.core u.site u.t u.q
  else if th.code.isSome ∨ e.head ≠ e.tail then s
  else if th.loops = [] ∧ th.rets = [] then
    attachNext (modQueue (modThread s u.site u.t (fun th => { th with attached := none })) u.q (fun e => { e with state := 0 }))
      u.core u.site u.t u.q
  else modThread s u.site u.t (fun th => { th with waits := .doorbell })

/-- The thread goes on after a command that did not jump. -/
def goOn (s : State) (u : Issue) : State :=
  if (threadAt s u.site u.t).attached = some u.q then leaveIfEmpty (loopTurn s u 5) u else s

/-- The thread goes on after a jump. -/
def goOnJumped (s : State) (u : Issue) : State :=
  if (threadAt s u.site u.t).attached = some u.q then leaveIfEmpty s u else s

/-! ### Places and their heads (R91 to R93, R298) -/

/-- The page of a place's engine. -/
def placePage : Place → Nat
  | .matrix => 0x12 | .vector => 0x13 | .sparse => 0x15 | .stream _ => 0x16 | .thread _ => 0x11

/-- Whether two places belong to one engine queue (R91, R298). -/
def sameQueue : Place → Place → Bool
  | .stream _, .stream _ => true
  | a, b => a = b

/-- The depth of an engine queue (R91). -/
def placeDepth : Place → Nat
  | .matrix => 16 | .vector => 32 | .stream _ => 64 | .sparse => 16 | .thread _ => 1

/-- Commands that stand in an engine queue: a command keeps its entry until it starts (R91, R93; log entry 70). -/
def placeLoad (c : Core) (p : Place) : Nat := (c.held.filter (fun x => sameQueue x.1 p)).length

/-- Whether a command is the stream class SLOT_SETUP, which starts alone on the stream queue (R296). -/
def isStreamSetup : Instr → Bool
  | .streamSlotSetup _ _ => true
  | _ => false

/-- Whether two places are served in one order: the matrix engine takes the commands of its own queue and of the sparse queue in the
order of their issue (R92, R245). -/
def oneOrder (a b : Place) : Bool :=
  a = b || ((a = .matrix || a = .sparse) && (b = .matrix || b = .sparse))

/-- Whether nothing that entered earlier holds a command back at its place: the engine runs in order (R92), each descriptor's
list in its own order (R298), a stream SLOT_SETUP after and before everything of its queue (R296). -/
def atHead (earlier : List (Place × Instr)) (p : Place) (i : Instr) : Bool :=
  earlier.all (fun x => !oneOrder x.1 p && !(sameQueue x.1 p && (isStreamSetup x.2 || isStreamSetup i)))

/-- The header of a native command; none for any other row. -/
def nativeHdr : Instr → Option Hdr
  | .mov h _ => some h | .add h _ => some h | .sub h _ => some h | .mul h _ => some h | .bitAnd h _ => some h | .bitOr h _ => some h
  | .bitXor h _ => some h | .shl h _ => some h | .shr h _ => some h | .sra h _ => some h | .setCond h _ => some h | .fadd h _ => some h
  | .fmul h _ => some h | .fset h _ => some h | .scalarLoad h _ => some h | .scalarStore h _ => some h | .product h _ => some h
  | .sparseProduct h _ => some h | .sparseEncode h _ => some h | .sparseCheck h _ => some h | .sparseSlotSetup h _ => some h
  | .vadd h _ => some h | .vsub h _ => some h | .vmul h _ => some h | .vfma h _ => some h | .vmin h _ => some h | .vmax h _ => some h
  | .vabs h _ => some h | .vneg h _ => some h | .vsel h _ => some h | .vcmp h _ => some h | .vexp2 h _ => some h | .vlog2 h _ => some h
  | .vrsqrt h _ => some h | .vrecip h _ => some h | .vtanh h _ => some h | .vred h _ => some h | .cvt h _ => some h
  | .vectorSlotSetup h _ => some h | .descLoad h _ _ => some h | .admitStream h _ _ => some h | .nextUnit h _ => some h
  | .run h _ => some h | .retire h _ => some h | .streamSlotSetup h _ => some h | .wait h => some h | .yieldQueue h => some h
  | .barrier h => some h | .layer h _ _ => some h | .stepBegin h => some h | .call h _ => some h | .returnCmd h => some h
  | .enter h _ _ => some h | .exitCmd h => some h | .loop h _ => some h | .branchScalar h _ _ => some h | .branchTensor h _ => some h
  | .scalarReduce h _ _ _ => some h | .gradEmit h _ => some h | .tileProduct h => some h | .stripProduct h => some h
  | .chainProduct h => some h | .attnWindowFwd h => some h | .attnWindowBwd h => some h | .attnGlobalFwd h => some h
  | .attnGlobalBwd h => some h | .rmsnormFwd h => some h | .rmsnormBwd h => some h | .layernormFwd h => some h
  | .layernormBwd h => some h | .softmaxFwd h => some h | .softmaxBwd h => some h | .quant h => some h | .dequant h => some h
  | .transcode h => some h | .rowReduce h => some h | .layoutReduce h => some h | .tensorNorm2 h => some h
  | .sparseProductRoutine h => some h | .selfCheck h _ _ => some h | .libInfo h => some h
  | _ => none

/-- The engine queue a command goes to; none for a command its thread runs. -/
def placeOf : Instr → Option Place
  | .product _ _ => some .matrix
  | .sparseProduct _ _ => some .sparse | .sparseEncode _ _ => some .sparse | .sparseCheck _ _ => some .sparse
  | .sparseSlotSetup _ _ => some .sparse
  | .vadd _ _ => some .vector | .vsub _ _ => some .vector | .vmul _ _ => some .vector | .vfma _ _ => some .vector
  | .vmin _ _ => some .vector | .vmax _ _ => some .vector | .vabs _ _ => some .vector | .vneg _ _ => some .vector
  | .vsel _ _ => some .vector | .vcmp _ _ => some .vector | .vexp2 _ _ => some .vector | .vlog2 _ _ => some .vector
  | .vrsqrt _ _ => some .vector | .vrecip _ _ => some .vector | .vtanh _ _ => some .vector | .vred _ _ => some .vector
  | .cvt _ _ => some .vector | .vectorSlotSetup _ _ => some .vector
  | .descLoad _ d _ => some (.stream d) | .admitStream _ d _ => some (.stream d) | .nextUnit _ d => some (.stream d)
  | .run _ d => some (.stream d) | .retire _ d => some (.stream d) | .streamSlotSetup _ _ => some (.stream 0)
  | .gradEmit _ _ => some (.stream 0)
  | _ => none

/-- The first command that stands unstarted at an engine place, if nothing of its queue holds it back, and its index among those held. -/
def placeHead (c : Core) (p : Place) : Option (Instr × Nat) :=
  match c.held.findIdx? (fun x => x.1 = p) with
  | none => none
  | some i => match c.held[i]? with
    | some x => if atHead (c.held.take i) p x.2 then some (x.2, i) else none
    | none => none

/-- The command that a thread holds at its head, and its queue. -/
def threadHead (s : State) (site t : Nat) : Option (Instr × Nat) :=
  let th := threadAt s site t
  if th.waits ≠ .token ∧ th.waits ≠ .lock then none
  else match th.held, th.attached with
    | some i, some q => some (i, q)
    | _, _ => none

/-- The command at the head of a place. -/
def headOf (s : State) (site : Nat) : Place → Option Instr
  | .thread t => (threadHead s site t.toNat).map (fun x => x.1)
  | p => (placeHead (coreAt s site) p).map (fun x => x.1)

/-- The places of a core in the order in which waits on one token are served (R93): matrix, vector, stream by descriptor, sparse, threads. -/
def servingOrder : List Place :=
  [.matrix, .vector] ++ (List.range 64).map (fun d => .stream (BitVec.ofNat 6 d)) ++ [.sparse] ++
    (List.range 16).map (fun t => .thread (BitVec.ofNat 4 t))

/-- Whether a command tests its token at its place: an engine's command held at a thread waits for its fence alone. -/
def testsToken (p : Place) (i : Instr) : Bool := match p with | .thread _ => (placeOf i).isNone | _ => true

/-- The wait of the head of a place, when nothing else holds that command back. -/
def headWait (s : State) (site : Nat) (p : Place) : Option Hdr :=
  match headOf s site p with
  | none => none
  | some i => match nativeHdr i with
    | none => none
    | some h =>
      match p with
      | .thread _ => if (h.fence && !fenceMet s h.queue.toNat) || !testsToken p i then none else some h
      | _ => some h

/-- What is left of a token for a place once the waits served before it have taken theirs (R93). -/
def tokenLeft (s : State) (site : Nat) (p : Place) (token : Byte) : Nat :=
  (servingOrder.takeWhile (fun x => x ≠ p)).foldl (fun n x => match headWait s site x with
    | some h => if h.waitTok = token ∧ h.waitCnt.toNat ≤ n then n - h.waitCnt.toNat else n
    | none => n) (tokenOf (coreAt s site) token.toNat).toNat

/-- Whether the wait of a command at the head of a place is met and this place is served. -/
def served (s : State) (site : Nat) (p : Place) (h : Hdr) : Bool := h.waitCnt = 0 || decide (h.waitCnt.toNat ≤ tokenLeft s site p h.waitTok)

/-! ### Commands a thread runs itself -/

/-- The meaning of a started command. -/
abbrev Body := Hdr → State → Issue → State × Ran

/-- Whether a command is a routine that moves data through streams, and so takes the core's routine-descriptor lock (R202). -/
def takesLock : Instr → Bool
  | .chainProduct _ => true | .attnWindowFwd _ => true | .attnWindowBwd _ => true | .attnGlobalFwd _ => true | .attnGlobalBwd _ => true
  | .rmsnormFwd _ => true | .rmsnormBwd _ => true | .layernormFwd _ => true | .layernormBwd _ => true | .softmaxFwd _ => true
  | .softmaxBwd _ => true | .tensorNorm2 _ => true
  | _ => false

/-- A thread holds a command whose wait or fence is not met (R93, R159), whose data is not there, or which waits for the lock of R202. -/
def holdAtThread (s : State) (u : Issue) (i : Instr) : State :=
  let lock := takesLock i && (match (coreAt s u.site).lock with | some t => t ≠ u.t | none => false)
  modThread s u.site u.t (fun th => { th with waits := if lock then .lock else .token, held := some i })

/-- The lines that a command which could not start asked of the host stay asked (R411). -/
def askAgain (s t : State) : State := (t.hdm.asked.filter (fun x => !s.hdm.asked.contains x)).foldl (fun s x => snoopLine s x.1 x.2) s

/-- A thread's command starts: the wait is taken, the body runs, and the command retires at once unless it goes on. -/
def startThread (i : Instr) (body : Body) (h : Hdr) (s : State) (u : Issue) : State :=
  match body h (traceRec (takeToken s u.site h) u h 0) u with
  | (s, .done) => goOn (retireCmd s u h 0x11) u
  | (s, .jumped) => goOnJumped (retireCmd s u h 0x11) u
  | (s, .waiting) => s
  | (s, .halted) => s
  | (t, .blocked _) => holdAtThread (askAgain s t) u i

/-- A command that the issuing thread runs (R158): fetched, then started or held. -/
def threadCmd (i : Instr) (h : Hdr) (absent : Bool) (body : Body) (s : State) : State :=
  match fetchRow i h absent s with
  | .inl s => s
  | .inr (s, u) =>
    if h.engine ≠ 0 then haltCmd s u h 0x0113 0x11
    else if (h.fence && !fenceMet s u.q) || !served s u.site (.thread (BitVec.ofNat 4 u.t)) h then holdAtThread s u i
    else startThread i body h s u

/-! ### Commands of the engine queues -/

/-- A command starts on its engine: the wait is taken and its whole effect happens; it retires later (R93, log entry 23). None
where it cannot start yet. -/
def startEngine (p : Place) (body : Body) (h : Hdr) (s : State) (u : Issue) : Option State :=
  match body h (traceRec (takeToken s u.site h) u h 0) u with
  | (s, .halted) => some s
  | (s, .waiting) => some s
  | (_, .blocked _) => none
  | (s, _) => some (modCore s u.site (fun c => { c with started := c.started ++ [(p, h)] }))

/-- Whether the issuing thread stalls until the command's outcome is in its scalar register (R242, R302). -/
def stallsThread : Instr → Bool
  | .sparseCheck _ _ => true
  | .admitStream _ _ _ => true
  | _ => false

/-- A command stands in its engine queue, not started; a thread that needs its outcome stalls. u issued it, and it acts where a says. -/
def standInQueue (i : Instr) (p : Place) (s : State) (u a : Issue) : State :=
  let s := modCore s a.site (fun c => { c with held := c.held ++ [(p, i)] })
  if stallsThread i then modThread s u.site u.t (fun th => { th with waits := .outcome }) else goOn s u

/-- A command enters its engine queue, and starts if nothing holds it back (R91 to R93). -/
def enterQueue (i : Instr) (p : Place) (body : Body) (h : Hdr) (s : State) (u : Issue) : State :=
  let a := actOn s u h
  if atHead (coreAt s a.site).held p i && served s a.site p h then
    (match startEngine p body h s a with
     | some s => goOn s u
     | none => standInQueue i p s u a)
  else standInQueue i p s u a

/-- A command passed to an engine queue (R91, R158): refused for a wrong engine, held for a fence or a full queue, or entered. -/
def engineCmd (i : Instr) (h : Hdr) (absent : Bool) (p : Place) (engine : Byte) (body : Body) (s : State) : State :=
  match fetchRow i h absent s with
  | .inl s => s
  | .inr (s, u) =>
    if h.engine ≠ engine then haltCmd s u h 0x0113 0x11
    else if h.fence && !fenceMet s u.q then holdAtThread s u i
    else if placeDepth p ≤ placeLoad (coreAt s (actOn s u h).site) p then
      modThread s u.site u.t (fun th => { th with waits := .queueFull, held := some i })
    else enterQueue i p body h s u

/-- A thread that waits on a full engine queue passes its command in, if an entry is free (R91). -/
def admitThread (s : State) (site t : Nat) : State :=
  let th := threadAt s site t
  match th.waits, th.held, th.attached with
  | .queueFull, some i, some q =>
    match placeOf i, nativeHdr i, issueBase s q with
    | some p, some h, some u =>
      let a := actOn s u h
      if placeDepth p ≤ placeLoad (coreAt s a.site) p then s
      else standInQueue i p (modThread s site t (fun th => { th with waits := .none, held := none })) u a
    | _, _, _ => s
  | _, _, _ => s

/-- Whether a thread waits on the full engine queue of a place of the core at a site. -/
def waitsOn (s : State) (site : Nat) (p : Place) (home t : Nat) : Bool :=
  let th := threadAt s home t
  th.waits = .queueFull && (match th.held with
    | some i => (match placeOf i, nativeHdr i, th.attached.bind (issueBase s) with
      | some b, some h, some u => sameQueue p b && decide ((actOn s u h).site = site)
      | _, _, _ => false)
    | none => false)

/-- One thread that waits on a full engine queue passes its command in once an entry frees: of the core's own threads the first after
the one that issued last, in round-robin order (R90, R91), before those of other cores. -/
def admitStalled (s : State) (site : Nat) (p : Place) : State :=
  let order := fun (home : Nat) => (List.range 16).map (fun i => (home, ((coreAt s home).lastIssue + 1 + i) % 16))
  let others := (s.cores.map (·.1)).filter (fun k => k ≠ site)
  match (order site ++ (others.map order).flatten).find? (fun x => waitsOn s site p x.1 x.2) with
  | none => s
  | some x => admitThread s x.1 x.2

end Sys2Proof.Machine
end

