-- ==== Sys2Proof/Machine/Scalar.lean ====
section
/-!
DEFINITION. Scalar.lean: the scalar class (R165, R570) and the narrow view of the scratchpad (R257, R278, R316).
-/
namespace Sys2Proof.Machine

/-- Writes a scalar register of the issuing thread. -/
def writeReg (s : State) (u : Issue) (i : Nat) (v : Dword) : State := modThread s u.site u.t (fun th => setReg th i v)

/-- An engine command's outcome in the issuing thread's register (R242, R302). -/
def writeOutcome (s : State) (u : Issue) (i : Nat) (v : Dword) : State := writeReg s { u with site := u.home } i v

/-- A command that writes DST with a function of its two sources. -/
def aluBody (f : Dword → Dword → Dword) (o : ScalarOps) : Body := fun _ s u =>
  let th := threadAt s u.site u.t
  (writeReg s u o.dst.toNat (f (sourceA th o.srcA) (sourceB th o.srcB o.imm)), .done)

/-- FP32 on bits 31 to 0, the result zero-extended. -/
def low32 (f : F32 → F32 → F32) (a b : Dword) : Dword := (f (a.setWidth 32) (b.setWidth 32)).setWidth 64

/-- MOV copies source B, the source that can be an immediate (log entry 25). -/
def movBody (o : ScalarOps) : Body := aluBody (fun _ b => b) o
def addBody (o : ScalarOps) : Body := aluBody (fun a b => a + b) o
def subBody (o : ScalarOps) : Body := aluBody (fun a b => a - b) o
def mulBody (o : ScalarOps) : Body := aluBody (fun a b => a * b) o
def andBody (o : ScalarOps) : Body := aluBody (fun a b => a &&& b) o
def orBody (o : ScalarOps) : Body := aluBody (fun a b => a ||| b) o
def xorBody (o : ScalarOps) : Body := aluBody (fun a b => a ^^^ b) o
/-- Shifts use bits 5 to 0 of B. -/
def shlBody (o : ScalarOps) : Body := aluBody (fun a b => a <<< (b.toNat % 64)) o
def shrBody (o : ScalarOps) : Body := aluBody (fun a b => a >>> (b.toNat % 64)) o
def sraBody (o : ScalarOps) : Body := aluBody (fun a b => a.sshiftRight (b.toNat % 64)) o
def faddBody (o : ScalarOps) : Body := aluBody (low32 add32) o
def fmulBody (o : ScalarOps) : Body := aluBody (low32 mul32) o

/-- SET: 1 or 0 by a compare of the 64-bit operands (R570); an unlisted COND is BAD_OPERAND (log entry 26). -/
def setBody (o : ScalarOps) : Body := fun h s u =>
  let th := threadAt s u.site u.t
  match condScalar o.cond (sourceA th o.srcA) (sourceB th o.srcB o.imm) with
  | none => refused s u h 0x0114 0x11
  | some c => (writeReg s u o.dst.toNat (BitVec.ofNat 64 (boolNat c)), .done)

/-- FSET's compare: the values of bits 31 to 0 as FP32; LTU and GEU, which compare no FP32 value, compare the bits (log entry 26). -/
def condFset (cond : Byte) (a b : F32) : Option Bool :=
  match cond.toNat with
  | 0 => some (fge32 a b && fge32 b a)
  | 1 => some (!(fge32 a b && fge32 b a))
  | 2 => some (flt32 a b)
  | 3 => some (fge32 a b)
  | 4 => some (a.ult b)
  | 5 => some (!a.ult b)
  | 6 => some (flt32 a b)
  | 7 => some (fge32 a b)
  | 8 => some true
  | _ => none

/-- FSET: 1 or 0 by an FP32 compare. -/
def fsetBody (o : ScalarOps) : Body := fun h s u =>
  let th := threadAt s u.site u.t
  match condFset o.cond ((sourceA th o.srcA).setWidth 32) ((sourceB th o.srcB o.imm).setWidth 32) with
  | none => refused s u h 0x0114 0x11
  | some c => (writeReg s u o.dst.toNat (BitVec.ofNat 64 (boolNat c)), .done)

/-- SP_BASE and SP_ROWS of a context. -/
def spBase (s : State) (c : Nat) : Nat := match ctxAt s c with | some x => x.spBase | none => 0
def spRows (s : State) (c : Nat) : Nat := match ctxAt s c with | some x => x.spRows | none => 0

/-- The fault of a narrow access at a byte address of the region (R257, R316). -/
def narrowFault (s : State) (u : Issue) (a : Nat) : Option Nat :=
  if a % 8 ≠ 0 then some 0x0114 else if spRows s u.ctx ≤ a / 128 then some 0x0308 else none

/-- The byte key of a narrow access. -/
def narrowKey (s : State) (u : Issue) (a : Nat) : Nat := rowKey u.site (spBase s u.ctx) + a

/-- LOAD: one 8-byte word through the narrow view (R316); a stained word is consumed (R278). It waits where the narrow view has no slot (R319). -/
def loadBody (o : ScalarOps) : Body := fun h s u =>
  match narrowFault s u o.imm.toNat with
  | some code => refused s u h code 0x11
  | none =>
    if !spServed s u.site 5 then (s, .blocked false)
    else if rowsStained s u.site (spBase s u.ctx + o.imm.toNat / 128) 1 then (consumeStain s (cmdReport u h 0x0303 4 0x11 0), .halted)
    else (writeReg s u o.dst.toNat (BitVec.ofNat 64 (leNat (memBytes s.store.scratch (narrowKey s u o.imm.toNat) 8))), .done)

/-- STORE: the word of source A (log entry 25). -/
def storeBody (o : ScalarOps) : Body := fun h s u =>
  match narrowFault s u o.imm.toNat with
  | some code => refused s u h code 0x11
  | none =>
    if !spServed s u.site 5 then (s, .blocked false)
    else (scratchSplice s (narrowKey s u o.imm.toNat) 8 (memOf (leBytes 8 (sourceA (threadAt s u.site u.t) o.srcA).toNat)) false, .done)

abbrev Answer := Host.Outcome State Fault Refusal

def execMov (h : Hdr) (o : ScalarOps) (s : State) : Answer := .next (threadCmd (.mov h o) h false (movBody o) s)
def execAdd (h : Hdr) (o : ScalarOps) (s : State) : Answer := .next (threadCmd (.add h o) h false (addBody o) s)
def execSub (h : Hdr) (o : ScalarOps) (s : State) : Answer := .next (threadCmd (.sub h o) h false (subBody o) s)
def execMul (h : Hdr) (o : ScalarOps) (s : State) : Answer := .next (threadCmd (.mul h o) h false (mulBody o) s)
def execBitAnd (h : Hdr) (o : ScalarOps) (s : State) : Answer := .next (threadCmd (.bitAnd h o) h false (andBody o) s)
def execBitOr (h : Hdr) (o : ScalarOps) (s : State) : Answer := .next (threadCmd (.bitOr h o) h false (orBody o) s)
def execBitXor (h : Hdr) (o : ScalarOps) (s : State) : Answer := .next (threadCmd (.bitXor h o) h false (xorBody o) s)
def execShl (h : Hdr) (o : ScalarOps) (s : State) : Answer := .next (threadCmd (.shl h o) h false (shlBody o) s)
def execShr (h : Hdr) (o : ScalarOps) (s : State) : Answer := .next (threadCmd (.shr h o) h false (shrBody o) s)
def execSra (h : Hdr) (o : ScalarOps) (s : State) : Answer := .next (threadCmd (.sra h o) h false (sraBody o) s)
def execSetCond (h : Hdr) (o : ScalarOps) (s : State) : Answer := .next (threadCmd (.setCond h o) h false (setBody o) s)
def execFadd (h : Hdr) (o : ScalarOps) (s : State) : Answer := .next (threadCmd (.fadd h o) h false (faddBody o) s)
def execFmul (h : Hdr) (o : ScalarOps) (s : State) : Answer := .next (threadCmd (.fmul h o) h false (fmulBody o) s)
def execFset (h : Hdr) (o : ScalarOps) (s : State) : Answer := .next (threadCmd (.fset h o) h false (fsetBody o) s)
def execScalarLoad (h : Hdr) (o : ScalarOps) (s : State) : Answer := .next (threadCmd (.scalarLoad h o) h false (loadBody o) s)
def execScalarStore (h : Hdr) (o : ScalarOps) (s : State) : Answer := .next (threadCmd (.scalarStore h o) h false (storeBody o) s)

end Sys2Proof.Machine
end

