-- ==== Sys2Proof/Machine/Reduce.lean ====
section
/-!
DEFINITION. Reduce.lean: row reductions (R87), tensor reductions (R175), the fixed tree over logical cores (R127, R333), and the
meeting of the cores of a layout in a collective operation (R176, R191, R204, R339).
-/
namespace Sys2Proof.Machine

/-- A row reduction: 0 sum, 1 sum of squares, 2 max, 3 amax (R163, R87). -/
structure RowOp where
  pre : F32 → F32
  op : F32 → F32 → F32
  ident : F32

def rowOp (k : Nat) : RowOp :=
  match k with
  | 0 => ⟨fun x => quiet32 x, add32, 0⟩
  | 1 => ⟨fun x => mul32 x x, add32, 0⟩
  | 2 => ⟨fun x => quiet32 x, max32, 0xFF800000⟩
  | _ => ⟨abs32, max32, 0⟩

/-- One segment of 1,024 elements, padded with the identity, by the ten-level tree. -/
def segmentReduce (r : RowOp) (xs : List F32) : F32 :=
  treeFold r.op r.ident 10 ((xs.map r.pre) ++ List.replicate (1024 - xs.length) r.ident)

/-- The segments of a row, combined in ascending order. -/
def rowReduceFuel (r : RowOp) : Nat → F32 → List F32 → F32
  | 0, acc, _ => acc
  | n + 1, acc, xs => if xs = [] then acc else rowReduceFuel r n (r.op acc (segmentReduce r (xs.take 1024))) (xs.drop 1024)

/-- The reduction of one row (R87). -/
def rowReduce (k : Nat) (xs : List F32) : F32 :=
  let r := rowOp k
  rowReduceFuel r (xs.length / 1024 + 1) (segmentReduce r (xs.take 1024)) (xs.drop 1024)

/-- Row i of a grid of cols columns. -/
def gridRow (vals : Tab F32) (cols i : Nat) : List F32 :=
  let mine := vals.filter (fun v => v.1 / cols = i)
  (List.range cols).map (fun c => tGet 0 mine (i * cols + c))

/-- RED_OP of R174 over a grid: rows by R87, row results in ascending row order (R175); 0 sum, 1 amax, 2 count of non-finite
elements, 3 max. -/
def gridReduce (op rows cols : Nat) (vals : Tab F32) : F32 :=
  if op = 2 then nat32 (vals.filter (fun v => nonfinite32 v.2)).length
  else
    let k := if op = 0 then 0 else if op = 1 then 3 else 2
    let f := (rowOp k).op
    let one := fun (i : Nat) => if vals.any (fun v => v.1 / cols = i) then rowReduce k (gridRow vals cols i) else 0
    ((List.range rows).map one).tail.foldl f (one 0)

/-- Whether a row of a tile register (index below 16) or an accumulator (16 to 19) is stained. -/
def regStained (c : Core) (i rows : Nat) : Bool := c.stainRows.any (fun k => k / 1024 = i ∧ k % 1024 < rows)

/-- The stain of a written register: none (R277), or the given rows. -/
def setRegStain (c : Core) (i : Nat) (rows : List Nat) : Core :=
  { c with stainRows := c.stainRows.filter (fun k => k / 1024 ≠ i) ++ rows.map (fun r => i * 1024 + r) }

/-! ### Collective operations -/

/-- The header of a command that meets other cores. -/
def collectiveHdr : Instr → Option Hdr
  | .barrier h => some h
  | .scalarReduce h _ _ _ => some h
  | .branchTensor h _ => some h
  | .attnWindowFwd h => some h | .attnWindowBwd h => some h | .attnGlobalFwd h => some h | .attnGlobalBwd h => some h
  | .layoutReduce h => some h
  | _ => none

/-- Whether an arrival belongs to one meeting: of a barrier any of the core's threads (R191), of the other operations the thread of the same
number (R176, R204; for BRANCH_TENSOR, whose rule names no thread, DESIGN CHOICE, log entry 123). Cores whose commands carry different OP or
RED_OP values never meet, and each waits on: DESIGN CHOICE, log entry 123. -/
def sameMeeting (kind ctx thread op : Nat) (a : Arrival) : Bool :=
  a.kind = kind && a.ctx = ctx && (kind = 0 || a.thread = thread) && a.op = op

/-- The arrivals of a meeting in ascending logical core, once every core of the layout has arrived. -/
def meeting (s : State) (kind ctx thread op : Nat) : Option (List Arrival) :=
  let w := layoutWidth s ctx
  let got := (List.range w).filterMap (fun k => s.mesh.arrivals.find? (fun a => sameMeeting kind ctx thread op a && a.core = k))
  if 0 < w ∧ got.length = w then some got else none

/-- A core arrives; its thread waits for the others. -/
def arrive (s : State) (u : Issue) (kind op : Nat) (value : Dword) (i : Instr) : State :=
  let s := modThread s u.site u.t (fun th => { th with waits := .collective, held := some i })
  { s with mesh := { s.mesh with arrivals := s.mesh.arrivals ++
      [{ kind := kind, ctx := u.ctx, thread := u.t, core := u.core, queue := u.q, op := op, value := value, refused := none, instr := i }] } }

/-- How a core's arrival fares on its way to the root (R339). -/
def toRoot (s : State) (site : Nat) : RouteEnd := match barrierRoot s with | none => .arrives | some r => routeEnd s r 160 site

/-- An arrival sent to the root: it arrives, waits while a link on its way retrains, or is dropped where the route ends. A dropped one gives its
core the completion of R331 and reaches no meeting: the core waits on (R95; log entry 152). -/
def viaRoot (s : State) (u : Issue) (h : Hdr) (i : Instr) (arrived : State × Ran) : State × Ran :=
  match toRoot s u.site with
  | .arrives => arrived
  | .waits => (s, .blocked false)
  | .dropped r => (modThread (undelivered s u h r 0x11) u.site u.t (fun th => { th with waits := .collective, held := some i }), .waiting)

/-- Takes a meeting's arrivals out; later ones of the same cores wait for the next meeting. -/
def clearMeeting (s : State) (as : List Arrival) : State :=
  { s with mesh := { s.mesh with arrivals := s.mesh.arrivals.filter (fun a => !as.contains a) } }

/-- One core's part of a meeting ends: f gives its effect; a thread that still waits for it goes on (R194 where its queue has
halted). -/
def resumeOne (f : State → Issue → Hdr → State × Ran) (s : State) (a : Arrival) : State :=
  match issueBase s a.queue, collectiveHdr a.instr with
  | some u, some h =>
    let th := threadAt s u.site u.t
    let waiting := th.waits = .collective ∧ th.held = some a.instr ∧ th.attached = some u.q
    let s := if waiting then modThread s u.site u.t (fun th => { th with waits := .none, held := none }) else s
    match f s u h with
    | (s, .done) => let s := retireCmd s u h 0x11; if waiting then goOn s u else s
    | (s, .jumped) => let s := retireCmd s u h 0x11; if waiting then goOnJumped s u else s
    | (s, _) => s
  | _, _ => s

/-- A meeting ends on every core. -/
def endMeeting (s : State) (as : List Arrival) (f : State → Issue → Hdr → State × Ran) : State :=
  as.foldl (resumeOne f) (clearMeeting s as)

/-- OP of SCALAR_REDUCE: integer sum, max and min (signed; log entry 27), FP32 sum and max (R176, R333). -/
def reduceOp (op : Nat) (a b : Dword) : Dword :=
  match op with
  | 0 => a + b
  | 1 => if a.slt b then b else a
  | 2 => if b.slt a then b else a
  | 3 => low32 add32 a b
  | _ => low32 max32 a b

/-- SCALAR_REDUCE: the core arrives at the root (R339); with the last one every core's register takes the tree's value (R176). A register above S31 is
refused (R13). -/
def scalarReduceBody (dst src op : Byte) (i : Instr) : Body := fun h s u =>
  if 4 < op.toNat ∨ 31 < dst.toNat ∨ 31 < src.toNat then refused s u h 0x0114 0x11
  else viaRoot s u h i (
    let s := arrive s u 1 op.toNat (regOf (threadAt s u.site u.t) src.toNat) i
    match meeting s 1 u.ctx u.t op.toNat with
    | none => (s, .waiting)
    | some as =>
      let v := treeFold (reduceOp op.toNat) 0 7 (as.map (·.value))
      (endMeeting s as (fun s w _ =>
        (writeReg s w (match as.find? (fun a => a.core = w.core) with
          | some a => (match a.instr with | .scalarReduce _ d _ _ => d.toNat | _ => dst.toNat)
          | none => dst.toNat) v, .done)), .waiting))

end Sys2Proof.Machine
end

