-- ==== Sys2Proof/Machine/Control.lean ====
section
/-!
DEFINITION. Control.lean: the sync, call, loop and branch classes (R167 to R180, R189, R191), but LAYER and STEP_BEGIN.
-/
namespace Sys2Proof.Machine

/-- WAIT carries only its sync block (R191). -/
def waitBody : Body := fun _ s _ => (s, .done)

/-- YIELD: the thread leaves its queue for the next ready one (R189). -/
def yieldBody : Body := fun h s u =>
  let s := retireCmd s u h 0x11
  if (threadAt s u.site u.t).attached ≠ some u.q then (s, .halted)
  else
    let s := loopTurn s u 5
    let s := leaveQueue s u.q u.site u.t
    let s := modQueue s u.q (fun e => { e with state := idleOrReady e })
    (attachNext s u.core u.site u.t u.q, .waiting)

/-- BARRIER: the core arrives at the root and waits for the release (R191, R339). -/
def barrierBody (i : Instr) : Body := fun h s u => viaRoot s u h i (arrive s u 0 0 0 i, .waiting)

/-- Jumps to a position, ending at the thread's call level every loop whose body does not hold it, and every loop inside such
a loop or of a deeper level (R172). -/
def jumpTo (s : State) (u : Issue) (target : Int) : State :=
  let p := wrapPos s u target
  let inBody := fun (l : Loop) => wrapPos s u ((p : Int) - l.start - 1) < l.body ∧ ((threadAt s u.site u.t).code.isNone ∨ l.start < p)
  let s := modThread s u.site u.t (fun th => { th with
    loops := th.loops.takeWhile (fun l => l.level < th.rets.length ∨ (l.level = th.rets.length ∧ inBody l)) })
  setPos s u target

/-- The position of the command itself: the fetch has passed it. -/
def ownPos (s : State) (u : Issue) : Int := (curPos s u : Nat) - 1

/-- CALL: pushes the return point and jumps (R177, R178). A call ends no loop (R172). -/
def callBody (offset : Word) : Body := fun h s u =>
  let th := threadAt s u.site u.t
  if 8 ≤ th.rets.length then refused s u h 0x0112 0x11
  else
    let target := ownPos s u + offset.toInt
    let back : Ret := { pc := curPos s u, code := th.code, isEnter := false }
    (setPos (modThread s u.site u.t (fun th => { th with rets := th.rets ++ [back] })) u target, .jumped)

/-- Ends the loops of call levels that no longer stand. -/
def dropLoops (s : State) (u : Issue) : State :=
  modThread s u.site u.t (fun th => { th with loops := th.loops.takeWhile (fun l => l.level ≤ th.rets.length) })

/-- RETURN to the last return point; an empty stack is CALL_DEPTH (R178). DESIGN CHOICE (log entry 154): so is a stack whose top an ENTER
pushed, since the code object entered ends by its own last command. A call that ends a loop's body completes it on return (log entry 28). -/
def returnBody : Body := fun h s u =>
  let th := threadAt s u.site u.t
  match th.rets.getLast? with
  | none => refused s u h 0x0112 0x11
  | some r =>
    if r.isEnter then refused s u h 0x0112 0x11
    else (setPos (dropLoops (modThread s u.site u.t (fun th => { th with rets := th.rets.dropLast })) u) u (r.pc : Nat), .done)

/-- The first position of an entry function of a code object: positions are the model's own (log entry 15). -/
def entryPos (entry : Nat) : Nat := entry * 2 ^ 32

/-- ENTER: starts a code object of the context at an entry function; ENTRY that names no function, or an internal one, which runs only when
called (R135), is BAD_OPERAND like a foreign handle (R177, R180; log entry 130). -/
def enterBody (entry : Word) (handle : Dword) : Body := fun h s u =>
  let th := threadAt s u.site u.t
  let ours := match ctxAt s u.ctx with
    | some x => (match x.loaded with | some l => l.handle = handle | none => false)
    | none => false
  let isEntry := match (ctxAt s u.ctx).bind Ctx.loaded with
    | some l => (match l.entries[entry.toNat]? with | some f => f.2.2 = 0 | none => false)
    | none => false
  if !ours || !isEntry then refused s u h 0x0114 0x11
  else if 8 ≤ th.rets.length then refused s u h 0x0112 0x11
  else
    let back : Ret := { pc := curPos s u, code := th.code, isEnter := true }
    (modThread s u.site u.t (fun th => { th with rets := th.rets ++ [back], code := some handle, pc := entryPos entry.toNat }), .jumped)

/-- The return from a code object (R177): the thread goes on where its ENTER stood. -/
def leaveCode (s : State) (u : Issue) (r : Ret) : State :=
  let s := modThread s u.site u.t (fun th => { th with rets := th.rets.dropLast, code := r.code })
  let s := dropLoops s u
  if r.code.isSome then modThread s u.site u.t (fun th => { th with pc := r.pc }) else s

/-- LOOP: latches the count; zero skips the body, a fifth loop is LOOP_DEPTH (R167 to R170). -/
def loopBody (o : LoopOps) : Body := fun h s u =>
  let th := threadAt s u.site u.t
  let count := if bitOf o.countSrc.toNat 7 then o.countImm.toNat else (regOf th (o.countSrc.toNat % 32)).toNat % 2 ^ 32
  -- BODY 0, outside its range of 1 to 65,535, is refused: DESIGN CHOICE, log entry 124
  if o.body = 0 then refused s u h 0x0114 0x11
  else if count = 0 then (setPos s u ((curPos s u : Nat) + o.body.toNat), .done)
  else if 4 ≤ th.loops.length then refused s u h 0x0110 0x11
  else
    let l : Loop := { start := wrapPos s u (ownPos s u), body := o.body.toNat, count := count, index := 0, level := th.rets.length }
    (modThread s u.site u.t (fun th => { th with loops := th.loops ++ [l] }), .jumped)

/-- A branch taken or not (R173). -/
def branchDecide (s : State) (u : Issue) (taken : Bool) (offset : Word) : State × Ran :=
  if taken then (jumpTo s u (ownPos s u + offset.toInt), .jumped) else (s, .done)

/-- BRANCH_SCALAR (R173). -/
def branchScalarBody (o : ScalarOps) (offset : Word) : Body := fun h s u =>
  let th := threadAt s u.site u.t
  match condScalar o.cond (sourceA th o.srcA) (sourceB th o.srcB o.imm) with
  | none => refused s u h 0x0114 0x11
  | some c => branchDecide s u c offset

/-- The reduced operand of BRANCH_TENSOR: register number for its stain, rows, columns and values. -/
def tensorOperand (c : Core) (w : Word) : Option (Nat × Nat × Nat × Tab F32) :=
  match specKind w with
  | 1 => let t := tileAt c (specTile w); some (specTile w, (shapeD t.format).rows, (shapeD t.format).cols, tileVals t)
  | 2 => some (16 + specAcc w, 1024, 1024, accAt c (specAcc w))
  | _ => none

/-- BRANCH_TENSOR's end on one core: the value is written, compared and the branch taken or not (R174). -/
def branchTensorEnd (o : BranchTensorOps) (v : F32) (s : State) (u : Issue) : State × Ran :=
  let s := writeReg s u o.reg.toNat (v.setWidth 64)
  let b := if bitOf o.srcB.toNat 6 then (o.imm.setWidth 32).setWidth 64 else sourceB (threadAt s u.site u.t) o.srcB o.imm
  match condScalar o.cond (v.setWidth 64) b with
  | none => (s, .done)
  | some c => branchDecide s u c o.offset

/-- How core results combine: sums and counts add, amax and max take the larger (R175). -/
def coreOp (op : Nat) : F32 → F32 → F32 := if op = 0 ∨ op = 2 then add32 else max32

/-- BRANCH_TENSOR (R174, R175). -/
def branchTensorBody (o : BranchTensorOps) (i : Instr) : Body := fun h s u =>
  match tensorOperand (coreAt s u.site) o.spec with
  | none => refused s u h 0x0114 0x11
  | some (reg, rows, cols, vals) =>
    if 3 < o.redOp.toNat ∨ 1 < o.scope.toNat ∨ 31 < o.reg.toNat ∨ !condKnown o.cond then refused s u h 0x0114 0x11
    else if regStained (coreAt s u.site) reg rows then (consumeStain s (cmdReport u h 0x0303 4 0x11 0), .halted)
    else
      let v := gridReduce o.redOp.toNat rows cols vals
      if o.scope = 0 then branchTensorEnd o v s u
      else viaRoot s u h i (
        let s := arrive s u 2 o.redOp.toNat (v.setWidth 64) i
        match meeting s 2 u.ctx u.t o.redOp.toNat with
        | none => (s, .waiting)
        | some as =>
          let v := treeFold (coreOp o.redOp.toNat) 0 7 (as.map (fun a => a.value.setWidth 32))
          (endMeeting s as (fun s w _ =>
            branchTensorEnd (match as.find? (fun a => a.core = w.core) with
              | some a => (match a.instr with | .branchTensor _ p => p | _ => o)
              | none => o) v s w), .waiting))

def execWait (h : Hdr) (s : State) : Answer := .next (threadCmd (.wait h) h false waitBody s)
def execYieldQueue (h : Hdr) (s : State) : Answer := .next (threadCmd (.yieldQueue h) h false yieldBody s)
def execBarrier (h : Hdr) (s : State) : Answer := .next (threadCmd (.barrier h) h false (barrierBody (.barrier h)) s)
def execCall (h : Hdr) (offset : Word) (s : State) : Answer := .next (threadCmd (.call h offset) h false (callBody offset) s)
def execReturnCmd (h : Hdr) (s : State) : Answer := .next (threadCmd (.returnCmd h) h false returnBody s)
def execEnter (h : Hdr) (entry : Word) (handle : Dword) (s : State) : Answer :=
  .next (threadCmd (.enter h entry handle) h false (enterBody entry handle) s)
def execLoop (h : Hdr) (o : LoopOps) (s : State) : Answer := .next (threadCmd (.loop h o) h false (loopBody o) s)
def execBranchScalar (h : Hdr) (o : ScalarOps) (offset : Word) (s : State) : Answer :=
  .next (threadCmd (.branchScalar h o offset) h false (branchScalarBody o offset) s)
def execBranchTensor (h : Hdr) (o : BranchTensorOps) (s : State) : Answer :=
  .next (threadCmd (.branchTensor h o) h false (branchTensorBody o (.branchTensor h o)) s)
def execScalarReduce (h : Hdr) (dst src op : Byte) (s : State) : Answer :=
  .next (threadCmd (.scalarReduce h dst src op) h false (scalarReduceBody dst src op (.scalarReduce h dst src op)) s)

/-- BARRIER_RELEASE: with every core's arrival at the root, the root releases every core (R191, R339); with one missing, nothing
happens. The arrivals are those of the cores' oldest barriers, whichever thread issued them: the row's thread plays no part. -/
def execBarrierRelease (ctx : BitVec 6) (_thread : BitVec 4) (s : State) : Answer :=
  .next (match meeting s 0 ctx.toNat 0 0 with
    | none => s
    | some as => endMeeting s as (fun s _ _ => (s, .done)))

end Sys2Proof.Machine
end

