-- ==== Sys2Proof/Machine/Starch.lean ====
section
/-!
DEFINITION. Starch.lean: scale slots and conversions through them (R99 to R112, R566), the core's non-finite count (R117) and slot
setup (R164).
-/
namespace Sys2Proof.Machine

/-- P_e of a target (R104). -/
def targetExp (t : Nat) : Int := match t with | 0 => 11 | 1 => 9 | 2 => 8 | _ => 15

/-- c(v) of R105: the smallest integer c with 2^c at least a positive fraction. -/
def ceilLog2 (v : Nat × Nat) : Int :=
  let k := floorLog2 v.1 v.2
  let p := scaleTwo 1 k
  if v.1 * p.2 = p.1 * v.2 then k else k + 1

/-- x clamped to the range of R105. -/
def clampExp (x : Int) : Int := min 127 (max (-126) x)

/-- 2^x as FP32, for x from −126 to 127. -/
def pow2F (x : Int) : F32 := BitVec.ofNat 32 ((x + 127).toNat * 2 ^ 23)

/-- The amax of the finite values of a tile (R105). -/
def finiteAmax (vals : Tab F32) : Nat × Nat :=
  vals.foldl (fun m v => if nonfinite32 v.2 then m else maxFrac m (magFrac (num32 v.2))) (0, 1)

/-- Fields of ST_CTRL in force, with the values they act as (R113). -/
def decayShift (s : State) (site : Nat) : Nat := min 8 (max 1 (fld s site 0x14 ⟨0x040, 15, 12⟩))
def relaxLog2 (s : State) (site : Nat) : Nat := min 6 (fld s site 0x14 ⟨0x040, 11, 8⟩)
def redoMax (s : State) (site : Nat) : Nat := fld s site 0x14 ⟨0x040, 5, 4⟩

/-- Adds to the core's non-finite count; the first increment of a step raises 0x0201 NONFINITE (R117). -/
def addNonfinite (s : State) (u : Issue) (h : Hdr) (n : Nat) : State :=
  if n = 0 then s
  else
    let s := bump s u.site 0x14 (wordFld 0x054) n
    if (coreAt s u.site).nonfiniteRaised then s
    else raise (modCore s u.site (fun c => { c with nonfiniteRaised := true })) (cmdReport u h 0x0201 5 0x14 0)

/-- The saturation limit at the end of a tile-scaled conversion (R111). -/
def checkSatLimit (s : State) (u : Issue) (h : Hdr) : State :=
  if fld s u.site 0x14 (wordFld 0x04C) ≤ fld s u.site 0x14 (wordFld 0x044) || (coreAt s u.site).satRaised then s
  else
    let s := modCore s u.site (fun c => { c with satRaised := true })
    if fld s u.site 0x14 ⟨0x040, 0, 0⟩ = 1 then
      let s := raise s (cmdReport u h 0x0210 3 0x14 0)
      suspectStep s 0x0210
    else raise s (cmdReport u h 0x0210 6 0x14 0)

/-- One conversion with its repeats: at most n more attempts after a saturation (R109). Gives the last attempt, its exponent,
the repeats made and the saturations of every attempt. -/
def redoConvert (fmt : Byte) (rnd : Nat → Rnd) (vals : Tab F32) : Nat → Int → Nat → Nat → Encoded × Int × Nat × Nat
  | 0, x, k, total => let e := encodeTile fmt (pow2F x) rnd vals; (e, x, k, total + e.sat)
  | n + 1, x, k, total =>
    let e := encodeTile fmt (pow2F x) rnd vals
    if e.sat = 0 ∨ 127 ≤ x then (e, x, k, total + e.sat) else redoConvert fmt rnd vals n (x + 1) (k + 1) (total + e.sat)

/-- E ← max(a, RNE(E · (1 − 2^(−DECAY_SHIFT)))) (R106). -/
def decayed (e : F32) (shift : Nat) (a : Nat × Nat) : F32 :=
  let d := to32 .rne (mulNum (num32 e) (.fin false (2 ^ shift - 1) (2 ^ shift)))
  max32 (to32 .rne (.fin false a.1 a.2)) d

/-- A written tile without saturation counts clean, and may relax the correction (R110). The 7-bit count stays at 127 while CORR is 0:
DESIGN CHOICE, log entry 118. -/
def cleanTile (x : Slot) (sat relax : Nat) : Slot :=
  if sat ≠ 0 then x
  else if 0 < x.corr ∧ 2 ^ relax ≤ x.clean + 1 then { x with corr := x.corr - 1, clean := 0 }
  else { x with clean := min 127 (x.clean + 1) }

/-- A slot's conversion: what was written, its tile scale, the slot after it, all saturations, and the repeats. -/
structure Converted where
  enc : Encoded
  scale : F32
  slot : Slot
  allSat : Nat
  redone : Nat

/-- A conversion through a slot by its mode (R103 to R110, R566). recorded is the scale of a RECORDED slot. The first RUNNING tile of a
slot with an initial scale is redone under R109 and then updates E by R106: DESIGN CHOICE, log entry 117. -/
def slotConvert (s : State) (site : Nat) (x : Slot) (fmt : Byte) (rnd : Nat → Rnd) (vals : Tab F32) (recorded : F32) : Converted :=
  let a := finiteAmax vals
  let pe := targetExp x.target.toNat
  let head : Int := x.headroom.toNat
  let fromAmax := clampExp (if a.1 = 0 then 0 else ceilLog2 a + head - pe)
  let once := fun (e : Int) => let r := encodeTile fmt (pow2F e) rnd vals; (r, r.sat)
  match x.mode.toNat with
  | 0 =>
    if !x.valid && !x.hasInit then
      let (r, sat) := once fromAmax
      let y := cleanTile { x with valid := true, est := to32 .rne (.fin false a.1 a.2), scaleExp := fromAmax } sat (relaxLog2 s site)
      ⟨r, pow2F fromAmax, y, sat, 0⟩
    else
      let est := if x.valid then x.est else pow2F (clampExp (min (x.initExp + pe - head) 127))
      let start := if !x.valid then clampExp x.initExp
        else if isZero32 est then x.scaleExp
        else clampExp (ceilLog2 (magFrac (num32 est)) + head + x.corr - pe)
      let (r, e, k, total) := redoConvert fmt rnd vals (redoMax s site) start 0 0
      let y := { x with valid := true, est := decayed est (decayShift s site) a, scaleExp := e, corr := min 3 (x.corr + k),
                        clean := if k = 0 then x.clean else 0 }
      ⟨r, pow2F e, cleanTile y r.sat (relaxLog2 s site), total, k⟩
  | 1 => let (r, sat) := once fromAmax; ⟨r, pow2F fromAmax, { x with scaleExp := fromAmax }, sat, 0⟩
  | 2 =>
    let e := clampExp x.initExp
    let (r, sat) := once e
    ⟨r, pow2F e, { x with valid := true, est := decayed x.est (decayShift s site) a, scaleExp := e }, sat, 0⟩
  | _ =>
    let r := encodeTile fmt recorded rnd vals
    ⟨r, recorded, { x with scaleExp := min 127 (ceilLog2 (magFrac (num32 recorded))) }, r.sat, 0⟩

/-- The fault of a conversion into a tile-scaled format before its first element (R101, R102, R261, R566). recorded is none where
the destination has no tile-scale entry to read. -/
def slotFault (x : Slot) (owner : Nat) (fmt : Byte) (recorded : Option F32) : Option Nat :=
  if x.owner.toNat ≠ owner then some 0x0212
  else if x.target.toNat ≠ starchTarget fmt then some 0x0213
  else if x.mode = 3 then (match recorded with | none => some 0x0114 | some v => if posNormal32 v then none else some 0x0114)
  else none

/-- A slot of a core. -/
def slotAt (s : State) (site k : Nat) : Slot := tGet freshSlot (coreAt s site).slots k

/-- A conversion of a tile into any format of eight bits or fewer, or BF16, FP16 or FP32, with every count of Starch: the tile, its
scale (none where the format has none), and the state; or the fault that refuses it. -/
def convertTile (s : State) (u : Issue) (h : Hdr) (owner slot : Nat) (fmt : Byte) (rnd : Nat → Rnd) (vals : Tab F32)
    (recorded : Option F32) (nans : Nat) : Except Nat (State × Encoded × Option F32) :=
  if tileScaled fmt then
    let x := slotAt s u.site slot
    match slotFault x owner fmt recorded with
    | some code => .error code
    | none =>
      let r := slotConvert s u.site x fmt rnd vals (recorded.getD 0)
      let s := modCore s u.site (fun c => { c with slots := tIns c.slots slot r.slot })
      let s := bump s u.site 0x14 (wordFld 0x048) r.allSat
      let s := bump s u.site 0x14 (wordFld 0x04C) r.enc.sat
      let s := bump s u.site 0x14 (wordFld 0x050) r.enc.zeroed
      let s := bump s u.site 0x14 (wordFld 0x058) r.redone
      let s := addNonfinite s u h r.enc.nonfinite
      .ok (checkSatLimit s u h, r.enc, some r.scale)
  else
    let e := encodeTile fmt 0x3F800000 rnd vals
    let s := bump s u.site 0x14 (wordFld 0x048) e.sat
    let s := bump s u.site 0x14 (wordFld 0x050) e.zeroed
    .ok (addNonfinite s u h (if fmt = 0 then nans else e.nonfinite), e, none)

/-- The rounding a command names: 0 the policy's ROUND_ACT, 1 RNE, 2 SR, 3 RTZ (R142, R163). -/
def rounding (s : State) (u : Issue) (round : Nat) (t : BitVec 16) (g : BitVec 24) : Nat → Rnd :=
  let x := ctxAt s u.ctx
  let act := match x.bind Ctx.loaded with | some l => l.policy.roundAct | none => 0
  let seed := (x.map Ctx.seed).getD 0
  let n := regWord s u.site 0x14 0x05C
  let k := if round = 0 then (if act = 1 then 2 else 1) else round
  match k with
  | 2 => fun e => .sr (srBits seed n t g e)
  | 3 => fun _ => .rtz
  | _ => fun _ => .rne

/-- SLOT_SETUP on the queue of an engine (R100, R164). -/
def setupBody (owner page : Nat) (o : SetupOps) : Body := fun h s u =>
  if o.reserved || o.owner = 3 || (o.hasInit && (o.initExp.toInt < -126)) || (o.mode = 2 && !o.hasInit) then refused s u h 0x0114 page
  else if o.owner.toNat ≠ owner then refused s u h 0x0212 page
  else
    let x : Slot := { target := o.target, owner := o.owner, mode := o.mode, headroom := o.headroom, hasInit := o.hasInit,
                      initExp := o.initExp.toInt, valid := false, clean := 0, corr := 0, scaleExp := 0, est := 0 }
    (modCore s u.site (fun c => { c with slots := tIns c.slots o.slot.toNat x }), .done)

/-- A write to ST_STEP: clears every counter of the page and every slot's history, and re-arms the once-per-step faults (R112). -/
def stepWrite (s : State) (site : Nat) (step : Word) : State :=
  let s := setRegWord s site 0x14 0x05C step
  let s := [0x048, 0x04C, 0x050, 0x054, 0x058].foldl (fun s o => setRegWord s site 0x14 o 0) s
  modCore s site (fun c => { c with
    satRaised := false
    nonfiniteRaised := false
    slots := c.slots.map (fun x => (x.1, { x.2 with valid := false, est := 0, corr := 0, clean := 0 })) })

end Sys2Proof.Machine
end

