-- ==== Sys2Proof/Machine/Vector.lean ====
section
/-!
DEFINITION. Vector.lean: the vector engine (R86 to R88, R163, R568): sources, element-wise operations, row reductions,
conversions, and where results go.
-/
namespace Sys2Proof.Machine

/-- A vector operation: element by element on up to three sources, a reduction of A's rows, or a conversion of A. -/
inductive VecOp where
  | elem (n : Nat) (f : F32 → F32 → F32 → F32)
  | red
  | cvt

/-- The bytes of rows of a scratchpad source: rows × columns of its format (R568). -/
def sourceBytes (fmt : Byte) (rows : Nat) : Nat := (min rows (shapeD fmt).rows) * (shapeD fmt).cols * (shapeD fmt).bits / 8

/-- The fault of a source specifier, before anything is read (R163, R257). -/
def sourceFault (s : State) (u : Issue) (o : VecOps) (rows : Nat) (w : Word) : Option Nat :=
  match specKind w with
  | 0 => some 0x0114
  | 1 => none
  | 2 => none
  | 3 =>
    if 2 < o.srcFormat.toNat then some 0x0114
    else if spRows s u.ctx < specRow w + (sourceBytes o.srcFormat rows + 127) / 128 then some 0x0308
    else none
  | 4 => none
  | 5 => none
  | _ => some 0x0114

/-- What a source gives (R568). -/
def sourceOf (s : State) (u : Issue) (o : VecOps) (rows : Nat) (w : Word) : Source :=
  let c := coreAt s u.site
  match specKind w with
  | 1 => let t := tileAt c (specTile w); .grid (shapeD t.format).rows (shapeD t.format).cols (tileVals t)
  | 2 => .grid 1024 1024 (accAt c (specAcc w))
  | 3 =>
    let sh := shapeD o.srcFormat
    .grid (min rows sh.rows) sh.cols
      (packedVals o.srcFormat (rowsSlice s u.site (spBase s u.ctx + specRow w) (sourceBytes o.srcFormat rows)))
  | 4 => .bcast ((regOf (threadAt s u.home u.t) (specReg w)).setWidth 32)
  | _ => .bcast o.imm

/-- Whether a source holds a stain in the rows processed (R278). -/
def sourceStained (s : State) (u : Issue) (o : VecOps) (rows : Nat) (w : Word) : Bool :=
  match specKind w with
  | 1 => regStained (coreAt s u.site) (specTile w) rows
  | 2 => regStained (coreAt s u.site) (16 + specAcc w) rows
  | 3 => rowsStained s u.site (spBase s u.ctx + specRow w) (sourceBytes o.srcFormat rows)
  | _ => false

/-- The value of a source where nothing is listed. -/
def background : Source → F32
  | .bcast v => v
  | .grid _ _ _ => 0

/-- The positions of a result of R rows and C columns that can differ from the background: those where a source lists a value
(and those outside a smaller source are background already). -/
def livePositions (xs : List Source) (rows cols : Nat) : List Nat :=
  sortDistinct ((xs.map (fun x => match x with
    | .bcast _ => []
    | .grid r k vals => (vals.filter (fun v => v.1 / k < min r rows ∧ v.1 % k < cols)).map (fun v => v.1 / k * cols + v.1 % k))).flatten)

/-- An element-wise result over the first rows of a shape, +0 unlisted. -/
def elementwise (f : F32 → F32 → F32 → F32) (a b c : Source) (rows cols : Nat) : Tab F32 :=
  let at' := fun (i : Nat) => f (sourceAt a (i / cols) (i % cols)) (sourceAt b (i / cols) (i % cols)) (sourceAt c (i / cols) (i % cols))
  let plain := f (background a) (background b) (background c)
  let ps := if plain = 0 then livePositions [a, b, c] rows cols else List.range (rows * cols)
  (ps.map (fun i => (i, at' i))).filter (fun x => x.2 ≠ 0)

/-- The result of VRED on row r of a source (R87, R568): a broadcast is a row of one element; a row outside the source is +0. -/
def rowResult (k : Nat) (x : Source) (r : Nat) : F32 :=
  match x with
  | .bcast v => rowReduce k [v]
  | .grid rows cols vals => if r < rows ∧ vals.any (fun v => v.1 / cols = r) then rowReduce k (gridRow vals cols r) else 0

/-- The rows and columns of a destination's shape (R568); none for a destination or format that R161 or R163 refuses. The formats of
R161 that have no tile shape in R41 (G16, W16, M8A, M8B) are among these: DESIGN CHOICE, log entry 114. -/
def destShape (o : VecOps) (isCvt : Bool) : Option (Nat × Nat) :=
  match specKind o.d with
  | 2 => if isCvt ∧ o.formatOut ≠ 0 then none else some (1024, 1024)
  | 1 => (shapeOf o.formatOut).map (fun sh => (sh.rows, sh.cols))
  | 3 => (shapeOf o.formatOut).map (fun sh => (sh.rows, sh.cols))
  | _ => none

/-- A NaN count over a result. -/
def nanCount (vals : Tab F32) : Nat := (vals.filter (fun v => isNan32 v.2)).length

/-- Writes rows 0 to rows − 1 of an accumulator; the others keep their contents (R568). -/
def accRows (old : Tab F32) (rows : Nat) (vals : Tab F32) : Tab F32 := vals ++ old.filter (fun v => rows ≤ v.1 / 1024)

/-- A vector result to its destination: converted where it is a tile or scratchpad row, with Starch's counts (R117, R568). -/
def writeVector (h : Hdr) (s : State) (u : Issue) (o : VecOps) (rows : Nat) (vals : Tab F32) (nans : Nat) : State × Ran :=
  match specKind o.d with
  | 2 =>
    let s := modCore s u.site (fun c =>
      let c := setAcc c (specAcc o.d) (accRows (accAt c (specAcc o.d)) rows vals)
      { c with stainRows := c.stainRows.filter (fun k => !(k / 1024 = 16 + specAcc o.d ∧ k % 1024 < rows)) })
    (addNonfinite s u h nans, .done)
  | 1 =>
    let old := tileAt (coreAt s u.site) (specTile o.d)
    match convertTile s u h 0 o.slot.toNat o.formatOut (rounding s u o.round.toNat o.tensorId o.tileIndex) vals (some old.tileScale) nans with
    | .error code => refused s u h code 0x13
    | .ok (s, e, scale) =>
      (modCore s u.site (fun c => setRegStain (setTile c (specTile o.d)
        { format := o.formatOut, data := e.data, scales := e.scales, tileScale := scale.getD old.tileScale, orient := false,
          rows := 0, cols := 0 }) (specTile o.d) []), .done)
  | _ =>
    let n := imageBytes o.formatOut
    if spRows s u.ctx < specRow o.d + (n + 127) / 128 then refused s u h 0x0308 0x13
    else match convertTile s u h 0 o.slot.toNat o.formatOut (rounding s u o.round.toNat o.tensorId o.tileIndex) vals none nans with
      | .error code => refused s u h code 0x13
      | .ok (s, e, _) =>
        (scratchSplice s (rowKey u.site (spBase s u.ctx + specRow o.d)) n
          (memSplice e.data (shapeD o.formatOut).dataBytes (shapeD o.formatOut).scaleBytes e.scales) false, .done)

/-- VRED into the scratchpad: one FP32 per row, packed (R568). -/
def writePacked (h : Hdr) (s : State) (u : Issue) (o : VecOps) (rs : List F32) : State × Ran :=
  let n := 4 * rs.length
  if spRows s u.ctx < specRow o.d + (n + 127) / 128 then refused s u h 0x0308 0x13
  else
    let s := scratchSplice s (rowKey u.site (spBase s u.ctx + specRow o.d)) n (memOf ((rs.map (fun v => leBytes 4 v.toNat)).flatten)) false
    (addNonfinite s u h (rs.filter isNan32).length, .done)

/-- The shape a vector command works over: its destination's, and for packed results of VRED under a FORMAT_OUT that has no tile shape
1,024 rows (R568, "whatever FORMAT_OUT holds"; log entry 114). -/
def workShape (o : VecOps) (isCvt packed : Bool) : Option (Nat × Nat) :=
  (destShape o isCvt).or (if packed then some (1024, 1024) else none)

/-- A vector command (R163, R568). need says which of A, B and C the operation uses. A ROUND above 3, and for VRED a COND above 3, is
refused: DESIGN CHOICE, log entry 114. -/
def vectorBody (op : VecOp) (o : VecOps) : Body := fun h s u =>
  let need := match op with | .elem n _ => n | _ => 1
  let used := [o.a, o.b, o.c].take need
  let isCvt := match op with | .cvt => true | _ => false
  let packed := match op with | .red => decide (specKind o.d = 3) | _ => false
  let badCond := match op with | .red => decide (3 < o.cond.toNat) | _ => false
  match workShape o isCvt packed with
  | none => refused s u h 0x0114 0x13
  | some (drows, dcols) =>
    if decide (drows < o.rows.toNat) || decide (3 < o.round.toNat) || badCond then refused s u h 0x0114 0x13
    else
      let rows := if o.rows = 0 then drows else o.rows.toNat
      match used.findSome? (sourceFault s u o rows) with
      | some code => refused s u h code 0x13
      | none =>
        if (o.d :: used).any (fun w => specKind w = 3) && !spServed s u.site 3 then (s, .blocked false)
        else if used.any (sourceStained s u o rows) then (consumeStain s (cmdReport u h 0x0303 4 0x13 0), .halted)
        else
          let src := fun (k : Nat) => if k < need then sourceOf s u o rows (([o.a, o.b, o.c][k]?).getD 0) else .bcast 0
          match op with
          | .elem _ f =>
            let vals := elementwise f (src 0) (src 1) (src 2) rows dcols
            writeVector h s u o rows vals (nanCount vals)
          | .cvt => writeVector h s u o rows (elementwise (fun a _ _ => quiet32 a) (src 0) (src 1) (src 2) rows dcols) 0
          | .red =>
            if packed then writePacked h s u o ((List.range rows).map (rowResult o.cond.toNat (src 0)))
            else
              let rs := (List.range rows).map (fun r => (r, rowResult o.cond.toNat (src 0) r))
              let vals := ((rs.filter (fun x => x.2 ≠ 0)).map (fun x => (List.range dcols).map (fun c => (x.1 * dcols + c, x.2)))).flatten
              writeVector h s u o rows vals (rs.filter (fun x => isNan32 x.2)).length

def vaddBody (o : VecOps) : Body := vectorBody (.elem 2 (fun a b _ => add32 a b)) o
def vsubBody (o : VecOps) : Body := vectorBody (.elem 2 (fun a b _ => sub32 a b)) o
def vmulBody (o : VecOps) : Body := vectorBody (.elem 2 (fun a b _ => mul32 a b)) o
def vfmaBody (o : VecOps) : Body := vectorBody (.elem 3 fma32) o
def vminBody (o : VecOps) : Body := vectorBody (.elem 2 (fun a b _ => min32 a b)) o
def vmaxBody (o : VecOps) : Body := vectorBody (.elem 2 (fun a b _ => max32 a b)) o
def vabsBody (o : VecOps) : Body := vectorBody (.elem 1 (fun a _ _ => abs32 a)) o
def vnegBody (o : VecOps) : Body := vectorBody (.elem 1 (fun a _ _ => neg32 a)) o
/-- VSEL: A where C is non-zero, else B (a NaN is non-zero). -/
def vselBody (o : VecOps) : Body := vectorBody (.elem 3 (fun a b c => quiet32 (if isZero32 c then b else a))) o
/-- VCMP: 1.0 or 0.0 by COND (R570); an unlisted COND is BAD_OPERAND (log entry 26). -/
def vcmpBody (o : VecOps) : Body := fun h s u =>
  if !condKnown o.cond then refused s u h 0x0114 0x13
  else vectorBody (.elem 2 (fun a b _ => if condVector o.cond a b then 0x3F800000 else 0)) o h s u
def vexp2Body (o : VecOps) : Body := vectorBody (.elem 1 (fun a _ _ => exp2F a)) o
def vlog2Body (o : VecOps) : Body := vectorBody (.elem 1 (fun a _ _ => log2F a)) o
def vrsqrtBody (o : VecOps) : Body := vectorBody (.elem 1 (fun a _ _ => rsqrt32 a)) o
def vrecipBody (o : VecOps) : Body := vectorBody (.elem 1 (fun a _ _ => recip32 a)) o
def vtanhBody (o : VecOps) : Body := vectorBody (.elem 1 (fun a _ _ => tanhF a)) o
def vredBody (o : VecOps) : Body := vectorBody .red o
def cvtBody (o : VecOps) : Body := vectorBody .cvt o

def execVadd (h : Hdr) (o : VecOps) (s : State) : Answer := .next (engineCmd (.vadd h o) h false .vector 2 (vaddBody o) s)
def execVsub (h : Hdr) (o : VecOps) (s : State) : Answer := .next (engineCmd (.vsub h o) h false .vector 2 (vsubBody o) s)
def execVmul (h : Hdr) (o : VecOps) (s : State) : Answer := .next (engineCmd (.vmul h o) h false .vector 2 (vmulBody o) s)
def execVfma (h : Hdr) (o : VecOps) (s : State) : Answer := .next (engineCmd (.vfma h o) h false .vector 2 (vfmaBody o) s)
def execVmin (h : Hdr) (o : VecOps) (s : State) : Answer := .next (engineCmd (.vmin h o) h false .vector 2 (vminBody o) s)
def execVmax (h : Hdr) (o : VecOps) (s : State) : Answer := .next (engineCmd (.vmax h o) h false .vector 2 (vmaxBody o) s)
def execVabs (h : Hdr) (o : VecOps) (s : State) : Answer := .next (engineCmd (.vabs h o) h false .vector 2 (vabsBody o) s)
def execVneg (h : Hdr) (o : VecOps) (s : State) : Answer := .next (engineCmd (.vneg h o) h false .vector 2 (vnegBody o) s)
def execVsel (h : Hdr) (o : VecOps) (s : State) : Answer := .next (engineCmd (.vsel h o) h false .vector 2 (vselBody o) s)
def execVcmp (h : Hdr) (o : VecOps) (s : State) : Answer := .next (engineCmd (.vcmp h o) h false .vector 2 (vcmpBody o) s)
def execVexp2 (h : Hdr) (o : VecOps) (s : State) : Answer := .next (engineCmd (.vexp2 h o) h false .vector 2 (vexp2Body o) s)
def execVlog2 (h : Hdr) (o : VecOps) (s : State) : Answer := .next (engineCmd (.vlog2 h o) h false .vector 2 (vlog2Body o) s)
def execVrsqrt (h : Hdr) (o : VecOps) (s : State) : Answer := .next (engineCmd (.vrsqrt h o) h false .vector 2 (vrsqrtBody o) s)
def execVrecip (h : Hdr) (o : VecOps) (s : State) : Answer := .next (engineCmd (.vrecip h o) h false .vector 2 (vrecipBody o) s)
def execVtanh (h : Hdr) (o : VecOps) (s : State) : Answer := .next (engineCmd (.vtanh h o) h false .vector 2 (vtanhBody o) s)
def execVred (h : Hdr) (o : VecOps) (s : State) : Answer := .next (engineCmd (.vred h o) h false .vector 2 (vredBody o) s)
def execCvt (h : Hdr) (o : VecOps) (s : State) : Answer := .next (engineCmd (.cvt h o) h false .vector 2 (cvtBody o) s)
def execVectorSlotSetup (h : Hdr) (o : SetupOps) (s : State) : Answer :=
  .next (engineCmd (.vectorSlotSetup h o) h false .vector 2 (setupBody 0 0x13 o) s)

end Sys2Proof.Machine
end

