-- ==== Sys2Proof/Machine/Matrix.lean ====
section
/-!
DEFINITION. Matrix.lean: tile products (R65 to R82, R162, R567): operands as grids of elements and scales, the exact, anchored and
wide paths, the checks, and what PRODUCT writes.
-/
namespace Sys2Proof.Machine

/-- An operand of a product in its loaded orientation: element values before their scales, scale codes, and the positions that
are not all zero bits. Outside rows and depth it holds +0 (R41). -/
structure Operand where
  fmt : Byte
  rows : Nat
  depth : Nat
  elem : Nat → Nat → Num
  scale : Nat → Nat → Nat
  live : List (Nat × Nat)

/-- Tile registers side by side along the reduction axis, as held or each transposed (R68, R244, R567). -/
def denseOperand (ts : List TileReg) (tr : Bool) : Operand :=
  let fmt := (ts.headD freshTile).format
  let sh := shapeD fmt
  let pitch := if tr then sh.rows else sh.cols
  let rows := if tr then sh.cols else sh.rows
  let idx := fun (r k : Nat) => if tr then k % pitch * sh.cols + r else r * sh.cols + k % pitch
  { fmt := fmt, rows := rows, depth := pitch * ts.length
    elem := fun r k => match ts[k / pitch]? with
      | some t => if r < rows then elemNum fmt (elemCode t (idx r k)) else .fin false 0 1
      | none => .fin false 0 1
    scale := fun r k => match ts[k / pitch]? with
      | some t => if r < rows then scaleCode t (idx r k) else 0
      | none => 0
    live := (ts.zipIdx.map (fun t => (liveElems t.1).map (fun i =>
      if tr then (i % sh.cols, t.2 * pitch + i / sh.cols) else (i / sh.cols, t.2 * pitch + i % sh.cols)))).flatten }

/-- A block scale as a value. -/
def scaleVal (fmt : Byte) (code : Nat) : Num := match scaleNum fmt code with | some (n, d) => .fin false n d | none => .nan

/-- An element with its block scale; a zero block holds zeros (R30). -/
def effective (o : Operand) (r k : Nat) : Num :=
  match scaleNum o.fmt (o.scale r k) with
  | none => .nan
  | some (n, d) => if n = 0 then .fin false 0 1 else mulNum (o.elem r k) (.fin false n d)

/-- The rows that hold a live position, ascending. -/
def liveRows (o : Operand) : List Nat := sortDistinct (o.live.map (·.1))

/-- The live reduction positions of a row. -/
def liveCols (o : Operand) (r : Nat) : List Nat := (o.live.filter (fun x => x.1 = r)).map (·.2)

/-- A row with a non-finite block (R77). -/
def badRow (o : Operand) (r : Nat) : Bool := (liveCols o r).any (fun k => (scaleNum o.fmt (o.scale r k)).isNone)

/-- The three ways a reduction is formed (R72, R74, R75). -/
inductive Path where
  | exact | anchored | wide
  deriving DecidableEq, Repr

def pathOf (wfmt : Byte) : Path :=
  match wfmt.toNat with | 5 => .exact | 6 => .exact | 7 => .exact | 8 => .anchored | _ => .wide

/-- Groups of R67's table: a pair is accepted inside one group, and HF2 only as the weight of an HF4 or HF4Q operand. -/
def pairGroup (fmt : Byte) : Nat :=
  match fmt.toNat with
  | 5 => 1 | 6 => 1 | 8 => 2 | 9 => 3 | 0xA => 3 | 0xB => 4 | 0xC => 4 | 3 => 5 | 4 => 5 | 1 => 6 | 2 => 7 | _ => 0
def pairOk (wfmt xfmt : Byte) : Bool :=
  pairGroup xfmt ≠ 0 && (if wfmt = 7 then pairGroup xfmt = 1 else pairGroup wfmt = pairGroup xfmt)

/-- Whether a streamed format may be transposed (R69). -/
def streamsTransposed (fmt : Byte) : Bool := !(fmt = 5 || mxBlock fmt)

/-- Rows and columns of a product's output (R66). -/
def outSide (wfmt : Byte) : Nat := if wfmt = 1 ∨ wfmt = 2 then 512 else 1024

/-! ### The sums -/

/-- A value in units of 2^−10 (R72). -/
def fixed10 : Num → Int
  | .fin neg n d => signedNum neg (n * 1024 / d)
  | _ => 0

/-- I of R72 for one output: only positions live in both operands add to it. -/
def exactSum (x w : Operand) (t n : Nat) : Int :=
  let ks := liveCols w n
  ((liveCols x t).filter (fun k => ks.contains k)).foldl (fun i k => i + fixed10 (effective x t k) * fixed10 (effective w n k)) 0

/-- An E2M1 value in units of one half. -/
def halves : Num → Int
  | .fin neg n d => signedNum neg (2 * n / d)
  | _ => 0

/-- The largest scale exponent over an operand's non-zero blocks; none with no such block (R74). It is taken over the whole tile, also
where ROWS streams fewer of its rows (log entry 116). -/
def anchor (o : Operand) : Option Int :=
  o.live.foldl (fun m x =>
    if halves (o.elem x.1 x.2) ≠ 0 ∧ o.scale x.1 x.2 ≠ 255 then
      some (match m with | some v => max v (o.scale x.1 x.2 : Int) | none => (o.scale x.1 x.2 : Int))
    else m) none

/-- The anchored sum of one output in units of 2^(Ew + Ex − 66), and whether a product was dropped (R74). aw and ax are scale codes.
Elements of blocks with scale 0xFF count as zero (R74, R79). -/
def anchoredSum (x w : Operand) (ax aw : Int) (t n : Nat) : Int × Bool :=
  let ks := liveCols w n
  ((liveCols x t).filter (fun k => ks.contains k)).foldl (fun s k =>
    let p := if x.scale t k = 255 ∨ w.scale n k = 255 then 0 else halves (x.elem t k) * halves (w.elem n k)
    let off := (aw - (w.scale n k : Int)) + (ax - (x.scale t k : Int))
    if p = 0 then s else if 64 < off then (s.1, true) else (s.1 + p * (2 ^ (64 - off).toNat : Nat), s.2)) (0, false)

/-- One FP32 addition of exact or FP32 values. -/
def addRound (a b : Num) : Num := num32 (to32 .rne (addNum a b))

/-- One group of 32 of a wide reduction (R75). -/
def groupSum (x w : Operand) (wT : Bool) (t n g : Nat) : Num :=
  let leaf := fun (j : Nat) =>
    let p := mulNum (x.elem t (32 * g + j)) (w.elem n (32 * g + j))
    if mxBlock w.fmt && wT then num32 (to32 .rne (mulNum p (scaleVal w.fmt (w.scale n (32 * g + j))))) else p
  let s := treeFold addRound (.fin false 0 1) 5 ((List.range 32).map leaf)
  if mxBlock w.fmt then
    let xs := scaleVal x.fmt (x.scale t (32 * g))
    num32 (to32 .rne (mulNum s (if wT then xs else mulNum xs (scaleVal w.fmt (w.scale n (32 * g))))))
  else s

/-- The reduction of a wide path: groups in ascending order, starting from group 0 (R75). -/
def wideSum (x w : Operand) (wT : Bool) (t n : Nat) : Num :=
  let groups := (List.range (max x.depth w.depth / 32)).map (groupSum x w wT t n)
  groups.tail.foldl addRound (groups.headD (.fin false 0 1))

/-- A product to be formed. wideZero turns a −0 of a wide path to +0 (R250); passes says, pass by pass, which weight positions the pass takes
(R251): a dense product is one pass over all. -/
structure ProductIn where
  x : Operand
  w : Operand
  wT : Bool
  sx : Num
  sw : Num
  rows : Nat
  side : Nat
  upsets : List Upset
  wideZero : Bool
  passes : List (Nat → Nat → Bool) := [fun _ _ => true]

/-- What the array adds to an output by its silent errors. -/
def upsetAt (p : ProductIn) (t n : Nat) : Int :=
  p.upsets.foldl (fun v u => if u.row = t ∧ u.col = n then v + u.delta else v) 0

/-- The upsets that fall on an output of the product. -/
def liveUpsets (p : ProductIn) : List Upset := p.upsets.filter (fun u => u.row < p.rows ∧ u.col < p.side)

/-- Whether an operand's row can give a non-zero output, or one of −0, against a row of zeros. -/
def loudRow (o : Operand) (r : Nat) : Bool :=
  badRow o r || (pathOf o.fmt = .wide &&
    ((liveCols o r).any (fun k => match o.elem r k with | .fin _ _ _ => false | _ => true) ||
     (List.range o.depth).all (fun k => match o.elem r k with | .fin neg _ _ => neg | _ => false)))

/-- The outputs that can differ from +0, as row · 1024 + column, ascending. -/
def liveOutputs (p : ProductIn) : List Nat :=
  let xr := (liveRows p.x).filter (fun t => t < p.rows)
  let wr := (liveRows p.w).filter (fun n => n < p.side)
  let ts := if wr.any (loudRow p.w) then List.range p.rows else xr
  let ns := if xr.any (loudRow p.x) then List.range p.side else wr
  sortDistinct ((ts.map (fun t => ns.map (fun n => t * 1024 + n))).flatten ++ (liveUpsets p).map (fun (u : Upset) => u.row * 1024 + u.col))

/-- One output: the value P of R73, the sum before tile scaling, and whether a product was dropped. DESIGN CHOICE (log entry 158): a streamed
element or block that is not finite makes the output NaN beside a skipped group and in an empty block row too, as R77 has it for the
decompressed tile; R250 gives both +0. -/
def outputAt (p : ProductIn) (ax aw : Option Int) (t n : Nat) : F32 × Num × Bool :=
  match pathOf p.w.fmt with
  | .exact =>
    if badRow p.x t || badRow p.w n then (nan32, .nan, false)
    else
      let i := exactSum p.x p.w t n + upsetAt p t n
      let pre := Num.fin (decide (i < 0)) i.natAbs (2 ^ 20)
      (to32 .rne (mulNum pre (mulNum p.sx p.sw)), pre, false)
  | .anchored =>
    let r := match ax, aw with | some a, some b => anchoredSum p.x p.w a b t n | _, _ => (0, false)
    if badRow p.x t || badRow p.w n then (nan32, .nan, r.2)
    else
      let i := r.1 + upsetAt p t n
      let u := scaleTwo i.natAbs (match ax, aw with | some a, some b => a + b - 254 - 66 | _, _ => -20)
      let pre := Num.fin (decide (i < 0)) u.1 u.2
      (to32 .rne pre, pre, r.2)
  | .wide =>
    let s := wideSum p.x p.w p.wT t n
    let e := upsetAt p t n
    let pre := match s with
      | .fin _ _ _ => if e = 0 then s else addRound s (.fin (decide (e < 0)) e.natAbs (2 ^ 20))
      | v => v
    let v := to32 .rne (mulNum pre (mulNum p.sx p.sw))
    (if p.wideZero && v = 0x80000000 then 0 else v, pre, false)

/-- Every live output of a product. -/
def productOutputs (p : ProductIn) : Tab (F32 × Num × Bool) :=
  let ax := anchor p.x
  let aw := anchor p.w
  (liveOutputs p).map (fun i => (i, outputAt p ax aw (i / 1024) (i % 1024)))

/-! ### The checks (R78 to R81) -/

/-- A finite value in units of 2^−300, in which every sum of the checks is whole. -/
def fixed300 : Num → Int
  | .fin neg n d => signedNum neg (n * 2 ^ 300 / d)
  | _ => 0

/-- Whether a value is finite. -/
def finiteNum : Num → Bool
  | .fin _ _ _ => true
  | _ => false

/-- The comparison of one line on a wide path (R80): chk the checksum, sum the sum of outputs, bound M, all in units of 2^−300.
The order of the lane's FP32 sums is not given: a difference as near to the tolerance as the roundings of that many terms, of the total
magnitude mag, can lie is open (log entry 18). peak is the largest magnitude that enters M, a scaled element or a sum over the other operand's
lines: where it is past the FP32 range, M is infinite or NaN. -/
def lineFails (line tolExp terms : Nat) (chk sum bound mag peak : Int) : Bool :=
  let inf : Int := 2 ^ 428
  let diff := (chk - sum).natAbs
  if inf ≤ peak ∨ inf ≤ bound ∨ inf ≤ chk.natAbs ∨ inf ≤ sum.natAbs then false
  else if bound = 0 then decide (0 < diff)
  else
    let slack := terms * mag.natAbs / 2 ^ 24 + 2 ^ 180
    let tol := bound.natAbs / 2 ^ tolExp
    if diff + slack ≤ tol then false else if tol + slack < diff then true else Config.laneFails line terms (chk - sum) bound

/-- The failing row and column checks of a product on a wide path (R80). -/
def toleranceFails (p : ProductIn) (tolExp : Nat) (outs : Tab (F32 × Num × Bool)) : List Nat × List Nat :=
  let ks := fun (o : Operand) (r : Nat) => (liveCols o r)
  let clean := fun (o : Operand) (r : Nat) => (liveCols o r).all (fun k => finiteNum (effective o r k))
  let xr := (liveRows p.x).filter (fun t => t < p.rows)
  let wr := (liveRows p.w).filter (fun n => n < p.side)
  let sum := fun (f : Nat → Int) (l : List Nat) => l.foldl (fun a i => a + f i) 0
  let eff := fun (o : Operand) (r k : Nat) => fixed300 (effective o r k)
  let has := fun (o : Operand) (r k : Nat) => (liveCols o r).contains k
  let colOf := fun (o : Operand) (rs : List Nat) (g : Int → Int) (k : Nat) => sum (fun r => if has o r k then g (eff o r k) else 0) rs
  let abs' := fun (v : Int) => (v.natAbs : Int)
  let unit : Int := 2 ^ 300
  let size := fun (os : Tab (F32 × Num × Bool)) => os.foldl (fun (a : Int) o => a + abs' (fixed300 o.2.2.1)) 0
  let peak := fun (f : Nat → Int) (l : List Nat) => l.foldl (fun a i => max a (f i)) 0
  let sumPeak := fun (o : Operand) (rs : List Nat) =>
    peak (colOf o rs abs') (sortDistinct ((o.live.filter (fun x => rs.contains x.1)).map (·.2)))
  let wPeak := sumPeak p.w wr
  let xPeak := sumPeak p.x xr
  let line := fun (n lines depth : Nat) (os : Tab (F32 × Num × Bool)) (chk bound top : Int) =>
    lineFails n tolExp (lines + depth + os.length + 4) chk (os.foldl (fun a o => a + fixed300 o.2.2.1) 0) bound (bound + size os) top
  let rowLine := fun (t : Nat) =>
    let os := outs.filter (fun o => o.1 / 1024 = t)
    if !(clean p.x t && wr.all (clean p.w) && os.all (fun o => finiteNum o.2.2.1)) then false
    else line t wr.length (ks p.x t).length os (sum (fun k => eff p.x t k * colOf p.w wr id k) (ks p.x t) / unit)
      (sum (fun k => abs' (eff p.x t k) * colOf p.w wr abs' k) (ks p.x t) / unit)
      (max wPeak (peak (fun k => abs' (eff p.x t k)) (ks p.x t)))
  let colLine := fun (n : Nat) =>
    let os := outs.filter (fun o => o.1 % 1024 = n)
    if !(clean p.w n && xr.all (clean p.x) && os.all (fun o => finiteNum o.2.2.1)) then false
    else line (1024 + n) xr.length (ks p.w n).length os (sum (fun k => colOf p.x xr id k * eff p.w n k) (ks p.w n) / unit)
      (sum (fun k => colOf p.x xr abs' k * abs' (eff p.w n k)) (ks p.w n) / unit)
      (max xPeak (peak (fun k => abs' (eff p.w n k)) (ks p.w n)))
  let us := liveUpsets p
  ((sortDistinct (xr ++ us.map Upset.row)).filter rowLine, (sortDistinct (wr ++ us.map Upset.col)).filter colLine)

/-- The failing row and column checks of an exact path: a line fails when its errors do not cancel (R79). -/
def exactFails (p : ProductIn) : List Nat × List Nat :=
  let us := liveUpsets p
  let total := fun (f : Upset → Nat) (i : Nat) => us.foldl (fun v u => if f u = i then v + u.delta else v) (0 : Int)
  ((sortDistinct (us.map Upset.row)).filter (fun i => total Upset.row i ≠ 0),
   (sortDistinct (us.map Upset.col)).filter (fun i => total Upset.col i ≠ 0))

/-- MX_MISMATCH_DETAIL of the first failing row and column, unless one is held already (R82). -/
def noteMismatch (s : State) (site : Nat) (rows cols : List Nat) : State :=
  if fld s site 0x12 ⟨0x060, 31, 30⟩ ≠ 0 then s
  else
    let s := match rows.head? with
      | some r => setFld (setFld s site 0x12 ⟨0x060, 31, 31⟩ 1) site 0x12 ⟨0x060, 19, 10⟩ r
      | none => s
    match cols.head? with
    | some c => setFld (setFld s site 0x12 ⟨0x060, 30, 30⟩ 1) site 0x12 ⟨0x060, 9, 0⟩ c
    | none => s

/-- An operand at the positions that some test takes; the others are left empty. -/
def maskOperand (o : Operand) (takes : Nat → Nat → Bool) : Operand :=
  { o with
    elem := fun r k => if takes r k then o.elem r k else .fin false 0 1
    scale := fun r k => if takes r k then o.scale r k else 0
    live := o.live.filter (fun x => takes x.1 x.2) }

/-- One pass of a product: its weight positions, the reduction positions that some weight of it takes, and the silent errors that fall in it
(R251). A product of one pass streams every position. -/
def passPart (p : ProductIn) (takes : Nat → Nat → Bool) (i : Nat) : ProductIn :=
  let w := maskOperand p.w takes
  let cols := sortDistinct (w.live.map (·.2))
  { p with
    w := w
    x := if p.passes.length ≤ 1 then p.x else maskOperand p.x (fun _ k => cols.contains k)
    upsets := p.upsets.filter (fun u => u.pass % p.passes.length = i) }

/-- The failing row and column checks of every pass, in order (R79, R80, R251). -/
def passFails (p : ProductIn) (wide : Bool) (tolExp : Nat) (outs : Tab (F32 × Num × Bool)) : List Nat × List Nat :=
  let each := p.passes.zipIdx.map (fun x =>
    let q := passPart p x.1 x.2
    if wide then toleranceFails q tolExp (if p.passes.length = 1 then outs else productOutputs q) else exactFails q)
  ((each.map (·.1)).flatten, (each.map (·.2)).flatten)

/-- The counts, detail and fault of a product's checks (R79 to R81). -/
def checkProduct (s : State) (u : Issue) (h : Hdr) (p : ProductIn) (outs : Tab (F32 × Num × Bool)) : State :=
  let dropped := outs.any (fun o => o.2.2.2)
  if dropped then bump (bump s u.site 0x12 (wordFld 0x058) 1) u.site 0x12 (wordFld 0x054) 1
  else
    let wide := pathOf p.w.fmt = .wide
    let tol := min 20 (max 8 (fld s u.site 0x12 ⟨0x040, 7, 4⟩))
    let (rows, cols) := passFails p wide tol outs
    if rows = [] ∧ cols = [] then s
    else
      let s := bump s u.site 0x12 (wordFld (if wide then 0x050 else 0x04C)) (rows.length + cols.length)
      let s := noteMismatch s u.site rows cols
      let code := if wide then 0x0902 else 0x0901
      if fld s u.site 0x12 ⟨0x040, 0, 0⟩ = 1 then
        let s := raise s (cmdReport u h code 3 0x12 0)
        suspectStep s code
      else raise s (cmdReport u h code 6 0x12 0)

/-! ### The accumulator -/

/-- The accumulator after a product: the region of rows × side at (r0, c0) takes P, or A + P (R71, R73), −0 and NaN by IEEE 754. -/
def accWrite (old : Tab F32) (r0 c0 rows side : Nat) (acc : Bool) (outs : Tab F32) : Tab F32 :=
  let inside := fun (k : Nat) => r0 ≤ k / 1024 ∧ k / 1024 < r0 + rows ∧ c0 ≤ k % 1024 ∧ k % 1024 < c0 + side
  let moved := outs.map (fun o => ((o.1 / 1024 + r0) * 1024 + (o.1 % 1024 + c0), o.2))
  let start := if acc then old.filterMap (fun o =>
      if inside o.1 then (let v := add32 o.2 (tGet 0 moved o.1); if v = 0 then none else some (o.1, v)) else some o)
    else old.filter (fun o => !inside o.1)
  moved.foldl (fun t o =>
    if acc ∧ (tFind old o.1).isSome then t else tPut 0 t o.1 (if acc then add32 0 o.2 else o.2)) start

/-- The outputs of a region that hold NaN or infinity. -/
def accNonfinite (a : Tab F32) (r0 c0 rows side : Nat) : Nat :=
  (a.filter (fun o => r0 ≤ o.1 / 1024 ∧ o.1 / 1024 < r0 + rows ∧ c0 ≤ o.1 % 1024 ∧ o.1 % 1024 < c0 + side ∧ nonfinite32 o.2)).length

/-- Row and column of a product's region in its accumulator (R71). -/
def quadrantRow (wfmt : Byte) (o : ProductOps) : Nat := if outSide wfmt = 512 then o.quadrant.toNat / 2 * 512 else 0
def quadrantCol (wfmt : Byte) (o : ProductOps) : Nat := if outSide wfmt = 512 then o.quadrant.toNat % 2 * 512 else 0

/-- Writes a product to its accumulator with its counts and checks. -/
def finishProduct (s : State) (u : Issue) (h : Hdr) (o : ProductOps) (p : ProductIn) : State :=
  let outs := productOutputs p
  let r0 := quadrantRow o.wFormat o
  let c0 := quadrantCol o.wFormat o
  let vals := outs.map (fun x => (x.1, x.2.1))
  let s := modCore s u.site (fun c =>
    let c := setAcc c o.acc.toNat (accWrite (accAt c o.acc.toNat) r0 c0 p.rows p.side o.accumulate vals)
    if p.side = 1024 then { c with stainRows := c.stainRows.filter (fun k => !(k / 1024 = 16 + o.acc.toNat ∧ k % 1024 < p.rows)) } else c)
  let bad := accNonfinite (accAt (coreAt s u.site) o.acc.toNat) r0 c0 p.rows p.side
  let s := bump s u.site 0x12 (wordFld 0x05C) bad
  let s := addNonfinite s u h bad
  checkProduct s u h p outs

/-! ### The streamed operand -/

/-- The block scales that belong to the first rows of a tile. -/
def scalePrefix (fmt : Byte) (rows : Nat) : Nat :=
  if (shapeD fmt).scaleBytes = 0 ∨ rows = 0 then 0 else blockIndex fmt (rows * (shapeD fmt).cols - 1) + 1

/-- Whether the rows streamed of a scratchpad image are stained. -/
def imageStained (s : State) (u : Issue) (row : Nat) (fmt : Byte) (rows : Nat) : Bool :=
  let sh := shapeD fmt
  let base := spBase s u.ctx + row
  let dataBytes := rows * sh.cols * sh.bits / 8
  let sc := scalePrefix fmt rows
  rowsStained s u.site base dataBytes ||
    (sc ≠ 0 && rowsStained s u.site (base + sh.dataBytes / 128) (sh.dataBytes % 128 + sc))

/-- Scratchpad rows of a tile image. -/
def imageRows (fmt : Byte) : Nat := (imageBytes fmt + 127) / 128

/-- The tiles of the streamed operand: n registers from X_REG, or n images from X_ROW. -/
def streamedTiles (s : State) (u : Issue) (o : ProductOps) (n : Nat) : List TileReg :=
  if o.xFromSp then
    (List.range n).map (fun i => tileOfImage o.xFormat
      (rowsSlice s u.site (spBase s u.ctx + o.xRow.toNat + i * imageRows o.xFormat) (imageBytes o.xFormat)) o.xScale)
  else (List.range n).map (fun i => tileAt (coreAt s u.site) ((o.xReg.toNat + i) % 16))

/-- Whether a streamed row is stained; every row of a transposed operand is streamed. -/
def streamedStained (s : State) (u : Issue) (o : ProductOps) (n rows : Nat) : Bool :=
  let rows := if o.xTranspose then 1024 else rows
  (List.range n).any (fun i =>
    if o.xFromSp then imageStained s u (o.xRow.toNat + i * imageRows o.xFormat) o.xFormat (min rows (shapeD o.xFormat).rows)
    else regStained (coreAt s u.site) ((o.xReg.toNat + i) % 16) rows)

/-- The tile scale of a streamed operand of several tiles: theirs where they agree, and open where they do not (R73, R244; log
entry 19). -/
def streamedScale (ts : List TileReg) : F32 :=
  match ts with
  | [] => 0x3F800000
  | t :: r => if r.all (fun x => x.tileScale = t.tileScale) then t.tileScale else Config.mixedScale (ts.map TileReg.tileScale)

/-- S of R73 for a format: 1 where it has no tile scale. -/
def scaleFactor (fmt : Byte) (v : F32) : Num := if tileScaled fmt then num32 v else .fin false 1 1

/-- The fault of a product's operands, but for those of the sparse metadata; wide says that a format code is outside R161. -/
def productFault (s : State) (u : Issue) (o : ProductOps) (n : Nat) : Option Nat :=
  let c := coreAt s u.site
  if !pairOk o.wFormat o.xFormat then some 0x0120
  else if (tileAt c o.wReg.toNat).format ≠ o.wFormat then some 0x0120
  else if !o.xFromSp && (List.range n).any (fun i => (tileAt c ((o.xReg.toNat + i) % 16)).format ≠ o.xFormat) then some 0x0120
  else if o.xTranspose && !streamsTransposed o.xFormat then some 0x0121
  else if outSide o.wFormat < o.rows.toNat then some 0x0114
  else if o.xFromSp && spRows s u.ctx < o.xRow.toNat + n * imageRows o.xFormat then some 0x0308
  else if o.xFromSp && tileScaled o.xFormat && !posNormal32 o.xScale then some 0x0114
  else none

/-- ROWS of a product: 0 means all. -/
def productRows (o : ProductOps) : Nat := if o.rows = 0 then outSide o.wFormat else o.rows.toNat

/-- Whether a product takes a stained row as an operand (R278). -/
def productStained (s : State) (u : Issue) (o : ProductOps) (n : Nat) : Bool :=
  let c := coreAt s u.site
  let r0 := quadrantRow o.wFormat o
  regStained c o.wReg.toNat 1024 || streamedStained s u o n (productRows o) ||
    (o.accumulate && c.stainRows.any (fun k => k / 1024 = 16 + o.acc.toNat ∧ r0 ≤ k % 1024 ∧ k % 1024 < r0 + productRows o))

/-- The orientation bit of each streamed register (R567). -/
def noteOrientation (c : Core) (o : ProductOps) (n : Nat) : Core :=
  if o.xFromSp then c
  else (List.range n).foldl (fun c i =>
    let k := (o.xReg.toNat + i) % 16
    { c with tiles := tIns c.tiles k { tileAt c k with orient := o.xTranspose } }) c

/-- PRODUCT (R65 to R82, R162). -/
def productBody (o : ProductOps) : Body := fun h s u =>
  match productFault s u o 1 with
  | some code => refused s u h code 0x12
  | none =>
    if o.xFromSp && !spServed s u.site 0 then (s, .blocked false)
    else if productStained s u o 1 then (consumeStain s (cmdReport u h 0x0303 4 0x12 0), .halted)
    else
      let c := coreAt s u.site
      let xs := streamedTiles s u o 1
      let w := tileAt c o.wReg.toNat
      let p : ProductIn :=
        { x := denseOperand xs o.xTranspose, w := denseOperand [w] o.wTranspose, wT := o.wTranspose
          sx := scaleFactor o.xFormat (streamedScale xs), sw := scaleFactor o.wFormat w.tileScale
          rows := productRows o, side := outSide o.wFormat, upsets := o.upsets, wideZero := false }
      let s := modCore s u.site (fun c => { noteOrientation c o 1 with loaded := some (o.wReg.toNat, o.wTranspose) })
      (finishProduct (bumpPair s u.site 0x12 0x044 1) u h o p, .done)

def execProduct (h : Hdr) (o : ProductOps) (s : State) : Answer := .next (engineCmd (.product h o) h false .matrix 1 (productBody o) s)

end Sys2Proof.Machine
end

