-- ==== Sys2Proof/Machine/Sparse.lean ====
section
/-!
DEFINITION. Sparse.lean: the sparse front-end (R229 to R253): metadata and its check, the decompressed tile, sparse products, and
encoding.
-/
namespace Sys2Proof.Machine

/-- The dense width of a value format (R231). -/
def denseWidth (fmt : Byte) : Nat := (shapeD fmt).cols
/-- Output rows of a value format (R231). -/
def sparseRows (fmt : Byte) : Nat := (shapeD fmt).rows
/-- Lanes, positions per lane and positions per pass of a value format's mode class (R231). -/
def laneCount (fmt : Byte) : Nat := if outSide fmt = 512 then 8 else 16
def perLane (fmt : Byte) : Nat := if denseWidth fmt = 1024 then 16 else 8
def perPass (fmt : Byte) : Nat := laneCount fmt * perLane fmt

/-- Whether a sparse format is one of R229: 1 N2OF4, 2 N1OF4, 3 BITMAP, 4 BLOCKLIST. -/
def sparseKnown (sf : Nat) : Bool := 1 ≤ sf && sf ≤ 4
/-- Whether a sparse format keeps an N:4 pattern. -/
def nOf4 (sf : Nat) : Bool := sf = 1 || sf = 2

/-- The table of R230. -/
def valueAccepted (sf : Nat) (fmt : Byte) : Bool :=
  match fmt.toNat with
  | 5 => true
  | 6 => !nOf4 sf
  | 7 => nOf4 sf
  | 3 => true
  | 4 => true
  | 1 => true
  | 2 => true
  | n => mxBlock fmt && n ≤ 0xC && sf = 4

/-- The spans R231 allows. -/
def spanOk (sf : Nat) (fmt : Byte) (span : Nat) : Bool :=
  let d := denseWidth fmt
  if sf = 1 then span = 2 * d else if sf = 2 then span = 4 * d else span = d || span = 2 * d || span = 4 * d

/-- The 64-byte header of a sparse tile (R232). -/
structure SparseHead where
  magic : Nat
  sf : Nat
  fmt : Byte
  rows : Nat
  span : Nat
  units : Nat
  reservedA : Nat
  valueBytes : Nat
  scaleBytes : Nat
  metaBytes : Nat
  reservedB : List Byte
  deriving DecidableEq, Repr

def sparseHead (m : Mem) : SparseHead :=
  let b := memBytes m 0 64
  { magic := leAt b 0 4, sf := leAt b 4 1, fmt := BitVec.ofNat 8 (leAt b 5 1), rows := leAt b 6 2, span := leAt b 8 4, units := leAt b 12 2,
    reservedA := leAt b 14 2, valueBytes := leAt b 16 4, scaleBytes := leAt b 20 4, metaBytes := leAt b 24 4, reservedB := b.drop 28 }

/-! ### BITMAP metadata (R234) -/

/-- The geometry a command gives its metadata: sparse format, value format and span. -/
structure Geometry where
  sf : Nat
  fmt : Byte
  span : Nat
  deriving DecidableEq, Repr

/-- 64 × 64 blocks per block row, block rows, and 16 × 16 blocks per row of the grid. -/
def gridCols (g : Geometry) : Nat := g.span / 64
def gridRows (g : Geometry) : Nat := sparseRows g.fmt / 64
def smallCols (g : Geometry) : Nat := g.span / 16
def smallCount (g : Geometry) : Nat := sparseRows g.fmt / 16 * smallCols g

def memBit (m : Mem) (a i : Nat) : Bool := bitOf (memByte m (a + i / 8)).toNat (i % 8)
/-- PRESENT and DENSE of a 16 × 16 block of the grid. -/
def isPresent (g : Geometry) (m : Mem) (i : Nat) : Bool := i < smallCount g && memBit m 64 i
def isDense (g : Geometry) (m : Mem) (i : Nat) : Bool := memBit m (64 + smallCount g / 8) i
def tableAt (g : Geometry) : Nat := 64 + smallCount g / 4
def masksAt (g : Geometry) : Nat := tableAt g + 8 * (gridCols g * gridRows g)
/-- The sixteen 16 × 16 blocks of 64 × 64 block b, in row-major order. -/
def smallsOf (g : Geometry) (b : Nat) : List Nat :=
  (List.range 16).map (fun i => (b / gridCols g * 4 + i / 4) * smallCols g + b % gridCols g * 4 + i % 4)
def isPresentBlock (g : Geometry) (m : Mem) (b : Nat) : Bool := (smallsOf g b).any (isPresent g m)
/-- Masks a 64 × 64 block holds. -/
def maskCount (g : Geometry) (m : Mem) (b : Nat) : Nat := ((smallsOf g b).filter (fun i => isPresent g m i && !isDense g m i)).length
/-- Masks that stand before small block i of block b, counted from the start of the mask area. -/
def maskBefore (g : Geometry) (m : Mem) (b : Nat) : Nat := ((List.range b).map (maskCount g m)).foldl (· + ·) 0
/-- Elements a mask keeps. -/
def maskBits (m : Mem) (a : Nat) : Nat := ((List.range 256).filter (fun p => memBit m a p)).length
/-- Bytes of n packed elements; an odd 4-bit block ends with a zero nibble (log entry 20). -/
def packedBytes (fmt : Byte) (n : Nat) : Nat := (n * (shapeD fmt).bits + 7) / 8

/-- One small block of a 64 × 64 block: number, dense or not, its mask's address, and its bytes in the body. -/
structure Small where
  index : Nat
  dense : Bool
  mask : Nat
  size : Nat
  deriving DecidableEq, Repr

/-- The present small blocks of a 64 × 64 block in order, with their masks and sizes. -/
def smallsIn (g : Geometry) (m : Mem) (b : Nat) : List Small :=
  (((smallsOf g b).filter (isPresent g m)).foldl (fun (acc : List Small × Nat) i =>
    let d := isDense g m i
    let a := masksAt g + 32 * acc.2
    let n := if d then 256 else maskBits m a
    (acc.1 ++ [{ index := i, dense := d, mask := a, size := packedBytes g.fmt n }], if d then acc.2 else acc.2 + 1))
    ([], maskBefore g m b)).1

/-- Bytes of values of a 64 × 64 block. -/
def blockBytes (g : Geometry) (m : Mem) (b : Nat) : Nat := ((smallsIn g m b).map Small.size).foldl (· + ·) 0
def blockCount (g : Geometry) : Nat := gridCols g * gridRows g
def presentBlocks (g : Geometry) (m : Mem) : List Nat := (List.range (blockCount g)).filter (isPresentBlock g m)

/-- Scale bytes of one 64 × 64 block (R234, R235). -/
def blockScales (fmt : Byte) : Nat := if fmt = 5 then 256 else if fmt = 6 then 16 else if mxBlock fmt then 128 else 0

/-! ### BLOCKLIST metadata (R235) -/

def listEntry (m : Mem) (i : Nat) : Nat := leNat (memBytes m (64 + 4 * i) 4)
def entryCol (e : Nat) : Nat := bitsOf e 5 0
def entryRow (e : Nat) : Nat := bitsOf e 11 8

/-! ### The check (R240) -/

/-- Bytes that the metadata of a geometry takes, from what it holds. -/
def metaSize (g : Geometry) (m : Mem) : Nat :=
  if nOf4 g.sf then 64 + sparseRows g.fmt * denseWidth g.fmt / 4
  else if g.sf = 3 then masksAt g + 32 * maskBefore g m (blockCount g)
  else 64 + 4 * (sparseHead m).units

/-- Values and scales of a body, in bytes, from the metadata. -/
def valueSize (g : Geometry) (m : Mem) : Nat :=
  if nOf4 g.sf then (shapeD g.fmt).dataBytes
  else if g.sf = 3 then ((presentBlocks g m).map (blockBytes g m)).foldl (· + ·) 0
  else (sparseHead m).units * (4096 * (shapeD g.fmt).bits / 8)
def scaleSize (g : Geometry) (m : Mem) : Nat :=
  if nOf4 g.sf then (shapeD g.fmt).scaleBytes
  else (if g.sf = 3 then (presentBlocks g m).length else (sparseHead m).units) * blockScales g.fmt

/-- The first failing offset of a list of tests. -/
def firstFail (tests : List (Nat × Nat × Bool)) : Option (Nat × Nat) := (tests.find? (fun t => t.2.2)).map (fun t => (t.2.1, t.1))

/-- The header's fields in order of offset: offset, code, failing. DESIGN CHOICE (log entry 158): UNITS of a BITMAP tile that differs from its
present blocks, and a UNITS other than 0 of an N:4 tile, fail as META_HEADER at offset 12; R240's table lists only the bound. -/
def headTests (g : Geometry) (m : Mem) : List (Nat × Nat × Bool) :=
  let h := sparseHead m
  [(0, 0x0801, decide (h.magic ≠ 0x4D50534C)), (4, 0x0801, decide (h.sf ≠ g.sf)), (5, 0x0801, decide (h.fmt ≠ g.fmt)), (5, 0x0805, !valueAccepted g.sf g.fmt),
   (6, 0x0801, decide (h.rows ≠ sparseRows g.fmt)), (8, 0x0801, !spanOk g.sf g.fmt h.span),
   (12, 0x0801, if nOf4 g.sf then decide (h.units ≠ 0) else decide (perPass g.fmt < h.units) || decide (g.sf = 3 ∧ h.units ≠ (presentBlocks g m).length)),
   (14, 0x0801, decide (h.reservedA ≠ 0)), (16, 0x0801, decide (h.valueBytes ≠ valueSize g m)), (20, 0x0801, decide (h.scaleBytes ≠ scaleSize g m)),
   (24, 0x0801, decide (h.metaBytes ≠ metaSize g m))] ++
  h.reservedB.zipIdx.map (fun b => (28 + b.2, 0x0801, decide (b.1 ≠ 0)))

/-- A pair of 2-bit indices of an N2OF4 group that does not ascend. -/
def badPair (m : Mem) (i : Nat) : Bool := packedGet m 2 (256 + 2 * i + 1) ≤ packedGet m 2 (256 + 2 * i)

/-- The tests of the metadata after the header, in order of offset. -/
def bodyTests (g : Geometry) (m : Mem) : List (Nat × Nat × Bool) :=
  match g.sf with
  | 1 => (List.range (sparseRows g.fmt * denseWidth g.fmt / 2)).map (fun i => (64 + i / 2, 0x0802, badPair m i))
  | 2 => []
  | 3 =>
    let nb := smallCount g
    (List.range nb).map (fun i => (64 + nb / 8 + i / 8, 0x0803, isDense g m i && !isPresent g m i)) ++
    ((List.range (blockCount g)).map (fun b =>
      let mo := leNat (memBytes m (tableAt g + 8 * b) 4)
      let vo := leNat (memBytes m (tableAt g + 8 * b + 4) 4)
      let here := isPresentBlock g m b
      let vals := ((List.range b).map (fun j => if isPresentBlock g m j then blockBytes g m j else 0)).foldl (· + ·) 0
      [(tableAt g + 8 * b, 0x0803, decide (mo ≠ (if here then maskBefore g m b else 0xFFFFFFFF))),
       (tableAt g + 8 * b + 4, 0x0803, decide (vo ≠ (if here then vals else 0xFFFFFFFF)))])).flatten ++
    (List.range (maskBefore g m (blockCount g))).map (fun i => (masksAt g + 32 * i, 0x0803, decide (maskBits m (masksAt g + 32 * i) = 0)))
  | _ =>
    let n := (sparseHead m).units
    (List.range n).map (fun i =>
      let e := listEntry m i
      let place := entryRow e * 64 + entryCol e
      let before := if i = 0 then none else some (entryRow (listEntry m (i - 1)) * 64 + entryCol (listEntry m (i - 1)))
      if e % 2 ^ 12 / 64 % 4 ≠ 0 ∨ 2 ^ 12 ≤ e then (64 + 4 * i, 0x0801, true)
      else (64 + 4 * i, 0x0804, decide (gridRows g ≤ entryRow e) || decide (gridCols g ≤ entryCol e) ||
        (match before with | some b => decide (place ≤ b) | none => false)))

/-- The check of a sparse tile's metadata against a command's formats: the first failing field, as code and offset (R240). -/
def metaCheck (sf : Nat) (fmt : Byte) (m : Mem) : Option (Nat × Nat) :=
  let g : Geometry := { sf := sf, fmt := fmt, span := (sparseHead m).span }
  match firstFail ((headTests g m).take 6) with
  | some f => some f
  | none => firstFail (headTests g m ++ bodyTests g m)

/-! ### The decompressed tile (R233 to R235, R250) -/

/-- The body of a sparse tile: the image of its register, values then scales. -/
def bodyByte (w : TileReg) (a : Nat) : Byte :=
  if a < (shapeD w.format).dataBytes then memByte w.data a else memByte w.scales (a - (shapeD w.format).dataBytes)

/-- A packed element of a body that starts at byte a. -/
def bodyElem (w : TileReg) (a i : Nat) : Nat :=
  let n := (shapeD w.format).bits
  leNat [bodyByte w (a + n * i / 8), bodyByte w (a + n * i / 8 + 1)] / 2 ^ (n * i % 8) % 2 ^ n

/-- Where an element stands in the body and which scale byte of it holds: body bytes start, element number, scale byte. -/
structure Spot where
  base : Nat
  elem : Nat
  scale : Nat
  deriving DecidableEq, Repr

/-- The scale byte of position (n, k) of a BITMAP tile in its body: every position of a present 64 × 64 block has one, stored or not. -/
def bitmapScale (g : Geometry) (m : Mem) (n k : Nat) : Option Nat :=
  let b := n / 64 * gridCols g + k / 64
  if !isPresentBlock g m b then none
  else
    let sc := if g.fmt = 5 then n % 64 * 4 + k % 64 / 16 else n % 64 / 16 * 4 + k % 64 / 16
    some (valueSize g m + ((presentBlocks g m).filter (fun j => j < b)).length * blockScales g.fmt + sc)

/-- The place of stored element (n, k) of a BITMAP tile. -/
def bitmapSpot (g : Geometry) (m : Mem) (n k : Nat) : Option Spot :=
  let b := n / 64 * gridCols g + k / 64
  let small := n / 16 * smallCols g + k / 16
  let p := n % 16 * 16 + k % 16
  let before := (presentBlocks g m).filter (fun j => j < b)
  match (smallsIn g m b).find? (fun x => x.index = small) with
  | none => none
  | some x =>
    if !x.dense && !memBit m x.mask p then none
    else
      let start := (before.map (blockBytes g m)).foldl (· + ·) 0 +
        (((smallsIn g m b).takeWhile (fun y => y.index ≠ small)).map Small.size).foldl (· + ·) 0
      let e := if x.dense then p else ((List.range p).filter (fun q => memBit m x.mask q)).length
      some { base := start, elem := e, scale := (bitmapScale g m n k).getD 0 }

/-- The place of stored element (n, k) of a BLOCKLIST tile. -/
def listSpot (g : Geometry) (m : Mem) (n k : Nat) : Option Spot :=
  let units := (sparseHead m).units
  match (List.range units).find? (fun i => entryRow (listEntry m i) = n / 64 ∧ entryCol (listEntry m i) = k / 64) with
  | none => none
  | some i =>
    let r := n % 64
    let c := k % 64
    let e := if g.fmt = 6 then (r / 16 * 4 + c / 16) * 256 + r % 16 * 16 + c % 16 else r * 64 + c
    let sc := if g.fmt = 5 then r * 4 + c / 16 else if g.fmt = 6 then r / 16 * 4 + c / 16 else r * 2 + c / 32
    some { base := i * (4096 * (shapeD g.fmt).bits / 8), elem := e, scale := valueSize g m + i * blockScales g.fmt + sc }

/-- The stored column of an N:4 tile that holds logical position k of row n, if one does (R233). -/
def storedCol (g : Geometry) (m : Mem) (n k : Nat) : Option Nat :=
  let per := if g.sf = 1 then 2 else 1
  ((List.range per).map (fun i => k / 4 * per + i)).find? (fun c => packedGet m 2 (256 + n * denseWidth g.fmt + c) = k % 4)

/-- Element and scale of logical position (n, k); none where nothing is stored. -/
def storedAt (g : Geometry) (m : Mem) (w : TileReg) (n k : Nat) : Option (Num × Nat) :=
  if sparseRows g.fmt ≤ n ∨ g.span ≤ k then none
  else if nOf4 g.sf then
    (storedCol g m n k).map (fun c => (elemNum g.fmt (elemCode w (n * denseWidth g.fmt + c)), scaleCode w (n * denseWidth g.fmt + c)))
  else
    (if g.sf = 3 then bitmapSpot g m n k else listSpot g m n k).map (fun x =>
      (elemNum g.fmt (bodyElem w x.base x.elem), if blockScales g.fmt = 0 then 0 else (bodyByte w x.scale).toNat))

/-- The positions at which something is stored. -/
def storedPositions (g : Geometry) (m : Mem) (w : TileReg) : List (Nat × Nat) :=
  if nOf4 g.sf then
    let per := if g.sf = 1 then 2 else 1
    (liveElems w).map (fun i =>
      let n := i / denseWidth g.fmt
      let c := i % denseWidth g.fmt
      (n, 4 * (c / per) + packedGet m 2 (256 + i)))
  else
    let blocks := if g.sf = 3 then presentBlocks g m
      else (List.range (sparseHead m).units).map (fun i => entryRow (listEntry m i) * gridCols g + entryCol (listEntry m i))
    (blocks.map (fun b => (List.range 4096).map (fun i => (b / gridCols g * 64 + i / 64, b % gridCols g * 64 + i % 64)))).flatten

/-- The scale of logical position (n, k): that of its element where one is stored, and in a present block of a BITMAP tile that of its block of
16 or 16 × 16 also where none is. -/
def scaleAt (g : Geometry) (m : Mem) (w : TileReg) (n k : Nat) : Nat :=
  match storedAt g m w n k with
  | some (_, c) => c
  | none =>
    if g.sf ≠ 3 ∨ blockScales g.fmt = 0 ∨ sparseRows g.fmt ≤ n ∨ g.span ≤ k then 0
    else match bitmapScale g m n k with | some a => (bodyByte w a).toNat | none => 0

/-- The decompressed weight operand; positions with nothing stored hold +0. -/
def sparseOperand (g : Geometry) (m : Mem) (w : TileReg) (tr : Bool) : Operand :=
  let at' := fun (r k : Nat) => if tr then storedAt g m w k r else storedAt g m w r k
  { fmt := g.fmt, rows := if tr then g.span else sparseRows g.fmt, depth := if tr then sparseRows g.fmt else g.span
    elem := fun r k => match at' r k with | some (e, _) => e | none => .fin false 0 1
    scale := fun r k => if tr then scaleAt g m w k r else scaleAt g m w r k
    live := (storedPositions g m w).map (fun x => if tr then (x.2, x.1) else x) }

/-! ### The schedule (R248, R249, R252) -/

/-- Present 64 × 64 blocks per block row. -/
def rowCounts (g : Geometry) (m : Mem) : List Nat :=
  let bs := if g.sf = 3 then (presentBlocks g m).map (fun b => b / gridCols g)
    else (List.range (sparseHead m).units).map (fun i => entryRow (listEntry m i))
  (List.range (gridRows g)).map (fun r => (bs.filter (fun x => x = r)).length)

/-- Passes, block rows in more than one run, and rows carried between passes of the sparse schedule. -/
def schedule (g : Geometry) (m : Mem) : Nat × Nat × Nat :=
  let runs := (rowCounts g m).map (fun c => (c + perLane g.fmt - 1) / perLane g.fmt)
  let total := runs.foldl (· + ·) 0
  let lanes := laneCount g.fmt
  let carried := (runs.foldl (fun (a : Nat × Nat) r => (a.1 + r, if a.1 < lanes ∧ lanes < a.1 + r then a.2 + 1 else a.2)) (0, 0)).2
  (max 1 ((total + lanes - 1) / lanes), (runs.filter (fun r => 1 < r)).length, carried)

/-- Whether a product runs the dense schedule (R252). -/
def runsDense (s : State) (site : Nat) (g : Geometry) (m : Mem) : Bool :=
  !nOf4 g.sf && !(decide ((schedule g m).1 < g.span / denseWidth g.fmt) && fld s site 0x15 ⟨0x040, 0, 0⟩ = 0)

/-- The pass of the sparse schedule in which position (n, k) of a BITMAP or BLOCKLIST tile is taken (R248). -/
def sparsePass (g : Geometry) (m : Mem) (n k : Nat) : Nat :=
  let runs := fun (c : Nat) => (c + perLane g.fmt - 1) / perLane g.fmt
  let counts := rowCounts g m
  let bs := if g.sf = 3 then presentBlocks g m
    else (List.range (sparseHead m).units).map (fun i => entryRow (listEntry m i) * gridCols g + entryCol (listEntry m i))
  let before := (bs.filter (fun b => b / gridCols g = n / 64 ∧ b % gridCols g < k / 64)).length
  (((counts.take (n / 64)).map runs).foldl (· + ·) 0 + before / perLane g.fmt) / laneCount g.fmt

/-- The weight positions of each pass (R248, R251, R252): an N:4 tile is one pass, a dense schedule takes one dense width a pass. -/
def sparsePasses (s : State) (site : Nat) (g : Geometry) (m : Mem) (tr : Bool) : List (Nat → Nat → Bool) :=
  if nOf4 g.sf then [fun _ _ => true]
  else if runsDense s site g m then
    (List.range (g.span / denseWidth g.fmt)).map (fun i => fun r k => decide ((if tr then r else k) / denseWidth g.fmt = i))
  else (List.range (schedule g m).1).map (fun i => fun r k => decide ((if tr then sparsePass g m k r else sparsePass g m r k) = i))

/-- The counts of a completed sparse product (R252, R253). DESIGN CHOICE (log entry 158): SX_SPLIT_ROWS and SX_CARRY count only what runs sparse,
since a dense schedule cuts and carries no row. -/
def countProduct (s : State) (site : Nat) (g : Geometry) (m : Mem) : State :=
  let s := bumpWrap s site 0x15 (wordFld 0x044) 1
  if nOf4 g.sf then bumpWrap s site 0x15 (wordFld 0x048) 1
  else
    let d := g.span / denseWidth g.fmt
    let (p, split, carry) := schedule g m
    if !runsDense s site g m then
      bump (bump (bumpWrap s site 0x15 (wordFld 0x048) p) site 0x15 (wordFld 0x050) split) site 0x15 (wordFld 0x054) carry
    else bump (bumpWrap s site 0x15 (wordFld 0x048) d) site 0x15 (wordFld 0x04C) 1

/-- A refusal of R240: counted, its offset held. -/
def noteRefusal (s : State) (site offset : Nat) : State :=
  setFld (bump s site 0x15 (wordFld 0x05C) 1) site 0x15 ⟨0x060, 23, 0⟩ offset

/-- A command refused by R240 or R237: counted, and its queue halts with the metadata offset as the record's detail (R441). -/
def metaRefused (s : State) (u : Issue) (h : Hdr) (code offset : Nat) : State × Ran :=
  (traceRec (raise (noteRefusal s u.site offset) (cmdReport u h code 3 0x15 offset)) u h 2, .halted)

/-! ### The metadata of a command -/

/-- What reading the metadata of a command gives: a range fault, a stain, or the metadata from its row on. -/
inductive MetaRead where
  | range
  | stained
  | ok (m : Mem)

/-- The metadata at a row: the 64-byte header, and as many bytes as it needs. A header that fails by itself, UNITS among its fields, is all
that is read (R240). -/
def readMeta (s : State) (u : Issue) (row sf : Nat) (fmt : Byte) : MetaRead :=
  let base := spBase s u.ctx + row
  let room := spRows s u.ctx
  if room ≤ row then .range
  else
    let avail := (room - row) * 128
    let m := rowsSlice s u.site base avail
    let g : Geometry := { sf := sf, fmt := fmt, span := (sparseHead m).span }
    let h := sparseHead m
    let many := if nOf4 sf then decide (h.units ≠ 0) else decide (perPass fmt < h.units)
    let n := if (firstFail ((headTests g m).take 6)).isSome || many then 64 else max 64 (metaSize g m)
    if avail < n then .range else if rowsStained s u.site base n then .stained else .ok m

/-! ### The commands -/

/-- SPARSE_PRODUCT (R244 to R252). It does not count in MX_PRODUCTS (R82): DESIGN CHOICE, log entry 119. -/
def sparseProductBody (o : SparseOps) : Body := fun h s u =>
  let p := o.product
  let sf := o.sparseFormat.toNat
  if !sparseKnown sf then refused s u h 0x0114 0x15
  else if 0x10 < p.wFormat.toNat then refused s u h 0x0120 0x15
  else if !spServed s u.site 0 then (s, .blocked false)
  else match readMeta s u o.metaRow.toNat sf p.wFormat with
    | .range => refused s u h 0x0308 0x15
    | .stained => (consumeStain s (cmdReport u h 0x0303 4 0x15 0), .halted)
    | .ok m =>
      match metaCheck sf p.wFormat m with
      | some (code, offset) => metaRefused s u h code offset
      | none =>
        let g : Geometry := { sf := sf, fmt := p.wFormat, span := (sparseHead m).span }
        let d := g.span / denseWidth g.fmt
        if !p.xFromSp && p.xReg.toNat % d ≠ 0 then refused s u h 0x0114 0x15
        else match productFault s u p d with
          | some code => refused s u h code 0x15
          | none =>
            if p.wTranspose && (nOf4 sf || d ≠ 1) then refused s u h 0x0121 0x15
            else if productStained s u p d then (consumeStain s (cmdReport u h 0x0303 4 0x15 0), .halted)
            else
              let c := coreAt s u.site
              let xs := streamedTiles s u p d
              let w := tileAt c p.wReg.toNat
              let pin : ProductIn :=
                { x := denseOperand xs p.xTranspose, w := sparseOperand g m w p.wTranspose, wT := p.wTranspose
                  sx := scaleFactor p.xFormat (streamedScale xs), sw := scaleFactor p.wFormat w.tileScale
                  rows := productRows p, side := outSide p.wFormat, upsets := p.upsets, wideZero := true
                  passes := sparsePasses s u.site g m p.wTranspose }
              let s := modCore s u.site (fun c => { noteOrientation c p d with loaded := none })
              (finishProduct (countProduct s u.site g m) u h p pin, .done)

/-- CHECK (R242): the outcome goes to the scalar register; a failure, of its operands too, is recorded and halts no queue (log entry 133). A
stain that it consumes ends its context (R278). -/
def sparseCheckBody (o : SparseOps) : Body := fun h s u =>
  let fmt := o.product.wFormat
  let sf := o.sparseFormat.toNat
  let fail := fun (s : State) (code offset : Nat) =>
    (writeOutcome (raise s (cmdReport u h code 2 0x15 offset)) u o.reg.toNat (BitVec.ofNat 64 (offset * 65536 + code)), Ran.done)
  if !sparseKnown sf then fail s 0x0114 0
  else if 0x10 < fmt.toNat then fail s 0x0120 0
  else if !spServed s u.site 0 then (s, .blocked false)
  else match readMeta s u o.metaRow.toNat sf fmt with
    | .range => fail s 0x0308 0
    | .stained => (consumeStain s (cmdReport u h 0x0303 4 0x15 0), .halted)
    | .ok m =>
      match metaCheck sf fmt m with
      | none => (writeOutcome s u o.reg.toNat 0, .done)
      | some (code, offset) => fail (noteRefusal s u.site offset) code offset

/-- An element of the encoder's source (R237): rows of span elements, then block scales over logical columns. -/
structure EncSource where
  fmt : Byte
  span : Nat
  rows : Nat
  m : Mem

def encWidth (e : EncSource) : Nat := (shapeD e.fmt).bits
def encIndex (e : EncSource) (r k : Nat) : Nat :=
  if e.fmt = 6 then (r / 16 * (e.span / 16) + k / 16) * 256 + r % 16 * 16 + k % 16 else r * e.span + k
def encCode (e : EncSource) (r k : Nat) : Nat := packedGet e.m (encWidth e) (encIndex e r k)
def encData (e : EncSource) : Nat := e.rows * e.span * encWidth e / 8
def encScaleAt (e : EncSource) (r k : Nat) : Nat :=
  if e.fmt = 6 then r / 16 * (e.span / 16) + k / 16 else if e.fmt = 5 ∨ e.fmt = 7 then r * (e.span / 16) + k / 16
  else r * (e.span / 32) + k / 32
def encScaled (e : EncSource) : Bool := hfBlock e.fmt || mxBlock e.fmt
def encScale (e : EncSource) (r k : Nat) : Nat := if encScaled e then (memByte e.m (encData e + encScaleAt e r k)).toNat else 0
def encScaleBytes (e : EncSource) : Nat :=
  if e.fmt = 6 then e.rows / 16 * (e.span / 16) else if e.fmt = 5 ∨ e.fmt = 7 then e.rows * (e.span / 16)
  else if mxBlock e.fmt then e.rows * (e.span / 32) else 0

/-- Whether an element counts as non-zero (R238): a block scale of 0x00 makes it zero in every format. -/
def encKept (e : EncSource) (r k : Nat) : Bool :=
  !(encScaled e && encScale e r k = 0) &&
  match scaleNum e.fmt (encScale e r k) with
  | none => true
  | some (n, _) => n ≠ 0 && (match elemNum e.fmt (encCode e r k) with | .fin _ v _ => v ≠ 0 | _ => true)

/-- A sparse image under construction: metadata after the header, body values and body scales, and blocks encoded dense. -/
structure Built where
  units : Nat
  tail : Mem
  tailBytes : Nat
  values : Mem
  valueBytes : Nat
  scales : Mem
  scaleBytes : Nat
  denseBlocks : Nat

/-- The indices an N:4 group keeps: its non-zero positions, and the lowest free ones for the rest, ascending. -/
def groupKeep (n : Nat) (kept : List Nat) : List Nat :=
  sortBy (fun a b => decide (a ≤ b)) (kept ++ ((List.range 4).filter (fun i => !kept.contains i)).take (n - kept.length))

/-- Scales of one 64 × 64 block, moved unchanged. -/
def movedScales (e : EncSource) (b64r b64c : Nat) : List Byte :=
  let at' := fun (r k : Nat) => BitVec.ofNat 8 (encScale e (b64r * 64 + r) (b64c * 64 + k))
  if e.fmt = 5 then (List.range 256).map (fun i => at' (i / 4) (i % 4 * 16))
  else if e.fmt = 6 then (List.range 16).map (fun i => at' (i / 4 * 16) (i % 4 * 16))
  else if mxBlock e.fmt then (List.range 128).map (fun i => at' (i / 2) (i % 2 * 32))
  else []

/-- Element codes packed from byte 0 (R42). -/
def packCodes (w : Nat) (codes : List Nat) : Mem := codes.zipIdx.foldl (fun m c => packedSet m w c.2 c.1) []

/-- One 16 × 16 block encoded: dense or not, mask bits kept, codes (R234, R239). -/
def encodeSmall (e : EncSource) (br bc : Nat) : Bool × List Nat × List Nat :=
  let kept := (List.range 256).filter (fun p => encKept e (br * 16 + p / 16) (bc * 16 + p % 16))
  let dense := decide (256 * encWidth e / 8 < 32 + (kept.length * encWidth e + 7) / 8)
  let ps := if dense then List.range 256 else kept
  (dense, kept, ps.map (fun p => encCode e (br * 16 + p / 16) (bc * 16 + p % 16)))

/-- A BITMAP image (R234). -/
def buildBitmap (e : EncSource) (g : Geometry) : Built :=
  let nb := smallCount g
  let start : Built := { units := 0, tail := [], tailBytes := nb / 4 + 8 * blockCount g, values := [], valueBytes := 0, scales := [], scaleBytes := 0, denseBlocks := 0 }
  (List.range (blockCount g)).foldl (fun t b =>
    let smalls := (smallsOf g b).map (fun i => (i, encodeSmall e (i / smallCols g) (i % smallCols g)))
    let live := smalls.filter (fun x => x.2.2.1 ≠ [])
    let entry := nb / 4 + 8 * b
    if live = [] then { t with tail := memStore t.tail entry (leBytes 8 0xFFFFFFFFFFFFFFFF) }
    else
      let maskNo := (t.tailBytes - nb / 4 - 8 * blockCount g) / 32
      let t := { t with tail := memStore t.tail entry (leBytes 4 maskNo ++ leBytes 4 t.valueBytes) }
      let t := live.foldl (fun (t : Built) x =>
        let tail := packedSet t.tail 1 x.1 1
        let size := packedBytes e.fmt x.2.2.2.length
        let t := { t with values := memSplice t.values t.valueBytes size (packCodes (encWidth e) x.2.2.2), valueBytes := t.valueBytes + size }
        if x.2.1 then { t with tail := packedSet tail 1 (nb + x.1) 1, denseBlocks := t.denseBlocks + 1 }
        else { t with tail := memSplice tail t.tailBytes 32 (x.2.2.1.foldl (fun m p => packedSet m 1 p 1) []), tailBytes := t.tailBytes + 32 }) t
      let sc := movedScales e (b / gridCols g) (b % gridCols g)
      { t with units := t.units + 1, scales := memStore t.scales t.scaleBytes sc, scaleBytes := t.scaleBytes + sc.length }) start

/-- A BLOCKLIST image (R235). -/
def buildList (e : EncSource) (g : Geometry) : Built :=
  (List.range (blockCount g)).foldl (fun t b =>
    let r0 := b / gridCols g * 64
    let c0 := b % gridCols g * 64
    if !(List.range 4096).any (fun i => encKept e (r0 + i / 64) (c0 + i % 64)) then t
    else
      let codes := (List.range 4096).map (fun i =>
        if e.fmt = 6 then encCode e (r0 + i / 1024 * 16 + i % 256 / 16) (c0 + i / 256 % 4 * 16 + i % 16) else encCode e (r0 + i / 64) (c0 + i % 64))
      let size := 4096 * encWidth e / 8
      let sc := movedScales e (b / gridCols g) (b % gridCols g)
      { t with units := t.units + 1
               tail := memStore t.tail t.tailBytes (leBytes 4 (b % gridCols g + b / gridCols g * 256))
               tailBytes := t.tailBytes + 4
               values := memSplice t.values t.valueBytes size (packCodes (encWidth e) codes)
               valueBytes := t.valueBytes + size
               scales := memStore t.scales t.scaleBytes sc
               scaleBytes := t.scaleBytes + sc.length })
    { units := 0, tail := [], tailBytes := 0, values := [], valueBytes := 0, scales := [], scaleBytes := 0, denseBlocks := 0 }

/-- The metadata of a built image: header, then its parts (R232). -/
def builtMeta (g : Geometry) (b : Built) : Mem :=
  let head := leBytes 4 0x4D50534C ++ leBytes 1 g.sf ++ leBytes 1 g.fmt.toNat ++ leBytes 2 (sparseRows g.fmt) ++ leBytes 4 g.span ++
    leBytes 2 b.units ++ leBytes 2 0 ++ leBytes 4 b.valueBytes ++ leBytes 4 b.scaleBytes ++ leBytes 4 (64 + b.tailBytes)
  memSplice (memOf head) 64 b.tailBytes b.tail

/-- Writes a built image to the scratchpad. -/
def writeBuilt (s : State) (u : Issue) (o : EncodeOps) (g : Geometry) (b : Built) : State :=
  let base := spBase s u.ctx
  let s := scratchSplice s (rowKey u.site (base + o.metaRow.toNat)) (64 + b.tailBytes) (builtMeta g b) false
  scratchSplice s (rowKey u.site (base + o.bodyRow.toNat)) (b.valueBytes + b.scaleBytes) (memSplice b.values b.valueBytes b.scaleBytes b.scales) false

/-- Whether a built image fits its destinations. -/
def builtFits (s : State) (u : Issue) (o : EncodeOps) (b : Built) : Bool :=
  o.metaRow.toNat + (64 + b.tailBytes + 127) / 128 ≤ spRows s u.ctx &&
    o.bodyRow.toNat + (b.valueBytes + b.scaleBytes + 127) / 128 ≤ spRows s u.ctx

/-- The rows of a source in which some byte is listed, as groups of four positions with their non-zero members. -/
def groupKept (e : EncSource) (r q : Nat) : List Nat := (List.range 4).filter (fun i => encKept e r (4 * q + i))

/-- An N:4 encode: kept values quantised to the stored tile through the slot (R237). -/
def encodeNOf4 (o : EncodeOps) (g : Geometry) (e : EncSource) : Body := fun h s u =>
  let n := if g.sf = 1 then 2 else 1
  let groups := e.span / 4
  if (List.range (e.rows * groups)).any (fun i => n < (groupKept e (i / groups) (i % groups)).length) then
    metaRefused s u h 0x0806 0
  else
    let w := denseWidth g.fmt
    let keep := (List.range (e.rows * groups)).map (fun i => (i, groupKeep n (groupKept e (i / groups) (i % groups))))
    let stored := (keep.map (fun k => k.2.zipIdx.map (fun x =>
      (k.1 / groups * w + k.1 % groups * n + x.2, x.1, to32 .rne (elemNum e.fmt (encCode e (k.1 / groups) (4 * (k.1 % groups) + x.1))))))).flatten
    let vals := (stored.map (fun x => (x.1, x.2.2))).filter (fun x => x.2 ≠ 0)
    let idx := packCodes 2 (stored.map (fun x => x.2.1))
    let sh := shapeD g.fmt
    let shape : Built := { units := 0, tail := idx, tailBytes := sh.rows * sh.cols / 4, values := [], valueBytes := sh.dataBytes, scales := [], scaleBytes := sh.scaleBytes, denseBlocks := 0 }
    if !builtFits s u o shape then refused s u h 0x0308 0x15
    else match convertTile s u h 2 o.slot.toNat g.fmt (rounding s u o.round.toNat o.tensorId o.tileIndex) vals none 0 with
      | .error code => refused s u h code 0x15
      | .ok (s, enc, _) => (writeBuilt s u o g { shape with values := enc.data, scales := enc.scales }, .done)

/-- ENCODE (R237 to R239). DESIGN CHOICE (log entry 158): its refusals count in SX_META_FAULTS and set SX_FAULT_DETAIL to 0, since R240 lists
their codes and gives no metadata offset. -/
def sparseEncodeBody (o : EncodeOps) : Body := fun h s u =>
  let sf := o.sparseFormat.toNat
  let fmt := o.valueFormat
  let span := 2 ^ o.kspanLog2.toNat
  if !sparseKnown sf then refused s u h 0x0114 0x15
  else if 0x10 < fmt.toNat ∨ 0x10 < o.srcFormat.toNat then refused s u h 0x0120 0x15
  else if !valueAccepted sf fmt then metaRefused s u h 0x0805 0
  else if (if nOf4 sf then 1 < o.srcFormat.toNat else o.srcFormat ≠ fmt) ∨ o.kspanLog2.toNat < 9 ∨ 12 < o.kspanLog2.toNat ∨ !spanOk sf fmt span then
    refused s u h 0x0114 0x15
  else
    let base := spBase s u.ctx + o.srcRow.toNat
    let e0 : EncSource := { fmt := o.srcFormat, span := span, rows := sparseRows fmt, m := [] }
    let bytes := encData e0 + encScaleBytes e0
    if spRows s u.ctx < o.srcRow.toNat + (bytes + 127) / 128 then refused s u h 0x0308 0x15
    else if !spServed s u.site 0 then (s, .blocked false)
    else if rowsStained s u.site base bytes then (consumeStain s (cmdReport u h 0x0303 4 0x15 0), .halted)
    else
      let e := { e0 with m := rowsSlice s u.site base bytes }
      let g : Geometry := { sf := sf, fmt := fmt, span := span }
      if nOf4 sf then encodeNOf4 o g e h s u
      else
        let b := if sf = 3 then buildBitmap e g else buildList e g
        if perPass fmt < b.units then metaRefused s u h 0x0807 0
        else if !builtFits s u o b then refused s u h 0x0308 0x15
        else (writeBuilt (bump s u.site 0x15 (wordFld 0x058) b.denseBlocks) u o g b, .done)

def execSparseProduct (h : Hdr) (o : SparseOps) (s : State) : Answer :=
  .next (engineCmd (.sparseProduct h o) h false .sparse 4 (sparseProductBody o) s)
def execSparseEncode (h : Hdr) (o : EncodeOps) (s : State) : Answer :=
  .next (engineCmd (.sparseEncode h o) h false .sparse 4 (sparseEncodeBody o) s)
def execSparseCheck (h : Hdr) (o : SparseOps) (s : State) : Answer :=
  .next (engineCmd (.sparseCheck h o) h false .sparse 4 (sparseCheckBody o) s)
def execSparseSlotSetup (h : Hdr) (o : SetupOps) (s : State) : Answer :=
  .next (engineCmd (.sparseSlotSetup h o) h false .sparse 4 (setupBody 2 0x15 o) s)

end Sys2Proof.Machine
end

