-- ==== Sys2Proof/Machine/Stream.lean ====
section
/-!
DEFINITION. Stream.lean: stream descriptors (R289 to R295), their commands (R296 to R298), units and their data (R291 to R294),
admission (R302 to R305), completion and breaches (R306), and the weight window of a core (R309 to R311).
-/
namespace Sys2Proof.Machine

/-! ### Descriptor images (R289, R295) -/

/-- A descriptor image from its 128 bytes. -/
def parseDesc (b : List Byte) : DescImage :=
  let path := leAt b 1 1
  { kind := leAt b 0 1, out := bitOf path 7, nearKind := bitsOf path 6 4, farKind := bitsOf path 3 0, format := BitVec.ofNat 8 (leAt b 2 1)
    unit := leAt b 3 1, tileRows := leAt b 4 2, tileCols := leAt b 6 2, farBase := BitVec.ofNat 64 (leAt b 8 8)
    nearBase := BitVec.ofNat 64 (leAt b 0x10 8), bufStride := leAt b 0x18 4, bufCount := leAt b 0x1C 1, dims := leAt b 0x1D 1
    srcFormat := BitVec.ofNat 8 (leAt b 0x1E 1), round := BitVec.ofNat 8 (leAt b 0x1F 1), scaleTable := BitVec.ofNat 64 (leAt b 0x20 8)
    rate := leAt b 0x28 4, cvt := BitVec.ofNat 32 (leAt b 0x2C 4)
    dim := (List.range 5).map (fun i => (leAt b (0x30 + 16 * i) 4, leAt b (0x34 + 16 * i) 4, signedOf 64 (leAt b (0x38 + 16 * i) 8))) }

/-- Whether the stream converts on store (R294). -/
def converts (d : DescImage) : Bool := d.srcFormat ≠ 0xFF
/-- The dimensions in use. -/
def usedDims (d : DescImage) : List (Nat × Nat × Int) := d.dim.take d.dims
/-- Units of the walk. -/
def unitTotal (d : DescImage) : Nat := (usedDims d).foldl (fun n x => n * x.2.1) 1
/-- Strips per tile, and the data and scale bytes of a strip (R260). -/
def stripCount (fmt : Byte) : Nat := (shapeD fmt).rows / 64
def stripData (fmt : Byte) : Nat := (shapeD fmt).dataBytes / stripCount fmt
def stripScales (fmt : Byte) : Nat := (shapeD fmt).scaleBytes / stripCount fmt
/-- The unit size U (R292). -/
def unitBytes (d : DescImage) : Nat :=
  if d.unit = 0 then imageBytes d.format else if d.unit = 1 then stripData d.format + stripScales d.format else d.tileRows * 128
/-- Bytes of one near buffer (R294 for a converting stream). -/
def nearBytes (d : DescImage) : Nat :=
  if converts d then (shapeD d.format).rows * (shapeD d.format).cols * (if d.srcFormat = 0 then 4 else 2) else unitBytes d
/-- FAR_BASE by kind (R290): a context address, or bytes from row 0 of a scratchpad region. -/
def farBaseOf (d : DescImage) : Int :=
  if d.farKind = 0 then (d.farBase.toNat % 2 ^ 48 : Nat) else if d.farKind = 3 then 0 else (d.farBase.toNat % 2 ^ 21 * 128 : Nat)
def nearBaseOf (d : DescImage) : Nat := if d.nearKind = 0 then d.nearBase.toNat % 2 ^ 21 else d.nearBase.toNat % 16
def peerCore (d : DescImage) : Nat := bitsOf d.farBase.toNat 62 56

/-- The indices of unit n, dimension 0 fastest (R291). -/
def walkIndex : List (Nat × Nat × Int) → Nat → List Nat
  | [], _ => []
  | x :: r, n => n % x.2.1 :: walkIndex r (n / x.2.1)
/-- far(n) − FAR_BASE. -/
def farOffset (d : DescImage) (n : Nat) : Int :=
  ((usedDims d).zip (walkIndex (usedDims d) n)).foldl (fun a x => a + ((x.1.1 + x.2 : Nat) : Int) * x.1.2.2) 0
def farOf (d : DescImage) (n : Nat) : Int := farBaseOf d + farOffset d n
/-- The strip that unit n names (R292). -/
def stripOf (d : DescImage) (n : Nat) : Nat := match d.dim with | x :: _ => x.1 + n % x.2.1 | [] => 0
/-- The buffer of unit n. -/
def bufferOf (d : DescImage) (n : Nat) : Nat := n % d.bufCount

/-- Whether base + offset is a multiple of m at every unit of the walk. -/
def walkAligned (d : DescImage) (base : Int) (m : Nat) : Bool :=
  decide ((base + (usedDims d).foldl (fun a x => a + (x.1 : Int) * x.2.2) 0) % (m : Int) = 0) &&
    (usedDims d).all (fun x => x.2.1 ≤ 1 || decide (x.2.2 % (m : Int) = 0))

/-- Formats a quantised image can have (R211, R294). -/
def quantFormat (fmt : Byte) : Bool := (shapeOf fmt).isSome

/-- Reserved bits of the bases (R290). -/
def basesClean (d : DescImage) : Bool :=
  (if d.farKind = 0 then d.farBase.toNat < 2 ^ 48 else if d.farKind = 1 then d.farBase.toNat < 2 ^ 21
   else if d.farKind = 2 then d.farBase.toNat % 2 ^ 56 < 2 ^ 21 && d.farBase.toNat < 2 ^ 63 else d.farBase = 0) &&
  (if d.nearKind = 0 then d.nearBase.toNat < 2 ^ 21 else d.nearBase.toNat < 16)

/-- Whether the converting fields keep R294, or are 0 in a stream that does not convert. -/
def convertClean (d : DescImage) : Bool :=
  if converts d then
    d.out && d.srcFormat.toNat ≤ 2 && quantFormat d.format && 2 < d.format.toNat && d.unit = 0 && d.nearKind = 0 && d.farKind ≠ 3 &&
      d.round.toNat < 4 && (!tileScaled d.format || d.scaleTable.toNat % 2 ^ 48 ≠ 0)
  else d.round = 0 && d.cvt = 0 && d.scaleTable.toNat < 2 ^ 48

/-- Whether SCALE_TABLE keeps R293. -/
def tableClean (d : DescImage) : Bool :=
  if tileScaled d.format && d.farKind ≠ 3 && (d.nearKind = 1 || converts d) then
    d.scaleTable.toNat % 2 ^ 48 ≠ 0 && walkAligned d 0 (imageBytes d.format)
  else true

/-- Whether an image is accepted (R295). -/
def descOk (d : DescImage) : Bool :=
  d.kind ≤ 1 && d.unit ≤ 2 && d.nearKind ≤ 1 && d.farKind ≤ 3 &&
  (d.farKind ≠ 3 || (!d.out && d.nearKind = 1 && d.unit = 0)) &&
  (if d.unit = 2 then (d.format = 0xFF || d.format.toNat ≤ 0x10) && 1 ≤ d.tileRows && d.tileRows ≤ 4096 else (shapeOf d.format).isSome) &&
  (d.unit = 0 || d.tileCols = 0) &&
  1 ≤ d.dims && d.dims ≤ 5 && (usedDims d).all (fun x => x.2.1 ≠ 0) && unitTotal d ≤ 2 ^ 24 &&
  (d.dim.drop d.dims).all (fun x => x.1 = 0 && x.2.1 = 0 && x.2.2 = 0) &&
  (d.unit ≠ 1 || (match d.dim with | x :: _ => x.2.2 = 0 && x.1 + x.2.1 ≤ stripCount d.format | [] => false)) &&
  1 ≤ d.bufCount && d.bufCount ≤ 16 &&
  (if d.nearKind = 1 then nearBaseOf d + d.bufCount ≤ 16 && d.bufStride = 0 else (nearBytes d + 127) / 128 ≤ d.bufStride) &&
  (d.farKind = 3 || walkAligned d (farBaseOf d) (if d.farKind = 0 then 64 else 128)) &&
  (if d.kind = 1 then d.rate ≠ 0 && d.bufCount ≠ 1 else d.rate = 0) &&
  basesClean d && convertClean d && tableClean d

/-! ### Where bytes stand, and their stains (R276) -/

/-- The pieces of a unit on its far side, as (offset from far(n), offset in the unit, length). A strip has data and scales (R292). -/
def unitPieces (d : DescImage) (n : Nat) : List (Nat × Nat × Nat) :=
  if d.unit = 1 then
    let j := stripOf d n
    [(j * stripData d.format, 0, stripData d.format),
     ((shapeD d.format).dataBytes + j * stripScales d.format, stripData d.format, stripScales d.format)].filter (fun x => x.2.2 ≠ 0)
  else [(0, 0, unitBytes d)]

/-- The site whose scratchpad a SCRATCH or PEER far side walks. -/
def farSite (s : State) (u : Issue) (d : DescImage) : Nat := if d.farKind = 2 then (siteOf s (peerCore d)).getD 0 else u.site

/-- The fault of a far range (R257). -/
def farFault (s : State) (u : Issue) (d : DescImage) (a : Int) (n : Nat) : Option Nat :=
  if d.farKind = 0 then
    match ctxAt s u.ctx with
    | none => some 0x0307
    | some x => if 0 ≤ a ∧ mapped x a.toNat n then none else some 0x0307
  else if 0 ≤ a ∧ a.toNat / 128 + (a.toNat % 128 + n + 127) / 128 ≤ spRows s u.ctx then none else some 0x0308

/-- Whether a far range stands on an offline page (R281). -/
def farOffline (s : State) (u : Issue) (d : DescImage) (a : Int) (n : Nat) : Bool :=
  d.farKind = 0 && (match ctxAt s u.ctx with | some x => offline s x a.toNat n | none => false)

/-- The table entry of unit n. -/
def entryAddr (d : DescImage) (n : Nat) : Int :=
  (d.scaleTable.toNat % 2 ^ 48 : Nat) + 4 * (farOffset d n / ((imageBytes d.format : Nat) : Int))

/-- The host's lines in the far ranges of a unit and in its tile-scale entry, for which the module asks (R411). -/
def unitHost (s : State) (u : Issue) (d : DescImage) (n : Nat) : List Nat :=
  if d.farKind ≠ 0 then []
  else
    let table := if tileScaled d.format && (d.nearKind = 1 || converts d) then hostLines s u.ctx (entryAddr d n).toNat 4 d.out else []
    ((unitPieces d n).map (fun p => hostLines s u.ctx (farOf d n + (p.1 : Int)).toNat p.2.2 d.out)).flatten ++ table

/-- The part of stained granules of a size that falls in bytes k to k + n − 1, from offset 0. -/
def stainRanges (stains : List Nat) (size k n : Nat) : List (Nat × Nat) :=
  stains.filterMap (fun g =>
    let a := max (g * size) k
    let e := min ((g + 1) * size) (k + n)
    if a < e then some (a - k, e - a) else none)

/-- Stained ranges of a context range. -/
def ctxStainRanges (s : State) (x : Ctx) (a n : Nat) : List (Nat × Nat) :=
  ((pieces x a n).map (fun y =>
    if y.1.stain then [(y.2.2.1, y.2.2.2)]
    else (stainRanges (if y.1.fabric then s.store.stainFabric else s.store.stainStack) 64 (pteKey y.1 y.2.1) y.2.2.2).map
      (fun r => (r.1 + y.2.2.1, r.2)))).flatten

/-- Marks the granules of a scratchpad byte range as stained. -/
def stainScratchRange (s : State) (key n : Nat) : State :=
  { s with store := { s.store with stainScratch := stainWrite s.store.stainScratch 128 key n true } }

/-- Marks the granules of a context range as stained. -/
def stainCtxRange (s : State) (x : Ctx) (a n : Nat) : State :=
  (pieces x a n).foldl (fun s y =>
    if y.1.state = 2 then s
    else if y.1.fabric then { s with store := { s.store with stainFabric := stainWrite s.store.stainFabric 64 (pteKey y.1 y.2.1) y.2.2.2 true } }
    else { s with store := { s.store with stainStack := stainWrite s.store.stainStack 64 (pteKey y.1 y.2.1) y.2.2.2 true } }) s

/-- A unit's bytes with its stained ranges. -/
abbrev Bytes := Mem × List (Nat × Nat)

/-- Reads a far range that farFault accepts. -/
def farRead (s : State) (u : Issue) (d : DescImage) (a : Int) (n : Nat) : Bytes :=
  if d.farKind = 0 then
    match ctxAt s u.ctx with
    | some x => (ctxSlice s x a.toNat n, ctxStainRanges s x a.toNat n)
    | none => ([], [])
  else
    let key := rowKey (farSite s u d) (spBase s u.ctx) + a.toNat
    (memSlice s.store.scratch key n, stainRanges s.store.stainScratch 128 key n)

/-- Writes a far range that farFault accepts. -/
def farWrite (s : State) (u : Issue) (d : DescImage) (a : Int) (n : Nat) (b : Bytes) : State :=
  if d.farKind = 0 then
    match ctxAt s u.ctx with
    | some x => b.2.foldl (fun s r => stainCtxRange s x (a.toNat + r.1) r.2) (ctxSplice s u.ctx x a.toNat n b.1 false)
    | none => s
  else
    let key := rowKey (farSite s u d) (spBase s u.ctx) + a.toNat
    b.2.foldl (fun s r => stainScratchRange s (key + r.1) r.2) (scratchSplice s key n b.1 false)

/-- Part of a unit's bytes from an offset. -/
def bytesPart (b : Bytes) (o n : Nat) : Bytes := (memSlice b.1 o n, b.2.filterMap (fun r =>
  let a := max r.1 o
  let e := min (r.1 + r.2) (o + n)
  if a < e then some (a - o, e - a) else none))

/-- The whole unit from its far side. -/
def gather (s : State) (u : Issue) (d : DescImage) (n : Nat) : Bytes :=
  (unitPieces d n).foldl (fun m p =>
    let b := farRead s u d (farOf d n + (p.1 : Int)) p.2.2
    (memSplice m.1 p.2.1 p.2.2 b.1, m.2 ++ b.2.map (fun r => (r.1 + p.2.1, r.2)))) ([], [])

/-- The whole unit to its far side. -/
def scatter (s : State) (u : Issue) (d : DescImage) (n : Nat) (b : Bytes) : State :=
  (unitPieces d n).foldl (fun s p => farWrite s u d (farOf d n + (p.1 : Int)) p.2.2 (bytesPart b p.2.1 p.2.2)) s

/-- The row of a tile register that holds a byte of its image (R273). -/
def rowOfByte (fmt : Byte) (b : Nat) : Nat :=
  let sh := shapeD fmt
  if b < sh.dataBytes then (if fmt = 6 then b / 128 / 64 * 16 + b % 128 / 8 else b / (sh.dataBytes / sh.rows))
  else if fmt = 6 then (b - sh.dataBytes) / 64 * 16
  else (b - sh.dataBytes) * sh.rows / max 1 sh.scaleBytes

/-- The bytes of a register's image that a stained row covers. -/
def rowRanges (fmt : Byte) (r : Nat) : List (Nat × Nat) :=
  let sh := shapeD fmt
  if fmt = 6 then (List.range 64).map (fun c => ((r / 16 * 64 + c) * 128 + r % 16 * 8, 8)) ++
    (if r % 16 = 0 then [(sh.dataBytes + r / 16 * 64, 64)] else [])
  else (r * (sh.dataBytes / sh.rows), sh.dataBytes / sh.rows) ::
    (if sh.scaleBytes = 0 then [] else [(sh.dataBytes + r * (sh.scaleBytes / sh.rows), sh.scaleBytes / sh.rows)])

/-- The rows that stained ranges of an image touch. -/
def rowsOfRanges (fmt : Byte) (rs : List (Nat × Nat)) : List Nat :=
  ((rs.map (fun r => (List.range r.2).map (fun i => rowOfByte fmt (r.1 + i)))).flatten).eraseDups

/-! ### Tile scales (R261, R293) -/

/-- What reading a tile-scale entry gives. -/
inductive Entry where
  | fault (code : Nat)
  | stained
  | wait
  | ok (v : F32)

/-- An entry of a tile-scale table; one on an offline page is waited for (R281). -/
def readEntry (s : State) (u : Issue) (a : Int) : Entry :=
  match ctxAt s u.ctx with
  | none => .fault 0x0307
  | some x =>
    if a < 0 ∨ !mapped x a.toNat 4 then .fault 0x0307
    else if offline s x a.toNat 4 then .wait
    else if ctxStained s x a.toNat 4 then .stained
    else .ok (BitVec.ofNat 32 (leNat (memBytes (ctxSlice s x a.toNat 4) 0 4)))

/-! ### Moving a unit -/

/-- The reaches at the far side of a unit: those of its pages, or its peer's (R259, R326). -/
def unitReaches (s : State) (u : Issue) (d : DescImage) (n : Nat) : List Nat :=
  if d.farKind = 0 then
    let ps := ((unitPieces d n).map (fun p =>
      let a := (farOf d n + (p.1 : Int)).toNat
      (List.range ((a + p.2.2 - 1) / 2 ^ 21 - a / 2 ^ 21 + 1)).map (fun i => a / 2 ^ 21 + i))).flatten
    ((ps.filterMap (fun p => (ctxAt s u.ctx).bind (fun x => tFind x.pt p))).map
      (fun e => if e.fabric then 72 + pagePort s e else e.place / 2)).eraseDups
  else if d.farKind = 2 then (siteOf s (peerCore d)).toList
  else []

/-- Whether a unit's packets do not go now (R332, R342). -/
def unitHeld (s : State) (u : Issue) (d : DescImage) (n : Nat) : Bool :=
  (unitReaches s u d n).any (fun r => decide (r ≠ u.site) && (if d.out then packetHeld s u.site r else packetHeld s r u.site))

/-- The router that drops a unit's packets, where no route leads between its two sides (R331). -/
def unitDrop (s : State) (u : Issue) (d : DescImage) (n : Nat) : Option Nat :=
  (unitReaches s u d n).findSome? (fun r => if d.out then dropAt s u.site r else dropAt s r u.site)

/-- How the move of a unit ended. -/
inductive Moved where
  | ok (s : State)
  | fault (code : Nat)
  | stained
  | wait (offline : Bool)
  | dropped (router : Nat)

/-- The rows of a scratchpad buffer lie in the region (R257). -/
def nearFault (s : State) (u : Issue) (d : DescImage) (n : Nat) : Option Nat :=
  if d.nearKind = 0 ∧ spRows s u.ctx < nearBaseOf d + bufferOf d n * d.bufStride + (nearBytes d + 127) / 128 then some 0x0308 else none

/-- Scratchpad byte key of unit n's buffer. -/
def nearKey (s : State) (u : Issue) (d : DescImage) (n : Nat) : Nat :=
  rowKey u.site (spBase s u.ctx + nearBaseOf d + bufferOf d n * d.bufStride)

/-- A unit lands in a tile register: a whole tile, one strip of it, or rows of a block from its first byte (R567; log entry 29). -/
def landRegister (c : Core) (d : DescImage) (n : Nat) (b : Bytes) (scale : F32) : Core :=
  let k := nearBaseOf d + bufferOf d n
  let old := tileAt c k
  let fmt := if (shapeOf d.format).isSome then d.format else old.format
  let base := if old.format = fmt then imageOfTile old else []
  let place := fun (r : Nat × Nat) => -- a range of the unit in the image
    if d.unit = 1 then
      let j := stripOf d n
      if r.1 < stripData fmt then (r.1 + j * stripData fmt, r.2)
      else (r.1 - stripData fmt + (shapeD fmt).dataBytes + j * stripScales fmt, r.2)
    else r
  let image := if d.unit = 0 then b.1
    else if d.unit = 1 then
      let j := stripOf d n
      memSplice (memSplice base (j * stripData fmt) (stripData fmt) (memSlice b.1 0 (stripData fmt)))
        ((shapeD fmt).dataBytes + j * stripScales fmt) (stripScales fmt) (memSlice b.1 (stripData fmt) (stripScales fmt))
    else memSplice base 0 (unitBytes d) b.1
  let written := if d.unit = 0 then List.range 1024
    else if d.unit = 1 then (List.range 64).map (fun i => stripOf d n * 64 + i)
    else (List.range 1024).filter (fun r => (rowRanges fmt r).all (fun x => x.1 + x.2 ≤ unitBytes d))
  let kept := if old.format = fmt then (c.stainRows.filter (fun r => r / 1024 = k ∧ !written.contains (r % 1024))).map (fun r => r % 1024) else []
  let tile := { tileOfImage fmt image (if tileScaled fmt then scale else old.tileScale) with
    rows := if d.unit = 0 then d.tileRows else 0
    cols := if d.unit = 0 then d.tileCols else 0 }
  setRegStain (setTile c k tile) k ((kept ++ rowsOfRanges fmt (b.2.map place)).eraseDups)

/-- Rows of a weight-window slot: a header row and the largest tile image of the schedule (R309). -/
def wwSlotRows (s : State) (c : Nat) : Nat :=
  1 + (match (ctxAt s c).bind Ctx.loaded with
    | some l => l.params.foldl (fun n p => max n (imageRows p.format)) 0
    | none => 0)

/-- Ring slots and the first row of the ring on a core (R323). -/
def wwTiles (s : State) (site : Nat) : Nat := fld s site 0x16 ⟨0x06C, 6, 0⟩
def wwRing (s : State) (site : Nat) : Nat := fld s site 0x16 ⟨0x068, 20, 0⟩
/-- Tiles of a parameter entry's grid (R41, R308). -/
def paramTiles (p : Param) : Nat :=
  ((p.rows + (shapeD p.format).rows - 1) / (shapeD p.format).rows) * ((p.cols + (shapeD p.format).cols - 1) / (shapeD p.format).cols)
/-- The entries of the forward schedule in order: layers as declared, entries in PARAMETERS order (R308). -/
def tileSchedule (l : Loaded) : List Param := (l.layers.map (fun y => l.params.filter (fun p => p.layer = y))).flatten
/-- Tiles of the forward schedule, which is also the number U of R372. -/
def scheduleTotal (l : Loaded) : Nat := (tileSchedule l).foldl (fun n p => n + paramTiles p) 0
/-- The entry and tile at place n of a list of entries. -/
def tileAtPlace : List Param → Nat → Option (Param × Nat)
  | [], _ => none
  | p :: r, n => if n < paramTiles p then some (p, n) else tileAtPlace r (n - paramTiles p)
/-- The tile of schedule position n: forward below U, then the forward schedule reversed (R308). -/
def scheduleTile (l : Loaded) (n : Nat) : Option (Param × Nat) :=
  let t := scheduleTotal l
  if n < t then tileAtPlace (tileSchedule l) n else if n < 2 * t then tileAtPlace (tileSchedule l) (2 * t - 1 - n) else none
/-- Whether every core of the layout has skipped the layer of schedule position n in this step (R141, R313). -/
def posSkipped (s : State) (l : Loaded) (n : Nat) : Bool :=
  match scheduleTile l n with
  | some (p, _) => l.width ≤ (tGet [] s.step.skipped ((if n < scheduleTotal l then 0 else 65536) + p.layer)).length
  | none => false
/-- Whether position n of the backward schedule is a tile kept at the turn; a tile that the forward pass skipped is not (R312). -/
def keptAt (s : State) (l : Loaded) (tiles n : Nat) : Bool :=
  scheduleTotal l ≤ n && n < scheduleTotal l + min tiles (scheduleTotal l) && !posSkipped s l (2 * scheduleTotal l - 1 - n)
/-- The ring slot of schedule position n: n mod SL_WW_TILES, and for a kept tile the slot of its forward position (R309, R312). -/
def wwSlot (s : State) (l : Option Loaded) (tiles n : Nat) : Nat :=
  match l with
  | some l => if keptAt s l tiles n then (2 * scheduleTotal l - 1 - n) % max 1 tiles else n % max 1 tiles
  | none => n % max 1 tiles
/-- The row of the slot of schedule position n. -/
def wwRow (s : State) (c site n : Nat) : Nat :=
  wwRing s site + wwSlot s ((ctxAt s c).bind Ctx.loaded) (wwTiles s site) n * wwSlotRows s c

/-- Header bytes of a ring slot, in the order R309 lists them (log entry 30). -/
def wwHeader (tensor tile : Nat) (fmt : Byte) (scale : F32) : List Byte :=
  leBytes 2 tensor ++ leBytes 4 tile ++ [fmt] ++ leBytes 4 scale.toNat

/-- Whether the tile of schedule position n has been multicast by its feeder (R310), for a kept tile at its forward position (R312). -/
def wwFed (s : State) (l : Loaded) (tiles n : Nat) : Bool :=
  let k := if keptAt s l tiles n then 2 * scheduleTotal l - 1 - n else n
  n < 2 * scheduleTotal l && decide (k < (portAt s (k % 4)).feedPos)

/-- The schedule position that a core reads next: the first that is not skipped (R311, R313). -/
def wwNext (s : State) (c site : Nat) : Nat :=
  let pos := (coreAt s site).wwPos
  match (ctxAt s c).bind Ctx.loaded with
  | some l => (((List.range (2 * scheduleTotal l)).drop pos).find? (fun n => !posSkipped s l n)).getD (2 * scheduleTotal l)
  | none => pos

/-- Whether the tile of schedule position n stands in the ring. -/
def wwLanded (s : State) (c site n : Nat) : Bool :=
  match (ctxAt s c).bind Ctx.loaded with
  | some l => wwFed s l (wwTiles s site) n
  | none => false

/-- An IN unit of the weight window: the next tile of the schedule (R311). Its header's tile scale is taken where the format has one (R278, R293). -/
def moveWeight (s : State) (u : Issue) (d : DescImage) (n : Nat) : Moved :=
  let pos := wwNext s u.ctx u.site
  if wwTiles s u.site = 0 ∨ !wwLanded s u.ctx u.site pos ∨ !spServed s u.site 1 then .wait false
  else
    let row := spBase s u.ctx + wwRow s u.ctx u.site pos
    let key := rowKey u.site row
    let scale := BitVec.ofNat 32 (leNat (memBytes s.store.scratch (key + 7) 4))
    if tileScaled d.format && rowsStained s u.site row 1 then .stained
    else if tileScaled d.format && !posNormal32 scale then .fault 0x0114
    else
      let b : Bytes := (memSlice s.store.scratch (key + 128) (unitBytes d), stainRanges s.store.stainScratch 128 (key + 128) (unitBytes d))
      .ok (modCore s u.site (fun c => { landRegister c d n b scale with wwPos := pos + 1 }))

/-- An IN unit (R291 to R293). -/
def moveIn (s : State) (u : Issue) (d : DescImage) (n : Nat) : Moved :=
  let b := gather s u d n
  if d.nearKind = 0 then
    let key := nearKey s u d n
    .ok (b.2.foldl (fun s r => stainScratchRange s (key + r.1) r.2) (scratchSplice s key (unitBytes d) b.1 false))
  else if tileScaled d.format then
    match readEntry s u (entryAddr d n) with
    | .fault code => .fault code
    | .stained => .stained
    | .wait => .wait true
    | .ok v => if posNormal32 v then .ok (modCore s u.site (fun c => landRegister c d n b v)) else .fault 0x0114
  else .ok (modCore s u.site (fun c => landRegister c d n b 0x3F800000))

/-- Writes a unit's tile scale to its table entry (R261, R293); none where the entry is not mapped. -/
def writeEntry (s : State) (u : Issue) (d : DescImage) (n : Nat) (scale : F32) : Option State :=
  match ctxAt s u.ctx with
  | none => none
  | some x =>
    if entryAddr d n < 0 ∨ !mapped x (entryAddr d n).toNat 4 then none
    else some (ctxSplice s u.ctx x (entryAddr d n).toNat 4 (memOf (leBytes 4 scale.toNat)) false)

/-- An OUT unit that does not convert. -/
def moveOut (s : State) (u : Issue) (d : DescImage) (n : Nat) : Moved :=
  if d.nearKind = 0 then
    let key := nearKey s u d n
    .ok (scatter s u d n (memSlice s.store.scratch key (unitBytes d), stainRanges s.store.stainScratch 128 key (unitBytes d)))
  else
    let c := coreAt s u.site
    let k := nearBaseOf d + bufferOf d n
    let t := tileAt c k
    if (shapeOf d.format).isSome && t.format ≠ d.format then .fault 0x0114
    else
      let image := imageOfTile t
      let stains := ((c.stainRows.filter (fun r => r / 1024 = k)).map (fun r => rowRanges t.format (r % 1024))).flatten
      let whole : Bytes := (image, stains)
      let b : Bytes := if d.unit = 1 then
          let j := stripOf d n
          let a := bytesPart whole (j * stripData d.format) (stripData d.format)
          let e := bytesPart whole ((shapeD d.format).dataBytes + j * stripScales d.format) (stripScales d.format)
          (memSplice a.1 (stripData d.format) (stripScales d.format) e.1, a.2 ++ e.2.map (fun r => (r.1 + stripData d.format, r.2)))
        else bytesPart whole 0 (unitBytes d)
      let s := scatter s u d n b
      if tileScaled d.format then
        match writeEntry s u d n t.tileScale with
        | some s => .ok s
        | none => .fault 0x0307
      else .ok s

/-- A converting OUT unit (R294). -/
def moveConvert (h : Hdr) (s : State) (u : Issue) (d : DescImage) (n : Nat) : Moved :=
  let key := nearKey s u d n
  if !(stainRanges s.store.stainScratch 128 key (nearBytes d)).isEmpty then .stained
  else
    let vals := packedVals d.srcFormat (memSlice s.store.scratch key (nearBytes d))
    let slot := d.cvt.toNat / 2 ^ 24
    let tensor : BitVec 16 := BitVec.ofNat 16 (d.scaleTable.toNat / 2 ^ 48)
    let g : BitVec 24 := BitVec.ofInt 24 ((d.cvt.toNat % 2 ^ 24 : Nat) + farOffset d n / ((unitBytes d : Nat) : Int))
    let recorded := if tileScaled d.format && (slotAt s u.site slot).mode = 3 then readEntry s u (entryAddr d n) else .ok 0
    match recorded with
    | .fault code => .fault code
    | .stained => .stained
    | .wait => .wait true
    | .ok v =>
      match convertTile s u h 1 slot d.format (rounding s u d.round.toNat tensor g) vals (some v) 0 with
      | .error code => .fault code
      | .ok (s, e, scale) =>
        let image := memSplice e.data (shapeD d.format).dataBytes (shapeD d.format).scaleBytes e.scales
        let s := scatter s u d n (image, [])
        match scale with
        | none => .ok s
        | some v => (match writeEntry s u d n v with | some s => .ok s | none => .fault 0x0307)

/-- Whether the entry a unit reads or writes is mapped; a converting stream's is checked before it converts. -/
def entryFault (s : State) (u : Issue) (d : DescImage) (n : Nat) : Option Nat :=
  if tileScaled d.format ∧ d.farKind ≠ 3 ∧ (d.nearKind = 1 ∨ converts d) then
    match ctxAt s u.ctx with
    | some x => if 0 ≤ entryAddr d n ∧ mapped x (entryAddr d n).toNat 4 then none else some 0x0307
    | none => some 0x0307
  else none

/-- Whether unit n stands, with its tile-scale entry where it has one, on an offline page (R281). -/
def unitOffline (s : State) (u : Issue) (d : DescImage) (n : Nat) : Bool :=
  (unitPieces d n).any (fun p => farOffline s u d (farOf d n + (p.1 : Int)) p.2.2) ||
    (tileScaled d.format && d.farKind ≠ 3 && (d.nearKind = 1 || converts d) &&
      (match ctxAt s u.ctx with | some x => offline s x (entryAddr d n).toNat 4 | none => false))

/-- Whether the scratchpads that a unit reads or writes are served: on this core for the stream engine's own slots, on a peer for remote DMA's
(R302, R317, R319). -/
def unitServed (s : State) (u : Issue) (d : DescImage) : Bool :=
  (d.nearKind ≠ 0 && d.farKind ≠ 1 || spServed s u.site (if d.out then 2 else 1)) &&
    (d.farKind ≠ 2 || (match siteOf s (peerCore d) with | some site => spServed s site 4 | none => true))

/-- Moves unit n. -/
def moveUnit (h : Hdr) (s : State) (u : Issue) (d : DescImage) (n : Nat) : Moved :=
  if d.farKind = 3 then moveWeight s u d n
  else
    let far := (unitPieces d n).findSome? (fun p => farFault s u d (farOf d n + (p.1 : Int)) p.2.2)
    match (far.or (nearFault s u d n)).or (entryFault s u d n) with
    | some code => .fault code
    | none =>
      if unitOffline s u d n then .wait true
      else if unitHost s u d n ≠ [] ∨ !unitServed s u d ∨ unitHeld s u d n then .wait false
      else match unitDrop s u d n with
      | some r => .dropped r
      | none =>
        if !d.out then moveIn s u d n
        else if converts d then moveConvert h s u d n
        else moveOut s u d n

/-! ### The commands (R296, R297) -/

/-- A descriptor of a core. -/
def descAt (s : State) (site d : Nat) : Desc := tGet freshDesc (coreAt s site).descs d
def setDesc (s : State) (site d : Nat) (x : Desc) : State := modCore s site (fun c => { c with descs := tIns c.descs d x })

/-- DESC_LOAD (R295). It waits for the started units of the descriptor, whose commands complete before it (R298). -/
def descLoadBody (desc : BitVec 6) (row : BitVec 21) : Body := fun h s u =>
  let x := descAt s u.site desc.toNat
  if 1 < x.state then refused s u h 0x0A08 0x16
  else if x.flight ≠ [] ∨ x.running.isSome then (s, .blocked false)
  else if spRows s u.ctx ≤ row.toNat then refused s u h 0x0308 0x16
  else if !spServed s u.site 1 then (s, .blocked false)
  else if rowsStained s u.site (spBase s u.ctx + row.toNat) 128 then (consumeStain s (cmdReport u h 0x0303 4 0x16 0), .halted)
  else
    let d := parseDesc (memBytes s.store.scratch (rowKey u.site (spBase s u.ctx + row.toNat)) 128)
    if !descOk d then refused s u h 0x0A04 0x16
    else (setDesc s u.site desc.toNat { freshDesc with state := 1, image := some d, ctx := u.ctx }, .done)

/-- The fault of a PEER core (R192, R193, R295). -/
def peerFault (s : State) (u : Issue) (d : DescImage) : Option Nat :=
  if d.farKind ≠ 2 then none
  else if coreCount s ≤ peerCore d then some 0x0101
  else if layoutWidth s u.ctx ≤ peerCore d then some 0x010D
  else none

/-- The ring slot that a weight unit reads, held until the unit completes (R311). -/
def holdSlot (s : State) (u : Issue) (desc : Nat) (d : DescImage) (slot : Nat) : State :=
  if d.farKind = 3 then modCore s u.site (fun c => { c with wwOut := c.wwOut ++ [(desc, slot)] }) else s

/-- One unit of a descriptor starts, and stands in its flight until it completes; last says that its completion completes h. One whose packets are dropped
moves nothing (R331; log entry 152). -/
def startUnit (h : Hdr) (s : State) (u : Issue) (desc : Nat) (d : DescImage) (last : Bool) : Moved :=
  let n := (descAt s u.site desc).nextUnit
  let slot := wwSlot s ((ctxAt s u.ctx).bind Ctx.loaded) (wwTiles s u.site) (wwNext s u.ctx u.site)
  let flies := fun (s : State) =>
    let s := holdSlot s u desc d slot
    let x := descAt s u.site desc
    let before := ((coreAt s u.site).started.filter (fun y => y.1 = .stream (BitVec.ofNat 6 desc))).length
    Moved.ok (setDesc s u.site desc { x with nextUnit := n + 1, flight := x.flight ++ [(n, h, last, before)] })
  match moveUnit h s u d n with
  | .ok s => flies s
  | .dropped r => flies (undelivered s u h r 0x16)
  | m => m

/-- A unit that cannot be moved stops its command (R257, R278, R331). -/
def unitStops (s : State) (u : Issue) (h : Hdr) : Moved → State × Ran
  | .fault code => refused s u h code 0x16
  | .dropped r => (undelivered s u h r 0x16, .waiting)
  | .stained => (consumeStain s (cmdReport u h 0x0303 4 0x16 0), .halted)
  | .wait off => (s, .blocked off)
  | .ok s => (s, .waiting)

/-- NEXT (R297, R299). -/
def nextUnitBody (desc : BitVec 6) : Body := fun h s u =>
  let x := descAt s u.site desc.toNat
  match x.image with
  | none => refused s u h 0x0A08 0x16
  | some d =>
    if x.state = 1 ∧ d.kind = 1 then refused s u h 0x0A03 0x16
    else if x.state = 0 ∨ x.state = 3 then refused s u h 0x0A08 0x16
    else if x.running.isSome then (s, .blocked false)
    else if unitTotal d ≤ x.nextUnit then refused s u h 0x0A07 0x16
    else match (if x.nextUnit = 0 ∧ d.kind = 0 then peerFault s u d else none) with
      | some code => refused s u h code 0x16
      | none => unitStops s u h (startUnit h s u desc.toNat d true)

/-- The remaining units of a RUN, one after another; where one must wait, the RUN goes on with it later (R296). -/
def runUnits (h : Hdr) (u : Issue) (desc : Nat) (d : DescImage) : Nat → State → State × Ran
  | 0, s => (setDesc s u.site desc { descAt s u.site desc with running := none }, .waiting)
  | n + 1, s =>
    match startUnit h s u desc d (n = 0) with
    | .ok s => runUnits h u desc d n s
    | .wait _ => (setDesc s u.site desc { descAt s u.site desc with running := some h }, .waiting)
    | m => unitStops (setDesc s u.site desc { descAt s u.site desc with running := none }) u h m

/-- RUN (R296): it starts with its first unit, and its other units follow as each can. -/
def runBody (desc : BitVec 6) : Body := fun h s u =>
  let x := descAt s u.site desc.toNat
  match x.image with
  | none => refused s u h 0x0A08 0x16
  | some d =>
    if x.state ≠ 1 ∨ d.kind ≠ 0 then refused s u h 0x0A08 0x16
    else if x.running.isSome then (s, .blocked false)
    else match (if x.nextUnit = 0 then peerFault s u d else none) with
      | some code => refused s u h code 0x16
      | none =>
        let left := unitTotal d - x.nextUnit
        if left = 0 then (s, .done)
        else match startUnit h s u desc.toNat d (left = 1) with
          | .ok s => runUnits h u desc.toNat d (left - 1) s
          | m => unitStops s u h m

/-- The snoops for the next units of a descriptor, before its command starts (R411). -/
def askUnits (s : State) (u : Issue) (desc : Nat) (all : Bool) : State :=
  let x := descAt s u.site desc
  match x.image with
  | none => s
  | some d =>
    if s.hdm.filter = [] then s
    else
      let n := if all then unitTotal d - x.nextUnit else min 1 (unitTotal d - x.nextUnit)
      (List.range n).foldl (fun s i => askHost s (unitHost s u d (x.nextUnit + i)) d.out) s

/-- The snoops of a command that its queue presents, for the core it acts on. -/
def askPresented (s : State) (h : Hdr) (desc : BitVec 6) (all : Bool) : State :=
  match issueOf s h with
  | some u => askUnits s (actOn s u h) desc.toNat all
  | none => s

/-- A RUN that is not through starts more of its units (R296); one of a queue that has gone starts no more. -/
def resumeRun (s : State) (site desc : Nat) : State :=
  let x := descAt s site desc
  match x.running, x.image with
  | some h, some d =>
    match issueBase s h.queue.toNat with
    | some u =>
      let u := actOn s u h
      (runUnits h u desc d (unitTotal d - x.nextUnit) (askUnits s u desc true)).1
    | none => setDesc s site desc { x with running := none }
  | _, _ => s

/-- RETIRE (R297): the descriptor is RETIRING until its started units complete. -/
def retireBody (desc : BitVec 6) : Body := fun h s u =>
  let x := descAt s u.site desc.toNat
  if x.running.isSome then (s, .blocked false)
  else if x.state = 1 ∨ x.state = 2 then
    (settleDesc (setDesc s u.site desc.toNat { x with state := 3 }) u.site desc.toNat, .done)
  else refused s u h 0x0A08 0x16

/-! ### Admission (R302 to R305) -/

/-- A resource of R302 that a stream uses: code, which one, share. -/
structure Use where
  code : Nat
  unit : Nat
  num : Nat
  den : Nat
  deriving DecidableEq, Repr

/-- The links of the route in force from a to b, as reach · 8 + direction (R329). -/
def routeLinks (s : State) (b : Nat) : Nat → Nat → List Nat
  | 0, _ => []
  | n + 1, a =>
    if a = b then []
    else
      let dir := fld s a 0x03 ⟨0x400 + 4 * b, 2, 0⟩
      match neighbour a dir with
      | some c => (a * 8 + dir) :: routeLinks s b n c
      | none => []

/-- The path between a stack's site, peer or port reach and this core, in the direction of the data. -/
def pathLinks (s : State) (out : Bool) (here there : Nat) : List Nat :=
  if out then routeLinks s there 160 here else routeLinks s here 160 there

/-- Every context page that the walk of a stream touches. -/
def walkPages (d : DescImage) : List Nat :=
  ((List.range (unitTotal d)).map (fun n =>
    let a := (farOf d n).toNat
    let span := if d.unit = 1 then imageBytes d.format else unitBytes d
    (List.range ((a + span - 1) / 2 ^ 21 - a / 2 ^ 21 + 1)).map (fun i => a / 2 ^ 21 + i))).flatten.eraseDups

/-- The reaches at the far end of a stream's routes: those of its pages' stacks and ports, or its peer's site. -/
def farReaches (s : State) (u : Issue) (d : DescImage) : List Nat :=
  if d.farKind = 0 then
    let ptes := (walkPages d).filterMap (fun p => (ctxAt s u.ctx).bind (fun x => tFind x.pt p))
    (ptes.map (fun e => if e.fabric then 72 + pagePort s e else e.place / 2)).eraseDups
  else if d.farKind = 2 then (siteOf s (peerCore d)).toList
  else []

/-- Whether every far end of a stream answers and is on a route of its data's direction (R307, R331). -/
def routed (s : State) (u : Issue) (d : DescImage) : Bool :=
  (d.farKind ≠ 2 || (siteOf s (peerCore d)).isSome) && (farReaches s u d).all (fun r =>
    reachUp s r && (dropAt s (if d.out then u.site else r) (if d.out then r else u.site)).isNone)

/-- The resources of a stream with its shares, and the hops of its route (R302, R303). -/
def streamUses (s : State) (u : Issue) (d : DescImage) : List Use × Nat :=
  let near := if converts d then (nearBytes d, unitBytes d) else (1, 1)
  let slot := if d.out then 2 else 1
  let ring : List Use := if d.nearKind = 0 then [{ code := slot, unit := 0, num := near.1, den := near.2 }]
    else if d.farKind = 1 ∨ (d.farKind = 3 ∧ !d.out) then [{ code := slot, unit := 0, num := 1, den := 1 }] else []
  let links := fun (there : Nat) => pathLinks s d.out u.site there
  let linkUse := fun (l : Nat) => ({ code := 4, unit := l, num := 1, den := 1 } : Use)
  if d.farKind = 0 then
    let pages := walkPages d
    let ptes := pages.filterMap (fun p => (ctxAt s u.ctx).bind (fun x => tFind x.pt p))
    let stackList := (List.range 144).filter (fun k => ptes.any (fun e => !e.fabric && e.place = k))
    let ports := (List.range 4).filter (fun k => ptes.any (fun e => e.fabric && pagePort s e = k))
    let su := stackList.map (fun k => ({ code := 3, unit := k, num := (ptes.filter (fun e => !e.fabric && e.place = k)).length, den := pages.length } : Use))
    let pu := ports.map (fun k => ({ code := 5, unit := k, num := (ptes.filter (fun e => e.fabric && pagePort s e = k)).length, den := pages.length } : Use))
    let routes := (stackList.filter (fun k => k / 2 ≠ u.site)).map (fun k => links (k / 2)) ++ ports.map (fun k => links (72 + k))
    (ring ++ su ++ (routes.flatten.eraseDups).map linkUse ++ pu, routes.foldl (fun n r => max n r.length) 0)
  else if d.farKind = 2 then
    let r := links ((siteOf s (peerCore d)).getD 0)
    (ring ++ r.map linkUse ++ [{ code := 6, unit := peerCore d, num := 1, den := 1 }], r.length)
  else (ring, 0)

/-- A quota of an arbiter as a capacity: Q · 4,096 B per lock window, in MB/s as a fraction (R302, R361). -/
def quotaRate (s : State) (r p n : Nat) : Nat × Nat :=
  (fld s r p ⟨0x400 + 16 * n, 31, 16⟩ * 4096 * 1800, max 16 (fld s r p ⟨0x040, 15, 0⟩))

/-- The capacity of a resource in MB/s, as a fraction, under a slot map of this core (R302, R315, R417). -/
def capacity (s : State) (u : Issue) (map : Nat) (x : Use) : Nat × Nat :=
  match x.code with
  | 1 => (slotsHeld map 1 * 14745600, 1)
  | 2 => (slotsHeld map 2 * 14745600, 1)
  | 3 =>
    let q := quotaRate s (x.unit / 2) (0x09 + x.unit % 2) 1
    if q.1 = 0 ∨ 2457600 * q.2 ≤ q.1 then (2457600, 1) else q
  | 4 => (460800, 1)
  | 5 => if fld s (72 + x.unit) 0x20 ⟨0x064, 6, 6⟩ = 1 ∧ fld s (72 + x.unit) 0x20 ⟨0x064, 5, 0⟩ = u.ctx then quotaRate s (72 + x.unit) 0x21 1
         else (0, 1)
  | _ => (slotsHeld (regWord s ((siteOf s x.unit).getD 0) 0x17 0x044).toNat 4 * 14745600, 1)

/-- The streams the tests count: those admitted on the core but this one, and this one with k buffers. -/
def testedStreams (s : State) (u : Issue) (desc : Nat) (d : DescImage) (k : Nat) : List (Bool × DescImage) :=
  ((coreAt s u.site).descs.filterMap (fun x => if x.1 ≠ desc ∧ x.2.state = 2 ∧ !x.2.revoked then x.2.image.map (fun i => (false, i)) else none)) ++
    [(true, { d with bufCount := k })]

/-- F · 16 (R302, R323). -/
def admitFrac (s : State) (site : Nat) : Nat := max 8 (fld s site 0x16 ⟨0x040, 11, 8⟩)

def addFrac (a b : Nat × Nat) : Nat × Nat := (a.1 * b.2 + b.1 * a.2, a.2 * b.2)
def leFrac (a b : Nat × Nat) : Bool := a.1 * b.2 ≤ b.1 * a.2

/-- F · C of a resource. -/
def usable (s : State) (u : Issue) (map : Nat) (x : Use) : Nat × Nat :=
  let c := capacity s u map x
  (c.1 * admitFrac s u.site, c.2 * 16)

/-- The share of a stream on a resource; 0 where it does not use it. -/
def shareOf (us : List Use) (x : Use) : Nat × Nat :=
  match us.find? (fun y => y.code = x.code ∧ y.unit = x.unit) with | some y => (y.num, y.den) | none => (0, 1)

/-- The rate test: the first failing resource code, 0 when all hold (R304). -/
def rateTest (s : State) (u : Issue) (map : Nat) (ss : List (DescImage × List Use)) (uses : List Use) : Nat :=
  let fails := uses.filter (fun x =>
    let demand := ss.foldl (fun (a : Nat × Nat) j => let sh := shareOf j.2 x; addFrac a (j.1.rate * sh.1, sh.2)) (0, 1)
    !leFrac demand (usable s u map x))
  ((fails.map Use.code).min?).getD 0

/-- The path budget L of a stream in ns (R304, R294). -/
def pathBudget (s : State) (u : Issue) (d : DescImage) (uses : List Use) (hops : Nat) : Nat × Nat :=
  let reg := fun (o : Nat) => fld s u.site 0x16 (wordFld o)
  let stack := reg 0x048 + reg 0x04C * hops
  let base := if d.farKind = 0 then
      (let f := if uses.any (fun x => x.code = 5) then reg 0x050 else 0
       if uses.any (fun x => x.code = 3) then max stack f else f)
    else if d.farKind = 2 then reg 0x044 + reg 0x04C * hops
    else reg 0x044
  if converts d then addFrac (base, 1) ((shapeD d.format).rows * (shapeD d.format).cols * 5, 2048 * 9) else (base, 1)

/-- The period T of a stream in MC cycles, rounded down (R299). -/
def periodOf (d : DescImage) : Nat := unitBytes d * 1800 / max 1 d.rate

/-- The lead test: the resource that a failing stream waits on longest, 0 when all hold (R304). -/
def leadTest (s : State) (u : Issue) (map : Nat) (ss : List (DescImage × List Use × Nat)) (uses : List Use) : Nat :=
  let wait := fun (x : Use) =>
    let bytes := ss.foldl (fun n j => if (shareOf j.2.1 x).1 ≠ 0 then n + unitBytes j.1 else n) 0
    let c := usable s u map x
    (bytes * 1000 * c.2, c.1)
  let check := fun (j : DescImage × List Use × Nat) =>
    if !(j.2.1.any (fun y => (shareOf uses y).1 ≠ 0)) then none
    else
      let worst := j.2.1.foldl (fun (w : (Nat × Nat) × Nat) y =>
        let t := wait y
        if t.2 = 0 then (if w.1.2 = 0 then w else (t, y.code)) else if w.1.2 ≠ 0 ∧ !leFrac t w.1 then (t, y.code) else w) ((0, 1), 0)
      if worst.1.2 = 0 then some worst.2
      else if leFrac (addFrac (pathBudget s u j.1 j.2.1 j.2.2) worst.1) ((j.1.bufCount - 1) * periodOf j.1 * 5, 9) then none else some worst.2
  ((ss.findSome? check).getD 0)

/-- Both tests of R304 for a core's streams with a new one of k buffers: 0, or the first failing resource; and whether the rate failed. -/
def admissionTest (s : State) (u : Issue) (map desc : Nat) (d : DescImage) (k : Nat) : Nat × Bool :=
  let ss := (testedStreams s u desc d k).map (fun x => (x.2, streamUses s u x.2))
  let uses := (ss.map (fun x => x.2.1)).flatten
  let r := rateTest s u map (ss.map (fun x => (x.1, x.2.1))) uses
  if r ≠ 0 then (r, true) else (leadTest s u map (ss.map (fun x => (x.1, x.2.1, x.2.2))) (streamUses s u d).1, false)

/-- The outcome word of ADMIT (R305). -/
def admitWord (s : State) (u : Issue) (desc : Nat) (d : DescImage) : Nat :=
  let map := (regWord s u.site 0x17 0x044).toNat
  let r := admissionTest s u map desc d d.bufCount
  if r.1 = 0 then 0
  else
    let least := if r.2 then 0 else (((List.range 17).drop 2).find? (fun k => (admissionTest s u map desc d k).1 = 0)).getD 0
    least * 2 ^ 24 + r.1 * 2 ^ 16 + 0x0A02

/-- Pins the pages of an admitted stream (R267). -/
def pinPages (s : State) (c : Nat) (pages : List Nat) : State :=
  modCtx s c (fun x => { x with pt := x.pt.map (fun e => if pages.contains e.1 then (e.1, { e.2 with pinned := true }) else e) })

/-- ADMIT (R304, R305). -/
def admitBody (desc : BitVec 6) (reg : BitVec 5) : Body := fun h s u =>
  let x := descAt s u.site desc.toNat
  match x.image with
  | none => refused s u h 0x0A08 0x16
  | some d =>
    if x.state ≠ 1 ∨ d.kind ≠ 1 then refused s u h 0x0A08 0x16
    else match peerFault s u d with
      | some code => refused s u h code 0x16
      | none =>
        let far := if d.farKind = 0 then (List.range (unitTotal d)).findSome? (fun n =>
          (unitPieces d n).findSome? (fun p => farFault s u d (farOf d n + (p.1 : Int)) p.2.2)) else none
        match far with
        | some code => refused s u h code 0x16
        | none =>
          let w := admitWord s u desc.toNat d
          if w = 0 then
            let pages := if d.farKind = 0 then walkPages d else []
            let s := pinPages (setDesc s u.site desc.toNat { x with state := 2, pins := pages }) u.ctx pages
            (writeOutcome s u reg.toNat 0, .done)
          else
            let s := raise (bump s u.site 0x16 (wordFld 0x060) 1) (cmdReport u h 0x0A02 2 0x16 0)
            (writeOutcome s u reg.toNat (BitVec.ofNat 64 w), .done)

/-- A breach of an admitted stream's deadline (R306, R323). -/
def breach (s : State) (u : Issue) (h : Hdr) (desc late : Nat) : State :=
  let s := bump s u.site 0x16 (wordFld 0x05C) 1
  let s := if fld s u.site 0x16 ⟨0x064, 31, 31⟩ = 1 then s
    else irqEvent (setRegWord s u.site 0x16 0x064 (BitVec.ofNat 32 (2 ^ 31 + desc * 2 ^ 24 + min late 0xFFFFFF))) u.site 0x16 0
  raise s (cmdReport u h 0x0A01 (if fld s u.site 0x16 ⟨0x040, 0, 0⟩ = 1 then 3 else 0) 0x16 late)

/-- STREAM_UNIT_COMPLETE: the oldest started unit of a descriptor completes, late MC cycles past its deadline, once the earlier commands of the descriptor
have; a RUN goes on (R296, R298, R306). -/
def unitComplete (s : State) (site desc late : Nat) : State :=
  let x := descAt s site desc
  match x.flight with
  | [] => s
  | (_, h, last, before) :: rest =>
    if before ≠ 0 then s else
    let s := setDesc s site desc { x with flight := rest, unitsDone := x.unitsDone + 1 }
    let weight := match x.image with | some d => decide (d.farKind = 3) | none => false
    let s := if weight then modCore s site (fun c => { c with wwOut := c.wwOut.eraseP (fun o => o.1 = desc) }) else s
    let live := match ctxAt s x.ctx with | some c => c.ending = none | none => false
    let s := match issueBase s h.queue.toNat with
      | none => s
      | some u =>
        if !live then s
        else
          let u := actOn s u h
          let deadline := match x.image with | some d => decide (d.kind = 1) && !x.revoked | none => false
          let s := if deadline && decide (0 < late) then breach s u h desc late else s
          if last then retireCmd s u h 0x16 else s
    admitStalled (settleDesc (resumeRun s site desc) site desc) site (.stream (BitVec.ofNat 6 desc))

def execDescLoad (h : Hdr) (desc : BitVec 6) (row : BitVec 21) (s : State) : Answer :=
  .next (engineCmd (.descLoad h desc row) h false (.stream desc) 3 (descLoadBody desc row) s)
def execAdmitStream (h : Hdr) (desc : BitVec 6) (reg : BitVec 5) (s : State) : Answer :=
  .next (engineCmd (.admitStream h desc reg) h false (.stream desc) 3 (admitBody desc reg) s)
def execNextUnit (h : Hdr) (desc : BitVec 6) (s : State) : Answer :=
  .next (engineCmd (.nextUnit h desc) h false (.stream desc) 3 (nextUnitBody desc) (askPresented s h desc false))
def execRun (h : Hdr) (desc : BitVec 6) (s : State) : Answer := .next (engineCmd (.run h desc) h false (.stream desc) 3 (runBody desc) (askPresented s h desc true))
def execRetire (h : Hdr) (desc : BitVec 6) (s : State) : Answer :=
  .next (engineCmd (.retire h desc) h false (.stream desc) 3 (retireBody desc) s)
def execStreamSlotSetup (h : Hdr) (o : SetupOps) (s : State) : Answer :=
  .next (engineCmd (.streamSlotSetup h o) h false (.stream 0) 3 (setupBody 1 0x16 o) s)
def execStreamUnitComplete (site : BitVec 7) (desc : BitVec 6) (late : Nat) (s : State) : Answer :=
  .next (unitComplete s site.toNat desc.toNat late)

end Sys2Proof.Machine
end

