-- ==== Sys2Proof/Machine/Ronora.lean ====
section
/-!
DEFINITION. Ronora.lean: the resident routines (R196 to R228, R243): argument checks, the inner commands, the status word, what a
return leaves undefined, and the collective routines.
-/
namespace Sys2Proof.Machine

/-! ### Status and the harness -/

/-- The status word (R207). -/
def statusWord (code arg warn detail : Nat) : Dword :=
  BitVec.ofNat 64 (min detail (2 ^ 32 - 1) * 2 ^ 32 + arg % 256 * 2 ^ 24 + warn % 256 * 2 ^ 16 + code)

/-- The outcome of an argument check: a status code with its argument position, or the commands to issue. -/
structure Plan where
  inner : List (Byte × Body)
  results : State → List (Nat × Dword)
  tiles : List Nat
  accs : List Nat
  locks : Bool := false

abbrev Check := Except (Nat × Nat) Plan

/-- A scalar argument. -/
def argOf (s : State) (u : Issue) (i : Nat) : Nat := (regOf (threadAt s u.site u.t) i).toNat

/-- The counts a routine reports as warnings (R208): non-finite, mismatches, saturations written, zeroed blocks, repeats. -/
def warnCounts (s : State) (u : Issue) : List Nat :=
  [fld s u.site 0x14 (wordFld 0x054), fld s u.site 0x12 (wordFld 0x04C) + fld s u.site 0x12 (wordFld 0x050), fld s u.site 0x14 (wordFld 0x04C),
   fld s u.site 0x14 (wordFld 0x050), fld s u.site 0x14 (wordFld 0x058)]

/-- Whether an issuer's queue halts or has halted. -/
def queueHalts (s : State) (u : Issue) : Bool :=
  match queueAt s u.q with | some e => e.state = 3 || e.stopping.isSome | none => true

/-- Runs the inner commands in order, each traced under the RONORA command's mark (R180, R197): done, halted where one halts the queue (R206),
or blocked where one cannot start yet. -/
def runInner (h : Hdr) (u : Issue) : List (Byte × Body) → State → State × Ran
  | [], s => (s, .done)
  | (engine, body) :: r, s =>
    let g := { h with engine := engine }
    match body g (traceRec s u g 0) u with
    | (s, .halted) => (s, .halted)
    | (s, .blocked off) => (s, .blocked off)
    | (s, _) => if queueHalts s u then (s, .halted) else runInner h u r (traceRec s u g 1)

/-- Undefined contents in canonical form. -/
def freeMem (n size : Nat) : Mem := ((Config.freeBytes n).filter (fun b => b.1 < size)).foldl (fun m b => memPut m b.1 b.2) []
def freeVals (n size : Nat) : Tab F32 := ((Config.freeElems n).filter (fun b => b.1 < size)).foldl (fun m b => tPut 0 m b.1 b.2) []

/-- A clobbered tile register: an undefined tile of an undefined format (R200). -/
def clobberTile (s : State) (u : Issue) (k : Nat) : State :=
  let n := s.freeCount
  let fmt : Byte := BitVec.ofNat 8 ((Config.free64 n).toNat % 13)
  let t : TileReg := { format := fmt, data := freeMem n (shapeD fmt).dataBytes, scales := freeMem (n + 1) (shapeD fmt).scaleBytes
                       tileScale := Config.free32 n, orient := bitOf (Config.free64 n).toNat 63, rows := 0, cols := 0 }
  { modCore s u.site (fun c => setRegStain (setTile c k t) k []) with freeCount := n + 2 }

/-- A clobbered accumulator. -/
def clobberAcc (s : State) (u : Issue) (k : Nat) : State :=
  let n := s.freeCount
  { modCore s u.site (fun c => setRegStain (setAcc c k (freeVals n (2 ^ 20))) (16 + k) []) with freeCount := n + 1 }

/-- A core after a SELF_CHECK: every tile register and accumulator is undefined (R209, R228). -/
def clobberCore (s : State) (u : Issue) : State :=
  (List.range 4).foldl (fun s k => clobberAcc s u k) ((List.range 16).foldl (fun s k => clobberTile s u k) s)

/-- Descriptors D60 to D63 after a routine: free or loaded with an undefined image (R200). -/
def clobberDescs (s : State) (u : Issue) : State :=
  let n := s.freeCount
  let one := fun (i : Nat) =>
    let w := (Config.free64 (n + i)).toNat
    if bitOf w 63 then { freshDesc with state := 1, ctx := u.ctx, image := some (parseDesc ((List.range 128).map (fun j => memByte (freeMem (n + i) 128) j))) }
    else freshDesc
  { modCore s u.site (fun c => { c with
      descs := (List.range 4).foldl (fun t i => tIns t (60 + i) (one i)) c.descs }) with freeCount := n + 4 }

/-- A routine returns a status: its two tokens are 0 (R200), and the routine-descriptor lock is free if its thread held it (R202). -/
def returnWith (s : State) (u : Issue) (word : Dword) : State :=
  let s := modCore s u.site (fun c => { c with
    tokens := tDel (tDel c.tokens (224 + 2 * u.t)) (225 + 2 * u.t)
    lock := if c.lock = some u.t then none else c.lock
    lastLock := if c.lock = some u.t then u.t else c.lastLock })
  writeReg s u 0 word

/-- A thread takes the routine-descriptor lock (R202). -/
def takeLock (s : State) (u : Issue) : State := modCore s u.site (fun c => { c with lock := some u.t })

/-- Ends a routine that ran: what it leaves undefined, its tokens, its results and its status (R200, R207, R208). -/
def endRoutine (s : State) (u : Issue) (before : List Nat) (p : Plan) (status : Option Dword) : State :=
  let counts : List Nat := ((warnCounts s u).zip before).map (fun (x : Nat × Nat) => x.1 - x.2)
  let warn := (counts.zipIdx.map (fun (x : Nat × Nat) => if x.1 = 0 then 0 else 2 ^ x.2)).foldl (· + ·) 0
  let word := match status with
    | some w => w
    | none => match counts.zipIdx.find? (fun (x : Nat × Nat) => x.1 ≠ 0) with
      | some (n, i) => statusWord (i + 1) 0 warn n
      | none => statusWord 0 0 0 0
  let results : List (Nat × Dword) := p.results s
  let s := p.tiles.foldl (fun s k => clobberTile s u k) s
  let s := p.accs.foldl (fun s k => clobberAcc s u k) s
  let s := clobberDescs s u
  returnWith (results.foldl (fun s (r : Nat × Dword) => writeReg s u r.1 r.2) s) u word

/-- Whether a command stands unstarted ahead of a routine's commands in an engine queue that they use (R92, R199): engines 1 and 4 are served in
one order (R245), and a routine's stream commands have descriptors of their own (R201). -/
def enginesWait (c : Core) (engines : List Byte) : Bool :=
  c.held.any (fun x => ((x.1 = .matrix || x.1 = .sparse) && (engines.contains 1 || engines.contains 4)) || (x.1 = .vector && engines.contains 2))

/-- Whether a routine may take its core's lock: no other thread holds it, and none that waits for it comes first in ascending thread number
after the thread that last held it (R202). -/
def lockFree (s : State) (u : Issue) : Bool :=
  let c := coreAt s u.site
  (c.lock = none || c.lock = some u.t) &&
    (((List.range 16).map (fun i => (c.lastLock + 1 + i) % 16)).takeWhile (fun t => t ≠ u.t)).all (fun t =>
      match threadHead s u.site t with
      | some (i, _) => !takesLock i || (headWait s u.site (.thread (BitVec.ofNat 4 t))).elim true (fun h =>
          !served s u.site (.thread (BitVec.ofNat 4 t)) h)
      | none => true)

/-- The header of a routine's inner commands: they carry TRACE where OPTIONS bit 1 says so (R197). -/
def tracedHdr (s : State) (u : Issue) (h : Hdr) : Hdr := { h with trace := bitOf (argOf s u 0) 1 }

/-- A local routine (R196 to R206): the call takes one level of the return stack while it runs (R178, R200). Its commands run in one step:
DESIGN CHOICE, log entry 131. -/
def routineBody (check : State → Issue → Check) : Body := fun h s u =>
  let opt := argOf s u 0
  if 8 ≤ (threadAt s u.site u.t).rets.length then refused s u h 0x0112 0x11
  else if 4 ≤ opt then (returnWith s u (statusWord 0x0100 0 0 0), .done)
  else match check s u with
    | .error (code, pos) => (returnWith s u (statusWord code pos 0 0), .done)
    | .ok p =>
      if bitOf opt 0 then (returnWith s u 0, .done)
      else if enginesWait (coreAt s u.site) (p.inner.map (·.1)) || (p.locks && !lockFree s u) then (s, .blocked false)
      else
        let before := warnCounts s u
        match runInner (tracedHdr s u h) u p.inner (if p.locks then takeLock s u else s) with
        | (s, .done) => (endRoutine s u before p none, .done)
        | r => r

/-! ### Argument checks (R198, R205) -/

/-- A destination specifier: a tile register, an accumulator or a scratchpad row. -/
def operandArg (v pos : Nat) : Except (Nat × Nat) Word :=
  if 2 ^ 32 ≤ v ∨ v / 2 ^ 28 = 0 ∨ 3 < v / 2 ^ 28 then .error (0x0100, pos) else .ok (BitVec.ofNat 32 v)

/-- A source specifier: the kinds of R163, with the scalar broadcast and the immediate, which for a routine is +0 since none of its arguments
gives one (R198; log entry 132). -/
def sourceArg (v pos : Nat) : Except (Nat × Nat) Word :=
  if 2 ^ 32 ≤ v ∨ v / 2 ^ 28 = 0 ∨ 5 < v / 2 ^ 28 then .error (0x0100, pos) else .ok (BitVec.ofNat 32 v)

/-- An argument at most a bound. -/
def rangeArg (v bound pos : Nat) : Except (Nat × Nat) Nat := if bound < v then .error (0x0100, pos) else .ok v

/-- A format that a routine accepts in a position. -/
def formatArg (v pos : Nat) (ok : Byte → Bool) : Except (Nat × Nat) Byte :=
  if 256 ≤ v then .error (0x0100, pos) else if ok (BitVec.ofNat 8 v) then .ok (BitVec.ofNat 8 v) else .error (0x0101, pos)

/-- Whether a scratchpad operand of some bytes lies in the context's region. -/
def fitsArg (s : State) (u : Issue) (w : Word) (bytes pos : Nat) : Except (Nat × Nat) Unit :=
  if specKind w = 3 ∧ spRows s u.ctx < specRow w + (bytes + 127) / 128 then .error (0x0100, pos) else .ok ()

/-- A scratchpad extent whose size rests on later arguments: reported at its own position when those stand (R205). -/
def extentArg (s : State) (u : Issue) (w : Word) (bytes : Except (Nat × Nat) Nat) (pos : Nat) : Except (Nat × Nat) Unit :=
  match bytes with
  | .ok n => fitsArg s u w n pos
  | .error _ => .ok ()

/-- The match of R102 in an argument check: a tile-scaled format whose slot has another target is BAD_FORMAT at the
format's position. -/
def matchArg (s : State) (u : Issue) (fmt : Byte) (slot pos : Nat) : Except (Nat × Nat) Unit :=
  if tileScaled fmt ∧ slot ≤ 255 ∧ (slotAt s u.site slot).target.toNat ≠ starchTarget fmt then .error (0x0101, pos) else .ok ()

/-- A slot: in range, and, where the format names one (R102), owned by the vector engine (R203). -/
def slotArg (s : State) (u : Issue) (fmt : Byte) (v pos : Nat) : Except (Nat × Nat) Nat :=
  if 255 < v then .error (0x0100, pos) else if tileScaled fmt ∧ (slotAt s u.site v).owner ≠ 0 then .error (0x0103, 0) else .ok v

/-- Rows of a routine: 0 means all rows of the tile shape (R198). -/
def rowsArg (v bound pos : Nat) : Except (Nat × Nat) Nat := if bound < v then .error (0x0102, pos) else .ok (if v = 0 then bound else v)

/-- A count between 1 and a bound. -/
def countArg (v bound pos : Nat) : Except (Nat × Nat) Nat := if v = 0 ∨ bound < v then .error (0x0100, pos) else .ok v

/-- A vector command of a routine. -/
def vecOps (d a : Word) (fmt : Byte) (round slot cond rows : Nat) (key : Nat) : VecOps :=
  { d := d, a := a, b := 0, c := 0, formatOut := fmt, round := BitVec.ofNat 8 round, slot := BitVec.ofNat 8 slot, cond := BitVec.ofNat 8 cond
    rows := BitVec.ofNat 16 rows, tensorId := BitVec.ofNat 16 (key / 2 ^ 24), tileIndex := BitVec.ofNat 24 key, srcFormat := 0, imm := 0 }

/-- The specifier of an accumulator. -/
def accSpec (k : Nat) : Word := BitVec.ofNat 32 (2 * 2 ^ 28 + k)
/-- The specifier of a scratchpad row. -/
def rowSpec (r : Nat) : Word := BitVec.ofNat 32 (3 * 2 ^ 28 + r)

/-- Rows of a destination's shape. -/
def destRows (w : Word) (fmt : Byte) : Nat := if specKind w = 2 then 1024 else (shapeD fmt).rows

/-! ### Products -/

/-- PRODUCT operands of a routine. -/
def productOps (fromSp : Bool) (xReg wReg acc xRow : Nat) (xf wf : Byte) (xScale : F32) (wT xT add : Bool) (quadrant : Nat) : ProductOps :=
  { xFromSp := fromSp, xReg := BitVec.ofNat 4 xReg, xTranspose := xT, wTranspose := wT, wReg := BitVec.ofNat 4 wReg, accumulate := add
    quadrant := BitVec.ofNat 2 quadrant, acc := BitVec.ofNat 2 acc, xFormat := xf, wFormat := wf, rows := 0, xRow := BitVec.ofNat 21 xRow
    xScale := xScale, upsets := [] }

/-- Flags of TILE_PRODUCT and CHAIN_PRODUCT. -/
def flagsArg (v pos : Nat) : Except (Nat × Nat) Nat := if 64 ≤ v ∨ bitOf v 3 then .error (0x0100, pos) else .ok v

/-- The format pair of T0 and a streamed format: BAD_FORMAT at the tile's position (R196: T0 is 8, T1 is 9). -/
def pairArg (wf xf : Byte) (xT : Bool) : Except (Nat × Nat) Unit :=
  if pairGroup wf = 0 ∧ wf ≠ 7 then .error (0x0101, 8)
  else if !pairOk wf xf || (xT && !streamsTransposed xf) then .error (0x0101, 9) else .ok ()

/-- TILE_PRODUCT (R209). -/
def tileProductCheck (s : State) (u : Issue) : Check := do
  let a ← rangeArg (argOf s u 1) 3 1
  let f ← flagsArg (argOf s u 2) 2
  let c := coreAt s u.site
  let _ ← pairArg (tileAt c 0).format (tileAt c 1).format (bitOf f 1)
  .ok { inner := [(1, productBody (productOps false 1 0 a 0 (tileAt c 1).format (tileAt c 0).format 0 (bitOf f 0) (bitOf f 1) (bitOf f 2) (f / 16)))]
        results := fun _ => [], tiles := [], accs := [] }

/-- The streamed format of a scratchpad operand whose format no argument gives: one that R67 pairs with the weight's, and not fixed
where R67 leaves two (log entry 31). -/
def openStream (wf : Byte) : Byte :=
  if pairOk wf (Config.streamFormat wf) then Config.streamFormat wf else if wf = 7 then 5 else wf
/-- The tile scale of such an operand. -/
def openScale (n : Nat) : F32 := if posNormal32 (Config.streamScale n) then Config.streamScale n else 0x3F800000

/-- An accumulator set to +0 before a product that writes one quadrant of it is converted. -/
def clearAccBody (k : Nat) : Body := fun _ s u => (modCore s u.site (fun c => setRegStain (setAcc c k []) (16 + k) []), .done)

/-- STRIP_PRODUCT (R209, R210): T0 against each tile of a strip, converted to consecutive output images, through A2 and A3 in turn, by the policy's
rounding (log entry 33). -/
def stripProductCheck (s : State) (u : Issue) : Check := do
  let wf := (tileAt (coreAt s u.site) 0).format
  let xf := openStream wf
  let x ← rangeArg (argOf s u 1) (2 ^ 21 - 1) 1
  let _ ← extentArg s u (rowSpec x) (do
    let stride ← rangeArg (argOf s u 2) (2 ^ 21 - 1) 2
    let n ← countArg (argOf s u 3) 65535 3
    .ok (((n - 1) * stride + imageRows xf) * 128)) 1
  let stride ← rangeArg (argOf s u 2) (2 ^ 21 - 1) 2
  let n ← countArg (argOf s u 3) 65535 3
  let out ← rangeArg (argOf s u 4) (2 ^ 21 - 1) 4
  let _ ← extentArg s u (rowSpec out) ((formatArg (argOf s u 5) 5 quantFormat).map (fun f => n * imageRows f * 128)) 4
  let fmt ← formatArg (argOf s u 5) 5 quantFormat
  let _ ← matchArg s u fmt (argOf s u 6) 5
  let slot ← slotArg s u fmt (argOf s u 6) 6
  let key ← rangeArg (argOf s u 7) (2 ^ 40 - 1) 7
  let _ ← if pairGroup wf = 0 ∧ wf ≠ 7 then Except.error (0x0101, 8) else .ok ()
  let one := fun (i : Nat) =>
    [((2 : Byte), clearAccBody (2 + i % 2)),
     (1, productBody (productOps true 0 0 (2 + i % 2) (x + i * stride) xf wf (openScale i) false false false 0)),
     (2, cvtBody (vecOps (rowSpec (out + i * imageRows fmt)) (accSpec (2 + i % 2)) fmt 0 slot 0 0 (key / 2 ^ 24 * 2 ^ 24 + (key + i) % 2 ^ 24)))]
  .ok { inner := ((List.range n).map one).flatten, results := fun _ => [], tiles := [2, 3], accs := [2, 3] }

/-! ### Tensors (R151, R198, R259, R261) -/

/-- Rows, columns and format of a tensor of the context's module. -/
def tensorInfo (s : State) (c id : Nat) : Option (Nat × Nat × Byte) :=
  match (ctxAt s c).bind Ctx.loaded with
  | none => none
  | some l =>
    match l.params.find? (fun p => p.tensorId = id) with
    | some p => some (p.rows, p.cols, p.format)
    | none => (l.tensors.find? (fun t => t.id = id)).map (fun t => (t.rows, t.cols, t.format))

/-- The context address of a tensor's tile as a logical core holds it, and that of its tile-scale entry: translation fixes them (log entry
15). -/
def tensorAddr (s : State) (c core id g : Nat) (fmt : Byte) : Nat :=
  match (ctxAt s c).bind Ctx.loaded with | some l => Config.tensorBase l.digest core id + g * imageBytes fmt | none => 0
def tensorEntry (s : State) (c core id g : Nat) : Nat :=
  match (ctxAt s c).bind Ctx.loaded with | some l => Config.tensorTable l.digest core id + 4 * g | none => 0

/-- Tiles across a tensor's row. -/
def tilesAcross (cols : Nat) (fmt : Byte) : Nat := (cols + (shapeD fmt).cols - 1) / max 1 (shapeD fmt).cols

/-- Tiles of a tensor's grid: rows of tiles times tiles across. -/
def gridTiles (rows cols : Nat) (fmt : Byte) : Nat := (rows + (shapeD fmt).rows - 1) / max 1 (shapeD fmt).rows * tilesAcross cols fmt

/-- A tensor reference argument: TENSOR_ID and tile index of a tensor the module has. -/
structure TRef where
  id : Nat
  tile : Nat
  rows : Nat
  cols : Nat
  fmt : Byte
  deriving DecidableEq, Repr

/-- A tensor reference: of a tensor the module has, its format one of R23, its tile index in the tensor's grid (R198, R205). -/
def refArg (s : State) (u : Issue) (v pos : Nat) : Except (Nat × Nat) TRef :=
  match tensorInfo s u.ctx (v / 2 ^ 24 % 2 ^ 16) with
  | none => .error (0x0100, pos)
  | some (r, c, f) =>
    if 2 ^ 40 ≤ v then .error (0x0100, pos)
    else if (shapeOf f).isNone then .error (0x0101, pos)
    else if gridTiles r c f ≤ v % 2 ^ 24 then .error (0x0100, pos)
    else .ok { id := v / 2 ^ 24 % 2 ^ 16, tile := v % 2 ^ 24, rows := r, cols := c, fmt := f }

/-- A count of tiles from a reference on: BAD_SHAPE past the tensor's grid (R208). -/
def tilesArg (t : TRef) (n pos : Nat) : Except (Nat × Nat) Unit :=
  if gridTiles t.rows t.cols t.fmt < t.tile + n then .error (0x0102, pos) else .ok ()

/-- Rows that a routine takes of several tensors: 0 means all of the first one's shape, and no shape has fewer (R198, R208). -/
def sharedRows (v : Nat) (ts : List TRef) (pos : Nat) : Except (Nat × Nat) Nat :=
  let n := if v = 0 then ts.head?.elim 0 (fun t => (shapeD t.fmt).rows) else v
  if ts.any (fun t => decide ((shapeD t.fmt).rows < n)) then .error (0x0102, pos) else .ok n

/-- What reading a tensor's tile gives. -/
inductive TileRead where
  | fault (code : Nat)
  | stained
  | wait (lines : List Nat)
  | ok (t : TileReg)

/-- The lines of a tensor's tile and of its tile-scale entry that the host may hold (R411). -/
def tileLines (s : State) (u : Issue) (t : TRef) (g : Nat) (write : Bool) : List Nat :=
  hostLines s u.ctx (tensorAddr s u.ctx u.core t.id g t.fmt) (imageBytes t.fmt) write ++
    (if tileScaled t.fmt then hostLines s u.ctx (tensorEntry s u.ctx u.core t.id g) 4 write else [])

/-- A tile of a tensor of the issuer's core as a stream would load it (R261, R293). -/
def readTile (s : State) (u : Issue) (t : TRef) (g : Nat) : TileRead :=
  match ctxAt s u.ctx with
  | none => .fault 0x0307
  | some x =>
    let a := tensorAddr s u.ctx u.core t.id g t.fmt
    let n := imageBytes t.fmt
    if !mapped x a n then .fault 0x0307
    else if offline s x a n then .wait []
    else if tileLines s u t g false ≠ [] then .wait (tileLines s u t g false)
    else if ctxStained s x a n then .stained
    else if tileScaled t.fmt then
      match readEntry s u (tensorEntry s u.ctx u.core t.id g : Nat) with
      | .fault code => .fault code
      | .stained => .stained
      | .wait => .wait []
      | .ok v => if posNormal32 v then .ok (tileOfImage t.fmt (ctxSlice s x a n) v) else .fault 0x0114
    else .ok (tileOfImage t.fmt (ctxSlice s x a n) 0x3F800000)

/-- The first of the tiles g to g + n − 1 that cannot be read, or the values of all, keyed row · width + column. -/
def readTiles (s : State) (u : Issue) (t : TRef) : Nat → Nat → Except TileRead (Tab F32)
  | 0, _ => .ok []
  | n + 1, k =>
    match readTiles s u t n k with
    | .error e => .error e
    | .ok vals =>
      match readTile s u t (t.tile + n) with
      | .ok reg =>
        let sh := shapeD t.fmt
        let w := sh.cols * k
        .ok ((tileVals reg).foldl (fun m v => tIns m (v.1 / sh.cols * w + n * sh.cols + v.1 % sh.cols) v.2) vals)
      | e => .error e

/-- The values of one row of tiles of a tensor, keyed row · width + column, width being tiles across times tile columns. -/
def readRowTiles (s : State) (u : Issue) (t : TRef) : Except TileRead (Tab F32) :=
  readTiles s u t (tilesAcross t.cols t.fmt) (tilesAcross t.cols t.fmt)

/-- Row r of such values, cut to the tensor's columns. -/
def tensorRow (t : TRef) (vals : Tab F32) (r : Nat) : List F32 :=
  (gridRow vals ((shapeD t.fmt).cols * tilesAcross t.cols t.fmt) r).take t.cols

/-- How a tile that cannot be read ends the routine's command. -/
def readFailed (s : State) (u : Issue) (h : Hdr) (e : TileRead) : State × Ran :=
  match e with
  | .fault code => refused s u h code 0x16
  | .stained => (consumeStain s (cmdReport u h 0x0303 4 0x16 0), .halted)
  | .wait lines => (askHost s lines false, .blocked true)
  | .ok _ => (s, .done)

/-- Writes a tile's image and scale to a tensor; 0x030A where a page of it is offline, which the routine waits for. -/
def storeTile (s : State) (u : Issue) (t : TRef) (g : Nat) (e : Encoded) (scale : Option F32) : Except Nat State :=
  match ctxAt s u.ctx with
  | none => .error 0x0307
  | some x =>
    let a := tensorAddr s u.ctx u.core t.id g t.fmt
    let n := imageBytes t.fmt
    if !mapped x a n then .error 0x0307
    else if offline s x a n then .error 0x030A
    else
      let s := ctxSplice s u.ctx x a n (memSplice e.data (shapeD t.fmt).dataBytes (shapeD t.fmt).scaleBytes e.scales) false
      match scale with
      | none => .ok s
      | some v =>
        let ea := tensorEntry s u.ctx u.core t.id g
        if offline s x ea 4 then .error 0x030A
        else if mapped x ea 4 then .ok (ctxSplice s u.ctx x ea 4 (memOf (leBytes 4 v.toNat)) false) else .error 0x0307

/-- The values of tile n of a row of tiles. -/
def tileOfRow (t : TRef) (vals : Tab F32) (n : Nat) : Tab F32 :=
  let sh := shapeD t.fmt
  let w := sh.cols * tilesAcross t.cols t.fmt
  (vals.filter (fun v => n * sh.cols ≤ v.1 % w ∧ v.1 % w < (n + 1) * sh.cols)).map (fun v => (v.1 / w * sh.cols + (v.1 % w - n * sh.cols), v.2))

/-- A conversion into a tensor's tile that no argument gives a slot: a tile-scaled one takes the recorded tile scale, with every count of a
conversion (R48, R49, R110, R111, R116). -/
def recordTile (s : State) (u : Issue) (h : Hdr) (fmt : Byte) (rnd : Nat → Rnd) (vals : Tab F32) (recorded : Option F32) (nans : Nat) :
    Except Nat (State × Encoded × Option F32) :=
  if tileScaled fmt then
    match recorded with
    | none => .error 0x0114
    | some v =>
      if !posNormal32 v then .error 0x0114
      else
        let e := encodeTile fmt v rnd vals
        let s := bump s u.site 0x14 (wordFld 0x048) e.sat
        let s := bump s u.site 0x14 (wordFld 0x04C) e.sat
        let s := bump s u.site 0x14 (wordFld 0x050) e.zeroed
        .ok (checkSatLimit (addNonfinite s u h e.nonfinite) u h, e, none)
  else convertTile s u h 0 0 fmt rnd vals none nans

/-- The recorded tile scale of a tensor's tile, where its conversion takes it: without a slot, or through a RECORDED one (R116, R566). An error
is a fault's code, 0x0303 for a stained entry and 0x030A for one on an offline page. -/
def recordedScale (s : State) (u : Issue) (t : TRef) (slot : Option Nat) (g : Nat) : Except Nat (Option F32) :=
  if tileScaled t.fmt && slot.elim true (fun k => (slotAt s u.site k).mode = 3) then
    match readEntry s u (tensorEntry s u.ctx u.core t.id g : Nat) with
    | .ok v => .ok (some v)
    | .fault code => .error code
    | .stained => .error 0x0303
    | .wait => .error 0x030A
  else .ok none

/-- What a write of tiles comes to: the state after it, or the state in which it stopped with the code of the fault; code 0 says that a fault
of a conversion halted the queue, as SAT_LIMIT may (R111, R206). -/
abbrev Wrote := Except (State × Nat) State

/-- Converts one tile of values into a tensor, through a slot or by its recorded scale. The first fresh rows are results of arithmetic: their NaN
count where the format is FP32 (R117). What was converted stays when the write then stops. -/
def writeTile (h : Hdr) (u : Issue) (t : TRef) (slot : Option Nat) (round fresh : Nat) (vals : Tab F32) (g : Nat) (s : State) : Wrote :=
  let rnd := rounding s u round (BitVec.ofNat 16 t.id) (BitVec.ofNat 24 g)
  let nans := nanCount (vals.filter (fun v => v.1 / max 1 (shapeD t.fmt).cols < fresh))
  if tileLines s u t g true ≠ [] then .error (askHost s (tileLines s u t g true) true, 0x030A)
  else match recordedScale s u t slot g with
  | .error e => .error (s, e)
  | .ok v =>
    match (match slot with
      | some k => convertTile s u h 0 k t.fmt rnd vals v nans
      | none => recordTile s u h t.fmt rnd vals v nans) with
    | .error e => .error (s, e)
    | .ok (s, e, scale) =>
      match storeTile s u t g e scale with
      | .error e => .error (s, e)
      | .ok s => if queueHalts s u then .error (s, 0) else .ok s

/-- Converts one row of tiles into a tensor through a slot, in ascending tile order; none takes the recorded tile scales (R116, R212). A fault
stops the tiles after it. -/
def writeRowTiles (h : Hdr) (u : Issue) (t : TRef) (slot : Option Nat) (round fresh : Nat) (vals : Tab F32) : Nat → State → Wrote
  | 0, s => .ok s
  | n + 1, s =>
    match writeRowTiles h u t slot round fresh vals n s with
    | .error e => .error e
    | .ok s => writeTile h u t slot round fresh (tileOfRow t vals n) (t.tile + n) s

/-- The rows of every tensor: all of them are results of arithmetic. -/
def allFresh : Nat := 1024

/-- A routine's command that computes a row of tiles and writes it. A wait for an offline page, or for lines that the
host may hold, starts it over from the state before it. -/
def endWrite (u : Issue) (h : Hdr) (old : State) (r : Wrote) : State × Ran :=
  match r with
  | .ok s => (s, .done)
  | .error (s, 0) => (s, .halted)
  | .error (s, 0x0303) => (consumeStain s (cmdReport u h 0x0303 4 0x13 0), .halted)
  | .error (t, 0x030A) => (askAgain old t, .blocked true)
  | .error (s, code) => refused s u h code 0x13

/-- Loads a tensor's tile into a register. -/
def loadTileBody (t : TRef) (g k : Nat) : Body := fun h s u =>
  match readTile s u t g with
  | .ok reg => (modCore s u.site (fun c => setRegStain (setTile c k reg) k []), .done)
  | e => readFailed s u h e

/-- CHAIN_PRODUCT (R209, R210): pairs in ascending index into one accumulator. -/
def chainProductCheck (s : State) (u : Issue) : Check := do
  let t ← refArg s u (argOf s u 1) 1
  let _ ← if pairGroup t.fmt = 0 ∧ t.fmt ≠ 7 then Except.error (0x0101, 1) else .ok ()
  let xf := openStream t.fmt
  let x ← rangeArg (argOf s u 2) (2 ^ 21 - 1) 2
  let _ ← extentArg s u (rowSpec x) (do
    let n ← countArg (argOf s u 3) 4096 3
    let stride ← rangeArg (argOf s u 4) (2 ^ 21 - 1) 4
    .ok (((n - 1) * stride + imageRows xf) * 128)) 2
  let n ← countArg (argOf s u 3) 4096 3
  let _ ← tilesArg t n 3
  let stride ← rangeArg (argOf s u 4) (2 ^ 21 - 1) 4
  let a ← rangeArg (argOf s u 5) 3 5
  let f ← flagsArg (argOf s u 6) 6
  let _ ← if bitOf f 1 && !streamsTransposed xf then Except.error (0x0101, 6) else .ok ()
  let one := fun (i : Nat) =>
    [((3 : Byte), loadTileBody t (t.tile + i) (i % 2)),
     (1, productBody (productOps true 0 (i % 2) a (x + i * stride) xf t.fmt (openScale i) (bitOf f 0) (bitOf f 1) (bitOf f 2 || i ≠ 0) (f / 16)))]
  .ok { inner := ((List.range n).map one).flatten, results := fun _ => [], tiles := [0, 1, 2, 3], accs := [], locks := true }

/-! ### Normalisation and softmax (R89, R212, R213) -/

/-- An FP32 argument. -/
def fpArg (v pos : Nat) : Except (Nat × Nat) F32 := if 2 ^ 32 ≤ v then .error (0x0100, pos) else .ok (BitVec.ofNat 32 v)

/-- r = rsqrt(rowsum(x²) · recip(L) + ε) (R89). -/
def rmsScale (xs : List F32) (eps : F32) : F32 :=
  rsqrt32 (add32 (mul32 (rowReduce 1 xs) (recip32 (nat32 xs.length))) eps)

/-- Rows of results as values keyed by a tensor's width. -/
def rowsVals (t : TRef) (rows : List (List F32)) : Tab F32 :=
  let w := (shapeD t.fmt).cols * tilesAcross t.cols t.fmt
  ((rows.zipIdx.map (fun r => r.1.zipIdx.map (fun x => (r.2 * w + x.2, x.1)))).flatten).filter (fun v => v.2 ≠ 0)

/-- μ of layer normalisation, and its r = rsqrt(rowsum((x − μ)²) · recip(L) + ε) (R212). -/
def layerScale (xs : List F32) (eps : F32) : F32 × F32 :=
  let m := mul32 (rowReduce 0 xs) (recip32 (nat32 xs.length))
  (m, rmsScale (xs.map (fun x => sub32 x m)) eps)

/-- The output row of RMS normalisation: x · r · g (R89). -/
def rmsRow (eps : F32) (xs gain _bias : List F32) : List F32 :=
  let r := rmsScale xs eps
  (xs.zip gain).map (fun x => mul32 (mul32 x.1 r) x.2)

/-- An output row of layer normalisation, which rests on x, μ, r, gain and bias; how is not stated (log entry 16). -/
def layerRow (eps : F32) (xs gain bias : List F32) : List F32 :=
  let (m, r) := layerScale xs eps
  ((xs.zip gain).zip bias).map (fun x => Config.layerOut x.1.1 m r x.1.2 x.2)

/-- A normalisation forward: the input goes to the saved format and back, and the output is formed from the decoded rows, the gain and the
bias by f (R114, R212). The conversions take the policy's rounding (log entry 33). -/
def normFwdBody (x g b y sv : TRef) (slot rows : Nat) (f : List F32 → List F32 → List F32 → List F32) : Body := fun h s u =>
  let old := s
  match readRowTiles s u x, readRowTiles s u g, readRowTiles s u b with
  | .error e, _, _ => readFailed s u h e
  | _, .error e, _ => readFailed s u h e
  | _, _, .error e => readFailed s u h e
  | .ok xv, .ok gv, .ok bv =>
    let xrows := (List.range rows).map (tensorRow x xv)
    match writeRowTiles h u sv (some slot) 0 0 (rowsVals sv xrows) (tilesAcross sv.cols sv.fmt) s with
    | .error e => endWrite u h old (.error e)
    | .ok s =>
      match readRowTiles s u sv with
      | .error e => readFailed s u h e
      | .ok dv =>
        let out := rowsVals y ((List.range rows).map (fun r => f (tensorRow sv dv r) (tensorRow g gv 0) (tensorRow b bv 0)))
        endWrite u h old (writeRowTiles h u y (some slot) 0 allFresh out (tilesAcross y.cols y.fmt) s)

/-- The shapes of a normalisation's tensors agree: one row length, and a gain of it. -/
def sameCols (a b : TRef) (pos : Nat) : Except (Nat × Nat) Unit := if a.cols = b.cols then .ok () else .error (0x0102, pos)

/-- RMSNORM_FWD and LAYERNORM_FWD (R209, R212). The slot serves the saved format and the output's (R203, R212). DESIGN CHOICE (log entry 91): the
norms, softmax, TENSOR_NORM2 and attention issue one vector command each, which is what TRACE_INNER traces (R197). -/
def normFwdCheck (layer : Bool) (s : State) (u : Issue) : Check := do
  let x ← refArg s u (argOf s u 1) 1
  let g ← refArg s u (argOf s u 2) 2
  let _ ← sameCols x g 2
  let b ← if layer then refArg s u (argOf s u 2 + 2 ^ 24) 2 else .ok g
  let _ ← sameCols x b 2
  let y ← refArg s u (argOf s u 3) 3
  let _ ← sameCols x y 3
  let _ ← matchArg s u y.fmt (argOf s u 6) 3
  let sv ← refArg s u (argOf s u 4) 4
  let _ ← sameCols x sv 4
  let _ ← matchArg s u sv.fmt (argOf s u 6) 4
  let eps ← fpArg (argOf s u 5) 5
  let slot ← slotArg s u (if tileScaled sv.fmt then sv.fmt else y.fmt) (argOf s u 6) 6
  let rows ← sharedRows (argOf s u 7) [x, y, sv] 7
  .ok { inner := [(2, normFwdBody x g b y sv slot rows (if layer then layerRow eps else rmsRow eps))], results := fun _ => []
        tiles := [0, 1, 2, 3], accs := [], locks := true }

/-- What a normalisation's backward pass recomputes of a saved row (R89): μ (+0 for RMS) and r. -/
def normStats (layer : Bool) (eps : F32) (xs : List F32) : List F32 :=
  if layer then [(layerScale xs eps).1, (layerScale xs eps).2] else [0, rmsScale xs eps]

/-- Row 0 of a FP32 tensor's values with a row added to it; the other rows stay, and are no result of arithmetic. -/
def addToRow (t : TRef) (old : Tab F32) (row : List F32) : Tab F32 :=
  rowsVals t [((tensorRow t old 0).zip row).map (fun x => add32 x.1 x.2)] ++
    old.filter (fun v => (shapeD t.fmt).cols * tilesAcross t.cols t.fmt ≤ v.1)

/-- A normalisation backward (R89, R209, R212): the statistics are recomputed from the saved rows; dX, and the sums that dGain and dBias
accumulate, rest on the saved rows, the statistics, the gain and dY; how is not stated (log entry 16). -/
def normBwdBody (layer : Bool) (sv g dy dx : TRef) (dgs : List TRef) (eps : F32) (rows : Nat) : Body := fun h s u =>
  let old := s
  match readRowTiles s u sv, readRowTiles s u g, readRowTiles s u dy, dgs.mapM (fun t => (readRowTiles s u t).map (fun v => (t, v))) with
  | .error e, _, _, _ => readFailed s u h e
  | _, .error e, _, _ => readFailed s u h e
  | _, _, .error e, _ => readFailed s u h e
  | _, _, _, .error e => readFailed s u h e
  | .ok xv, .ok gv, .ok yv, .ok dv =>
    let gain := tensorRow g gv 0
    let parts := (List.range rows).map (fun r =>
      [tensorRow sv xv r, tensorRow dy yv r, normStats layer eps (tensorRow sv xv r)])
    let out := rowsVals dx (parts.map (fun p => (List.range dx.cols).map (fun c => Config.normGrad layer 0 c (p ++ [gain]))))
    let sums := dv.zipIdx.map (fun (x : (TRef × Tab F32) × Nat) => (x.1.1, 1, addToRow x.1.1 x.1.2
      ((List.range x.1.1.cols).map (fun c => Config.normGrad layer (1 + x.2) c parts.flatten))))
    endWrite u h old (((dx, allFresh, out) :: sums).foldlM (fun s (x : TRef × Nat × Tab F32) =>
      writeRowTiles h u x.1 none 0 x.2.1 x.2.2 (tilesAcross x.1.cols x.1.fmt) s) s)

/-- RMSNORM_BWD and LAYERNORM_BWD (R209, R212). -/
def normBwdCheck (layer : Bool) (s : State) (u : Issue) : Check := do
  let sv ← refArg s u (argOf s u 1) 1
  let g ← refArg s u (argOf s u 2) 2
  let _ ← sameCols sv g 2
  let dy ← refArg s u (argOf s u 3) 3
  let _ ← sameCols sv dy 3
  let dx ← refArg s u (argOf s u 4) 4
  let _ ← sameCols sv dx 4
  let eps ← fpArg (argOf s u 5) 5
  let dg ← refArg s u (argOf s u 6) 6
  let _ ← if dg.fmt = 0 then sameCols sv dg 6 else .error (0x0101, 6)
  let db ← if layer then (refArg s u (argOf s u 6 + 2 ^ 24) 6).map (fun t => [t]) else .ok []
  let _ ← if db.all (fun t => t.fmt = 0) then Except.ok () else .error (0x0101, 6)
  let _ ← if db.all (fun t => t.cols = sv.cols) then Except.ok () else .error (0x0102, 6)
  let rows ← sharedRows (argOf s u 7) [sv, dy, dx] 7
  .ok { inner := [(2, normBwdBody layer sv g dy dx (dg :: db) eps rows)], results := fun _ => []
        tiles := [0, 1, 2, 3, 4, 5], accs := [], locks := true }

/-- log₂e as FP32. -/
def log2e : F32 := 0x3FB8AA3B

/-- p and l of R89 for one row of scores: p = exp2((s − m) · log₂e), l = rowsum(p). -/
def softmaxParts (scores : List F32) : List F32 × F32 :=
  let m := rowReduce 2 scores
  let p := scores.map (fun x => exp2F (mul32 (sub32 x m) log2e))
  (p, rowReduce 0 p)

/-- A softmax output row (R89, R213). -/
def softmaxRow (scale : F32) (xs : List F32) : List F32 :=
  let (p, l) := softmaxParts (xs.map (fun x => mul32 x scale))
  p.map (fun v => mul32 v (recip32 l))

/-- dX = p · (dY − rowsum(p · dY)) with p the recomputed output (R213). -/
def softmaxBack (scale : F32) (xs dy : List F32) : List F32 :=
  let p := softmaxRow scale xs
  let d := rowReduce 0 ((p.zip dy).map (fun x => mul32 x.1 x.2))
  (p.zip dy).map (fun x => mul32 x.1 (sub32 x.2 d))

/-- One row of tiles through a function of its rows; the output takes recorded tile scales, since no slot is named, and the policy's rounding,
since no argument gives one (log entry 33). -/
def mapRowsBody (ins : List TRef) (y : TRef) (rows len : Nat) (f : List (List F32) → List F32) : Body := fun h s u =>
  match ins.mapM (fun t => (readRowTiles s u t).map (fun v => (t, v))) with
  | .error e => readFailed s u h e
  | .ok vs =>
    let out := rowsVals y ((List.range rows).map (fun r => f (vs.map (fun x => (tensorRow x.1 x.2 r).take len))))
    endWrite u h s (writeRowTiles h u y none 0 allFresh out (tilesAcross y.cols y.fmt) s)

/-- A row length of 1 to 4,194,304, no longer than a tensor's rows. -/
def lengthArg (v : Nat) (t : TRef) (pos : Nat) : Except (Nat × Nat) Nat :=
  if v = 0 ∨ 4194304 < v then .error (0x0100, pos) else if t.cols < v then .error (0x0102, pos) else .ok v

/-- SOFTMAX_FWD (R209, R213). -/
def softmaxFwdCheck (s : State) (u : Issue) : Check := do
  let x ← refArg s u (argOf s u 1) 1
  let y ← refArg s u (argOf s u 2) 2
  let rows ← sharedRows (argOf s u 3) [x, y] 3
  let len ← lengthArg (argOf s u 4) x 4
  let _ ← if y.cols < len then Except.error (0x0102, 4) else .ok ()
  let scale ← fpArg (argOf s u 5) 5
  .ok { inner := [(2, mapRowsBody [x] y rows len (fun xs => softmaxRow scale (xs.headD [])))], results := fun _ => [], tiles := [0, 1, 2, 3], accs := [],
        locks := true }

/-- SOFTMAX_BWD (R209, R213). -/
def softmaxBwdCheck (s : State) (u : Issue) : Check := do
  let x ← refArg s u (argOf s u 1) 1
  let dy ← refArg s u (argOf s u 2) 2
  let dx ← refArg s u (argOf s u 3) 3
  let rows ← sharedRows (argOf s u 4) [x, dy, dx] 4
  let len ← lengthArg (argOf s u 5) x 5
  let _ ← if dy.cols < len ∨ dx.cols < len then Except.error (0x0102, 5) else .ok ()
  let scale ← fpArg (argOf s u 6) 6
  .ok { inner := [(2, mapRowsBody [x, dy] dx rows len (fun xs => softmaxBack scale (xs.headD []) (xs.getLastD [])))], results := fun _ => []
        tiles := [0, 1, 2, 3, 4, 5], accs := [], locks := true }

/-! ### Quantisation and reductions (R209 to R211) -/

/-- The arguments QUANT, TRANSCODE and DEQUANT share: source, destination, format and rows. DESIGN CHOICE (log entry 155): a scratchpad source is
read as FP32, since no argument gives its format. -/
def convertArgs (s : State) (u : Issue) (ok : Byte → Bool) : Except (Nat × Nat) (Word × Word × Byte) := do
  let a ← sourceArg (argOf s u 1) 1
  let format := fun (d : Word) => formatArg (argOf s u 3) 3 (fun f => ok f && (specKind d ≠ 2 || f = 0))
  let _ ← extentArg s u a (do
    let d ← operandArg (argOf s u 2) 2
    let f ← format d
    let n ← rowsArg (argOf s u 7) (destRows d f) 7
    .ok (sourceBytes 0 n)) 1
  let d ← operandArg (argOf s u 2) 2
  let _ ← extentArg s u d ((format d).map imageBytes) 2
  let f ← format d
  .ok (a, d, f)

/-- QUANT (R211), and TRANSCODE, which decodes into A3 first. DESIGN CHOICE (log entry 155): a destination that is A3 itself is a clobbered
register of R209 and is left undefined. -/
def quantCheck (through : Bool) (s : State) (u : Issue) : Check := do
  let (a, d, f) ← convertArgs s u quantFormat
  let _ ← matchArg s u f (argOf s u 5) 3
  let round ← rangeArg (argOf s u 4) 3 4
  let slot ← slotArg s u f (argOf s u 5) 5
  let key ← rangeArg (argOf s u 6) (2 ^ 40 - 1) 6
  let rows ← rowsArg (argOf s u 7) (destRows d f) 7
  let ops := fun (src : Word) => cvtBody (vecOps d src f round slot 0 rows key)
  .ok { inner := if through then [((2 : Byte), cvtBody (vecOps (accSpec 3) a 0 1 0 0 rows 0)), (2, ops (accSpec 3))] else [(2, ops a)]
        results := fun _ => [], tiles := [], accs := if through then [3] else [] }

/-- DEQUANT (R209): its rounding is not an argument; RNE (log entry 33). -/
def dequantCheck (s : State) (u : Issue) : Check := do
  let (a, d, f) ← convertArgs s u (fun f => f.toNat ≤ 2)
  let rows ← rowsArg (argOf s u 7) (destRows d f) 7
  .ok { inner := [(2, cvtBody (vecOps d a f 1 0 0 rows 0))], results := fun _ => [], tiles := [], accs := [] }

/-- The rows of a source specifier, a scratchpad source read as FP32; a broadcast serves as many as a destination has. -/
def sourceShapeRows (s : State) (u : Issue) (w : Word) : Nat :=
  if specKind w = 1 then (shapeD (tileAt (coreAt s u.site) (specTile w)).format).rows else if specKind w = 3 then 256 else 1024

/-- ROW_REDUCE (R209). -/
def rowReduceCheck (s : State) (u : Issue) : Check := do
  let a ← sourceArg (argOf s u 1) 1
  let reduced := fun (d : Word) => rowsArg (argOf s u 4) (min (sourceShapeRows s u a) (if specKind d = 1 then 256 else 1024)) 4
  let _ ← extentArg s u a ((operandArg (argOf s u 2) 2).bind (fun d => (reduced d).map (fun n => sourceBytes 0 n))) 1
  let d ← operandArg (argOf s u 2) 2
  let _ ← extentArg s u d ((reduced d).map (4 * ·)) 2
  let op ← rangeArg (argOf s u 3) 3 3
  let rows ← reduced d
  .ok { inner := [(2, vredBody (vecOps d a 0 1 0 op rows 0))], results := fun _ => [], tiles := [], accs := [] }

/-- The sum of squares of tiles g to g + n − 1: rows by R87, rows and then tiles in ascending order. -/
def norm2Tiles (s : State) (u : Issue) (t : TRef) : Nat → Except TileRead F32
  | 0 => .ok 0
  | n + 1 =>
    match norm2Tiles s u t n with
    | .error e => .error e
    | .ok acc =>
      match readTile s u t (t.tile + n) with
      | .ok reg =>
        let sh := shapeD t.fmt
        let vals := tileVals reg
        let rs := (List.range sh.rows).map (fun i => if vals.any (fun v => v.1 / sh.cols = i) then rowReduce 1 (gridRow vals sh.cols i) else 0)
        .ok (add32 acc (rs.tail.foldl add32 (rs.headD 0)))
      | e => .error e

/-- TENSOR_NORM2 (R209): S1 takes the sum, which counts where it is NaN (R117). -/
def tensorNorm2Check (s : State) (u : Issue) : Check := do
  let t ← refArg s u (argOf s u 1) 1
  let n := argOf s u 2
  let _ ← if n = 0 ∨ 65535 < n then Except.error (0x0100, 2) else .ok ()
  let _ ← tilesArg t n 2
  .ok { inner := [(2, fun h s u => match norm2Tiles s u t n with
          | .error e => readFailed s u h e
          | .ok v => (addNonfinite (writeReg s u 1 (v.setWidth 64)) u h (if isNan32 v then 1 else 0), .done))]
        results := fun _ => [], tiles := [0], accs := [], locks := true }

/-- The routine SPARSE_PRODUCT's operands (R243). -/
def sparseRoutineOps (s : State) (u : Issue) : SparseOps :=
  let f := argOf s u 4
  let wf := (tileAt (coreAt s u.site) 0).format
  let xf := if bitOf f 7 then openStream wf else (tileAt (coreAt s u.site) 1).format
  { product := productOps (bitOf f 7) 1 0 (argOf s u 3) (bitsOf f 28 8) xf wf (BitVec.ofNat 32 (f / 2 ^ 32)) (bitOf f 0) (bitOf f 1) (bitOf f 2) (bitsOf f 5 4)
    sparseFormat := BitVec.ofNat 3 (argOf s u 2), metaRow := BitVec.ofNat 21 (argOf s u 1), reg := 0 }

/-- The routine's one command, and its return. -/
def sparseRoutineRun (h : Hdr) (u : Issue) (o : SparseOps) (s : State) : State × Ran :=
  let p : Plan := { inner := [(4, sparseProductBody o)], results := fun _ => [], tiles := [], accs := [] }
  match runInner h u p.inner s with
  | (r, .done) => (endRoutine r u (warnCounts s u) p none, .done)
  | r => r

/-- The trace of a routine's CHECK, which starts and retires at once. -/
def checkTraced (s : State) (u : Issue) (h : Hdr) : State :=
  let g := { tracedHdr s u h with engine := 4 }
  traceRec (traceRec s u g 0) u g 1

/-- The first of the accumulator and the flags that is out of range (R205, R243). -/
def laterArg (s : State) (u : Issue) : Option Nat :=
  let f := argOf s u 4
  if 3 < argOf s u 3 then some 3 else if bitOf f 3 || bitOf f 6 || bitsOf f 31 29 ≠ 0 then some 4 else none

/-- SPARSE_PRODUCT routine (R243): the metadata's extent stands at position 1, ahead of the accumulator and the flags; a refusal of the metadata
is recorded and returned as SPARSE_METADATA. -/
def sparseRoutineBody : Body := fun h s u =>
  let opt := argOf s u 0
  let sf := argOf s u 2
  let o := sparseRoutineOps s u
  let wf := o.product.wFormat
  let fail := fun (code pos : Nat) => (returnWith s u (statusWord code pos 0 0), Ran.done)
  if 8 ≤ (threadAt s u.site u.t).rets.length then refused s u h 0x0112 0x11
  else if 4 ≤ opt then fail 0x0100 0
  else if spRows s u.ctx ≤ argOf s u 1 then fail 0x0100 1
  else if sf < 1 ∨ 4 < sf then fail 0x0100 2
  else if enginesWait (coreAt s u.site) [4] || !spServed s u.site 0 then (s, .blocked false)
  else match readMeta s u (argOf s u 1) sf wf, laterArg s u with
    | .range, _ => fail 0x0100 1
    | _, some pos => fail 0x0100 pos
    | .stained, none => (consumeStain s (cmdReport u h 0x0303 4 0x15 0), .halted)
    | .ok m, none =>
      match metaCheck sf wf m with
      | some (code, offset) =>
        let s := raise (noteRefusal (checkTraced s u h) u.site offset) (cmdReport u h code 2 0x15 offset)
        (returnWith s u (statusWord 0x0107 0 0 0), .done)
      | none =>
        let d := (sparseHead m).span / denseWidth wf
        if !o.product.xFromSp && d ≠ 1 then fail 0x0102 4
        else if o.product.wTranspose && (nOf4 sf || d ≠ 1) then fail 0x0100 4
        else if o.product.xFromSp && tileScaled o.product.xFormat && !posNormal32 o.product.xScale then fail 0x0100 4
        else if o.product.xFromSp && decide (spRows s u.ctx < o.product.xRow.toNat + d * imageRows o.product.xFormat) then fail 0x0100 4
        else if pairGroup wf = 0 ∧ wf ≠ 7 then fail 0x0101 8
        else if !pairOk wf o.product.xFormat || (o.product.xTranspose && !streamsTransposed o.product.xFormat) then fail 0x0101 9
        else if bitOf opt 0 then (returnWith s u 0, .done)
        else sparseRoutineRun (tracedHdr s u h) u { o with product := { o.product with xReg := if d = 1 then 1 else 0 } }
          (checkTraced s u h)

/-! ### Self-check and information -/

/-- Whether another command of the context stands in the core's engine queues (R228). -/
def contextBusy (s : State) (u : Issue) : Bool :=
  let c := coreAt s u.site
  let ours := fun (q : Nat) => match queueAt s q with | some e => decide (e.ctx = u.ctx) | none => false
  c.held.any (fun x => match instrQueue x.2 with | some q => ours q | none => false) || c.started.any (fun x => ours x.2.queue.toNat) ||
    c.descs.any (fun d => d.2.flight.any (fun f => ours f.2.1.queue.toNat))

/-- SELF_CHECK (R228): failing areas and the first failing vector are what the hardware finds, given with the command. -/
def selfCheckBody (failing : List Nat) (first : Word) : Body := fun h s u =>
  let opt := argOf s u 0
  let mask := argOf s u 1
  let fail := fun (code pos : Nat) => (returnWith s u (statusWord code pos 0 0), Ran.done)
  if 8 ≤ (threadAt s u.site u.t).rets.length then refused s u h 0x0112 0x11
  else if 4 ≤ opt then fail 0x0100 0
  else if 128 ≤ mask then fail 0x0100 1
  else if contextBusy s u then fail 0x0106 0
  else if bitOf opt 0 then (returnWith s u 0, .done)
  else
    let bad := failing.filter (fun a => a < 7 ∧ (mask = 0 ∨ bitOf mask a))
    let p : Plan := { inner := [], results := fun _ => [], tiles := List.range 16, accs := List.range 4 }
    if bad = [] then
      (endRoutine s u (warnCounts s u) { p with results := fun _ => [(1, 0), (2, 0)] } (some 0), .done)
    else
      let word := statusWord 0x0110 0 0 first.toNat
      let areas := (bad.eraseDups.map (fun a => 2 ^ a)).foldl (· + ·) 0
      let s := raise s (cmdReport u h 0x0903 0 0x11 first.toNat)
      (endRoutine s u (warnCounts s u) { p with results := fun _ => [(1, BitVec.ofNat 64 areas), (2, first.setWidth 64)] } (some word), .done)

/-- LIB_INFO (R217): numeric level 1, version 1.0.0, 22 routines. -/
def libInfoCheck (_ : State) (_ : Issue) : Check :=
  .ok { inner := [], results := fun _ => [(1, 1), (2, 0x01000000), (3, 22)], tiles := [], accs := [] }

/-! ### Collective routines (R204) -/

/-- A core's arrival at a collective routine: digest of its collective arguments, and the status its own check refused with. -/
def arriveRoutine (s : State) (u : Issue) (id : Nat) (digest : Dword) (bad : Option (Nat × Nat)) (i : Instr) : State :=
  let s := arrive s u 3 id digest i
  { s with mesh := { s.mesh with arrivals := s.mesh.arrivals.map (fun a =>
      if a.kind = 3 ∧ a.ctx = u.ctx ∧ a.thread = u.t ∧ a.core = u.core ∧ a.op = id then
        { a with refused := bad.map (fun b => b.2 * 2 ^ 24 + b.1) } else a) } }

/-- The end of a collective routine: a mismatch or a refusal returns a status on every core; otherwise run ends it (R204). -/
def endCollective (s : State) (u : Issue) (id : Nat) (run : State → Issue → Hdr → State × Ran) : State × Ran :=
  match meeting s 3 u.ctx u.t id with
  | none => (s, .waiting)
  | some as =>
    let same := as.all (fun a => some a.value = (as.head?.map Arrival.value))
    let firstBad := (as.find? (fun a => a.refused.isSome)).map Arrival.core
    let word := fun (core : Nat) =>
      if !same then some (statusWord 0x0104 0 0 0)
      else match firstBad with
        | none => none
        | some k =>
          match (as.find? (fun a => a.core = core)).bind Arrival.refused with
          | some w => some (BitVec.ofNat 64 w)
          | none => some (statusWord 0x0105 0 0 k)
    (endMeeting s as (fun s w h =>
      match word w.core with
      | some v => (returnWith s w v, .done)
      | none => if bitOf (argOf s w 0) 0 then (returnWith s w 0, .done) else run s w h), .waiting)

/-- LAYOUT_REDUCE's own check: source, destination, operation, rows; the extents stand at their own positions (R205). -/
def layoutReduceCheck (s : State) (u : Issue) : Except (Nat × Nat) (Word × Word × Nat × Nat) := do
  let _ ← if 4 ≤ argOf s u 0 then Except.error (0x0100, 0) else .ok ()
  let a ← sourceArg (argOf s u 1) 1
  let rowsFor := fun (d : Word) => rowsArg (argOf s u 4) (min (sourceShapeRows s u a) (destRows d 0)) 4
  let _ ← extentArg s u a (do
    let d ← operandArg (argOf s u 2) 2
    (rowsFor d).map (sourceBytes 0)) 1
  let d ← operandArg (argOf s u 2) 2
  let _ ← fitsArg s u d (imageBytes 0) 2
  let op ← rangeArg (argOf s u 3) 2 3
  let rows ← rowsFor d
  .ok (a, d, op, rows)

/-- Two grids combined position by position. -/
def combineVals (f : F32 → F32 → F32) (a b : Tab F32) : Tab F32 :=
  let ks := sortDistinct ((a.map (·.1)) ++ (b.map (·.1)))
  (ks.map (fun k => (k, f (tGet 0 a k) (tGet 0 b k)))).filter (fun x => x.2 ≠ 0)

/-- What a core gives to LAYOUT_REDUCE over the destination's columns. -/
def layoutInput (s : State) (w : Issue) (cols : Nat) : Tab F32 :=
  match layoutReduceCheck s w with
  | .error _ => []
  | .ok (a, d, _, rows) => elementwise (fun x _ _ => quiet32 x) (sourceOf s w (vecOps d a 0 1 0 0 rows 0) rows a) (.bcast 0) (.bcast 0) rows cols

/-- LAYOUT_REDUCE (R204, R209): every core's source combined by the fixed tree into every core's destination. Its reduction packets wait while HOLD
is set or a link on their way retrains (R332, R342). -/
def layoutReduceBody (i : Instr) : Body := fun own s u =>
  if 8 ≤ (threadAt s u.site u.t).rets.length then refused s u own 0x0112 0x11
  else if [1, 2].any (fun i => specKind (BitVec.ofNat 32 (argOf s u i)) = 3) && !spServed s u.site 3 || holdSet s u.site then (s, .blocked false)
  else viaRoot s u own i (
  let check := layoutReduceCheck s u
  let bad := match check with | .error e => some e | .ok _ => none
  let s := arriveRoutine s u 0x0502 (Config.argDigest [BitVec.ofNat 64 (argOf s u 3), BitVec.ofNat 64 (argOf s u 4)]) bad i
  let issuers := match meeting s 3 u.ctx u.t 0x0502 with | some as => as.filterMap (fun (a : Arrival) => issueBase s a.queue) | none => []
  let before := s
  endCollective s u 0x0502 (fun s w h =>
    match layoutReduceCheck s w with
    | .error _ => (s, .done)
    | .ok (_, d, op, rows) =>
      if issuers.any (fun v => match layoutReduceCheck before v with
          | .ok (a, d, _, rows) => sourceStained before v (vecOps d a 0 1 0 0 rows 0) rows a | .error _ => false) then
        (consumeStain s (cmdReport w h 0x0303 4 0x13 0), .halted)
      else
        let cols := if specKind d = 2 then 1024 else 512
        let f := if op = 0 then add32 else if op = 1 then max32 else min32
        let vals := treeFold (combineVals f) [] 7 (issuers.map (fun v => layoutInput before v cols))
        let counts := warnCounts s w
        let write : Body := fun h s w => writeVector h s w (vecOps d 0 0 1 0 0 rows 0) rows vals (nanCount vals)
        match runInner (tracedHdr s w h) w [(2, write)] s with
        | (s, .done) => (endRoutine s w counts { inner := [], results := fun _ => [], tiles := [], accs := [3] } none, .done)
        | r => r))

/-! ### Attention (R214 to R216) -/

/-- A field of the attention argument block (R214). -/
def attnField (s : State) (u : Issue) (o n : Nat) : Nat :=
  leNat (memBytes s.store.scratch (rowKey u.site (spBase s u.ctx + argOf s u 1) + o) n)

/-- The tensor references of an attention routine's outputs. -/
def attnOutputs (s : State) (u : Issue) (back : Bool) : Except (Nat × Nat) (List TRef) :=
  (if back then [32, 40, 48] else [24]).mapM (fun o => refArg s u (attnField s u o 8) 1)

/-- The argument check of the attention routines (R214), which gives the operands Q, K, V (and dO) and the outputs. The heads called for lie in
the tensors' columns, which are one number in all of them (log entry 16). -/
def attnCheck (back glob : Bool) (s : State) (u : Issue) : Except (Nat × Nat) (List TRef × List TRef) := do
  let _ ← if 4 ≤ argOf s u 0 then Except.error (0x0100, 0) else .ok ()
  let _ ← if spRows s u.ctx ≤ argOf s u 1 then Except.error (0x0100, 1) else .ok ()
  let q ← refArg s u (attnField s u 0 8) 1
  let k ← refArg s u (attnField s u 8 8) 1
  let v ← refArg s u (attnField s u 16 8) 1
  let o ← refArg s u (attnField s u 24 8) 1
  let fmt8 := q.fmt = 3 ∨ q.fmt = 4 ∨ q.fmt = 0xB ∨ q.fmt = 0xC
  let _ ← if fmt8 ∧ k.fmt = q.fmt ∧ v.fmt = q.fmt then Except.ok () else .error (0x0101, 1)
  let w := attnField s u 56 4
  let g := attnField s u 60 4
  let power := g ≠ 0 ∧ 2 ^ Nat.log2 g = g
  let strideOk := if glob then 1024 ≤ g ∧ g ≤ 1048576 ∧ power else g = 0
  let heads := attnField s u 66 2
  let width := attnField s u 68 2
  let restZero := (List.range 52).all (fun i => attnField s u (76 + i) 1 = 0)
  let refsZero := back || (attnField s u 32 8 = 0 && attnField s u 40 8 = 0 && attnField s u 48 8 = 0)
  let _ ← if w % 2048 = 0 ∧ 2048 ≤ w ∧ w ≤ 65536 ∧ strideOk ∧ 1 ≤ heads ∧ heads ≤ 256 ∧ (width = 64 ∨ width = 128) ∧
      attnField s u 71 1 ≤ 3 ∧ attnField s u 70 1 ≤ 252 ∧ restZero ∧ refsZero then Except.ok () else .error (0x0100, 1)
  let outs ← attnOutputs s u back
  let _ ← if ([k, v, o] ++ outs).all (fun t => t.cols = q.cols) ∧ (attnField s u 64 2 + heads) * width ≤ q.cols then Except.ok ()
    else .error (0x0102, 1)
  let _ ← (outs.zipIdx).mapM (fun (x : TRef × Nat) => matchArg s u x.1.fmt (attnField s u 70 1 + x.2) 1)
  let _ ← if (List.range 4).all (fun i => (slotAt s u.site (attnField s u 70 1 + i)).owner = 0) then Except.ok () else .error (0x0103, 0)
  .ok ([q, k, v] ++ (if back then [o] else []), outs)

/-- The collective arguments of an attention routine: the argument block's row, and every field of the block but its tensor references (R209,
R214). -/
def attnDigest (s : State) (u : Issue) : Dword :=
  Config.argDigest (BitVec.ofNat 64 (argOf s u 1) :: (List.range 9).map (fun i => BitVec.ofNat 64 (attnField s u (56 + 8 * i) 8)))

/-- The token tiles of a record, and the first tile of core k under slice weights (R365, R366). -/
def tokenTiles (r : StepRec) : Nat := r.tokens.foldl (· + ·) 0 / 1024
def sliceStart (w : List Nat) (nt k : Nat) : Nat := nt * ((w.take k).foldl (· + ·) 0) / max 1 (w.foldl (· + ·) 0)

/-- One attention call as every core of the layout runs it: the cores with their operands Q, K, V and dO, the first token tile of each core's
slice with the end after the last (R366), the token tiles at which the sequence slots begin with the end after the last (R365), and the
block's fields. -/
structure Attn where
  id : Nat
  cores : List (Issue × List TRef)
  starts : List Nat
  slots : List Nat
  window : Nat
  stride : Nat
  headFirst : Nat
  headCount : Nat
  headWidth : Nat
  base : Nat
  round : Nat
  scale : F32

/-- The call of a core whose peers are given. Without a step record, the tokens are the rows of Q in one slot (log entry 16). -/
def attnOf (s : State) (id : Nat) (back glob : Bool) (peers : List Issue) (u : Issue) : Attn :=
  let ins := fun (v : Issue) => match attnCheck back glob s v with | .ok r => r.1 | .error _ => []
  let weights := match (ctxAt s u.ctx).bind Ctx.loaded with | some l => l.weights | none => []
  let tokens := match s.step.record with
    | some r => r.tokens
    | none => [((ins u).head?.elim 0 TRef.rows + 1023) / 1024 * 1024]
  let total := tokens.foldl (· + ·) 0 / 1024
  { id := id, cores := peers.map (fun v => (v, ins v)), starts := (List.range (peers.length + 1)).map (sliceStart weights total)
    slots := (List.range (tokens.length + 1)).map (fun i => (tokens.take i).foldl (· + ·) 0 / 1024)
    window := attnField s u 56 4, stride := attnField s u 60 4, headFirst := attnField s u 64 2, headCount := attnField s u 66 2
    headWidth := attnField s u 68 2, base := attnField s u 70 1, round := attnField s u 71 1, scale := BitVec.ofNat 32 (attnField s u 72 4) }

/-- The part of ascending bounds in which a token tile lies: its number and first tile. -/
def partOf (bounds : List Nat) (tile : Nat) : Nat × Nat × Nat :=
  let i := ((bounds.filter (fun b => b ≤ tile)).length - 1)
  (i, bounds.getD i 0, bounds.getD (i + 1) 0)

/-- The keys of token i in the order of R216: those of its window in ascending position, then the global tokens of its slot outside the window;
a global token attends to every token of its slot, in ascending position (R215; log entry 16). -/
def attnKeys (a : Attn) (i : Nat) : List Nat :=
  let (_, lo, hi) := partOf a.slots (i / 1024)
  let n := a.window / 2048
  let all := (List.range ((hi - lo) * 1024)).map (fun j => lo * 1024 + j)
  let inWindow := fun (j : Nat) => i / 1024 ≤ j / 1024 + n ∧ j / 1024 + 1 ≤ i / 1024 + n
  let isGlobal := fun (j : Nat) => a.stride ≠ 0 ∧ (j - lo * 1024) % a.stride = 0
  if isGlobal i then all else all.filter (fun j => decide (inWindow j)) ++ all.filter (fun j => decide (¬ inWindow j ∧ isGlobal j))

/-- Tile c of a token tile's row in operand k (0 Q, 1 K, 2 V, 3 dO) as its home core holds it: each core's reference names the first tile of
its own slice (R214). A halo is a tile of another core (R215). -/
def attnTile (s : State) (a : Attn) (k tile c : Nat) : TileRead :=
  let (core, first, _) := partOf a.starts tile
  match a.cores[core]? with
  | none => .fault 0x0307
  | some (v, ins) => match ins[k]? with
    | none => .fault 0x0307
    | some t => readTile s v t (t.tile + (tile - first) * (1024 / max 1 (shapeD t.fmt).rows) * tilesAcross t.cols t.fmt + c)

/-- The same as a tile register; an empty one where it cannot be read. -/
def attnReg (s : State) (a : Attn) (k tile c : Nat) : TileReg := match attnTile s a k tile c with | .ok r => r | _ => freshTile

/-- Columns c to c + n − 1 of a tile as an operand of a product. -/
def headOperand (r : TileReg) (c n : Nat) : Operand :=
  let o := denseOperand [r] false
  { o with depth := n, elem := fun t k => o.elem t (c + k), scale := fun t k => o.scale t (c + k)
           live := (o.live.filter (fun x => c ≤ x.2 ∧ x.2 < c + n)).map (fun x => (x.1, x.2 - c)) }

/-- The product of the saved query of token i and the saved key of token j in a head (R115). -/
def attnProduct (s : State) (a : Attn) (head i j : Nat) : F32 :=
  let col := head * a.headWidth
  let q := attnReg s a 0 (i / 1024) (col / 512)
  let k := attnReg s a 1 (j / 1024) (col / 512)
  let p : ProductIn :=
    { x := headOperand q (col % 512) a.headWidth, w := headOperand k (col % 512) a.headWidth, wT := false
      sx := scaleFactor q.format q.tileScale, sw := scaleFactor k.format k.tileScale, rows := 1024, side := 1024, upsets := [], wideZero := false }
  (outputAt p none none (i % 1024) (j % 1024)).1

/-- The score of token i against token j in a head: that product, by SCORE_SCALE (R214). -/
def attnScore (s : State) (a : Attn) (head i j : Nat) : F32 := mul32 (attnProduct s a head i j) a.scale

/-- The values of a token's row of one operand in a head. -/
def headRow (s : State) (a : Attn) (k head i : Nat) : List F32 :=
  let cols := match (a.cores.head?.bind (fun x => x.2[k]?)) with | some t => (shapeD t.fmt).cols | none => 512
  let rows := match (a.cores.head?.bind (fun x => x.2[k]?)) with | some t => (shapeD t.fmt).rows | none => 1024
  let across := match (a.cores.head?.bind (fun x => x.2[k]?)) with | some t => tilesAcross t.cols t.fmt | none => 1
  (List.range a.headWidth).map (fun c =>
    let col := head * a.headWidth + c
    tile32 (attnReg s a k (i / 1024) (i % 1024 / max 1 rows * across + col / max 1 cols)) (i % 1024 % max 1 rows * cols + col % max 1 cols))

/-- Row maximum, probabilities and row sum of a token in a head, over its keys in their order (R87, R89, R216): recomputed in the backward pass
from the same saved operands (R115). -/
def attnRow (s : State) (a : Attn) (head i : Nat) : List Nat × List F32 × F32 :=
  let keys := attnKeys a i
  let (p, l) := softmaxParts (keys.map (attnScore s a head i))
  (keys, p, l)

/-- What an element of token i's own row rests on: probabilities and their sum, and its keys' rows of K and V (and the token's Q and dO). -/
def attnOperands (s : State) (a : Attn) (back : Bool) (head i : Nat) : List (List F32) :=
  let (keys, p, l) := attnRow s a head i
  [p, [l]] ++ keys.map (headRow s a 2 head) ++
    (if back then [headRow s a 3 head i, headRow s a 0 head i] ++ keys.map (headRow s a 1 head) else [])

/-- The token tiles of a list of tokens, each run of one tile once: the order in which their products accumulate (R210, R216). -/
def tileRuns (tokens : List Nat) : List Nat :=
  tokens.foldl (fun l j => if l.getLast? = some (j / 1024) then l else l ++ [j / 1024]) []

/-- The values an accumulator takes as products are added in order, the first overwriting it (R71, R73). -/
def runningSums (parts : List F32) : List F32 :=
  match parts with
  | [] => []
  | x :: r => (r.foldl (fun (l : List F32) v => l ++ [add32 (l.getLastD 0) v]) [x])

/-- The accumulator of an element of O or dQ at a token and column, key tile by key tile in the order of its scores. The product of one key tile
with the converted probabilities (or their gradients) is open: DESIGN CHOICE, log entry 16. -/
def rowSums (s : State) (a : Attn) (back : Bool) (head i c : Nat) : List F32 :=
  runningSums ((tileRuns (attnKeys a i)).zipIdx.map (fun (x : Nat × Nat) =>
    Config.attnElem a.id 0 a.round ([nat32 c, nat32 x.1, nat32 x.2] :: attnOperands s a back head i)))

/-- The accumulator of the part of dK or dV of key j that the query tokens of core k give, query tile by query tile in ascending order. -/
def keySums (s : State) (a : Attn) (part head j c k : Nat) : List F32 :=
  let lo := a.starts.getD k 0 * 1024
  let mine := ((List.range (a.starts.getD (k + 1) 0 * 1024 - lo)).map (fun i => lo + i)).filter (fun i => (attnKeys a i).contains j)
  runningSums ((tileRuns mine).map (fun t =>
    Config.attnElem a.id part a.round ([headRow s a 1 head j, headRow s a 2 head j, [nat32 c]] ++
      ((mine.filter (fun i => i / 1024 = t)).map (fun i =>
        let (keys, p, l) := attnRow s a head i
        [[p.getD (keys.idxOf j) 0, l], headRow s a 0 head i, headRow s a 3 head i])).flatten)))

/-- An element of an output (0 O or dQ, 1 dK, 2 dV) at a token and column. dK and dV are the home core's part, then those of the other cores
in ascending order (R216); a core none of whose tokens attends to the key has no part. What stands outside the call's heads is not stated (log
entry 16). -/
def attnElement (s : State) (a : Attn) (back : Bool) (part token col : Nat) : F32 :=
  let head := col / a.headWidth
  let c := col % a.headWidth
  if head < a.headFirst ∨ a.headFirst + a.headCount ≤ head then Config.attnElem a.id (part + 4) a.round [[nat32 token, nat32 col]]
  else if part = 0 then (rowSums s a back head token c).getLastD 0
  else
    let home := (partOf a.starts (token / 1024)).1
    let cores := home :: (List.range a.cores.length).filter (fun k => k ≠ home)
    (runningSums (cores.filterMap (fun k => (keySums s a part head token c k).getLast?))).getLastD 0

/-- The outputs that the matrix engine of core k writes as NaN or infinity in a call: the products of scores, and the accumulators of O or of dQ,
dK and dV (R77, R117). -/
def attnNonfinite (s : State) (a : Attn) (back : Bool) (k : Nat) : Nat :=
  let lo := a.starts.getD k 0 * 1024
  let own := (List.range (a.starts.getD (k + 1) 0 * 1024 - lo)).map (fun i => lo + i)
  let heads := (List.range a.headCount).map (fun n => a.headFirst + n)
  let bad := fun (l : List F32) => (l.filter (fun v => nonfinite32 v)).length
  let total := fun (l : List Nat) => l.foldl (· + ·) 0
  let keys := ((own.map (attnKeys a)).flatten).eraseDups
  total (heads.map (fun head =>
    total (own.map (fun i => bad ((attnKeys a i).map (attnProduct s a head i)) +
      total ((List.range a.headWidth).map (fun c => bad (rowSums s a back head i c))))) +
    (if back then total (keys.map (fun j => total ((List.range a.headWidth).map (fun c =>
      bad (keySums s a 1 head j c k) + bad (keySums s a 2 head j c k))))) else 0)))

/-- One row of tiles of an output, and all of those of core k's slice, from its own reference on. -/
def attnRows (s : State) (a : Attn) (back : Bool) (part k m : Nat) (t : TRef) : Tab F32 :=
  let sh := shapeD t.fmt
  rowsVals t ((List.range sh.rows).map (fun r => (List.range t.cols).map (fun c =>
    attnElement s a back part (a.starts.getD k 0 * 1024 + m * sh.rows + r) c)))
def attnWrite (h : Hdr) (u : Issue) (from' : State) (a : Attn) (back : Bool) (part k : Nat) (t : TRef) : Nat → State → Wrote
  | 0, s => .ok s
  | m + 1, s =>
    match attnWrite h u from' a back part k t m s with
    | .error e => .error e
    | .ok s =>
      let w := { t with tile := t.tile + m * tilesAcross t.cols t.fmt }
      writeRowTiles h u w (some (a.base + part)) a.round allFresh (attnRows from' a back part k m w) (tilesAcross t.cols t.fmt) s

/-- A slot after conversions of tiles that no rule gives: what its mode lets them change, and no more (R106 to R110, R566). E is a finite magnitude,
and with CORR above 0 the clean count stays below the relaxation's. -/
def openHistory (x : Slot) (relax : Nat) (v : Dword) : Slot :=
  let est : F32 := let e := BitVec.ofNat 32 (bitsOf v.toNat 30 0); if nonfinite32 e then 0x7F7FFFFF else e
  let exp := clampExp (signedOf 8 (bitsOf v.toNat 39 32))
  let corr := bitsOf v.toNat 47 46
  match x.mode.toNat with
  | 0 => { x with valid := true, est := est, scaleExp := exp, corr := corr
                  clean := if corr = 0 then bitsOf v.toNat 54 48 else bitsOf v.toNat 54 48 % 2 ^ relax }
  | 2 => { x with valid := true, est := est, scaleExp := clampExp x.initExp }
  | _ => { x with scaleExp := exp }

/-- What the conversions of probabilities leave in slot SLOT_BASE + 3: they are made, but no rule says into which format and in which tiles (log
entry 16). DESIGN CHOICE (log entry 16): they add nothing to Starch's counts. -/
def attnSlotHistory (s : State) (u : Issue) (from' : State) (a : Attn) (tile : Nat) : State :=
  let v := Config.attnSlot a.id a.round ((List.range a.headCount).map (fun n => (attnRow from' a (a.headFirst + n) (tile * 1024)).2.1))
  modCore s u.site (fun c => { c with slots := tIns c.slots (a.base + 3) (openHistory (tGet freshSlot c.slots (a.base + 3)) (relaxLog2 s u.site) v) })

/-- The first tile that a core's part of the call cannot read: of its own slice in every operand, and of the token tiles whose keys its queries
attend to in K and V. -/
def attnUnread (s : State) (a : Attn) (k : Nat) : Option TileRead :=
  let lo := a.starts.getD k 0
  let own := (List.range (a.starts.getD (k + 1) 0 - lo)).map (fun i => lo + i)
  let keyTiles := ((own.map (fun t => ((attnKeys a (t * 1024)).map (fun j => j / 1024) ++ (attnKeys a (t * 1024 + 1)).map (fun j => j / 1024)))).flatten).eraseDups
  let ops := (a.cores.head?.elim [] (fun x => x.2)).zipIdx
  ops.findSome? (fun (x : TRef × Nat) =>
    let tiles := if x.2 = 1 ∨ x.2 = 2 then (own ++ keyTiles).eraseDups else own
    tiles.findSome? (fun t => (List.range (1024 / max 1 (shapeD x.1.fmt).rows * tilesAcross x.1.cols x.1.fmt)).findSome? (fun c =>
      match attnTile s a x.2 t c with | .ok _ => none | e => some e)))

/-- Token tiles of core k's slice in a call. -/
def sliceTiles (a : Attn) (k : Nat) : Nat := a.starts.getD (k + 1) 0 - a.starts.getD k 0

/-- One core's part of an attention call. -/
def attnRun (a : Attn) (back : Bool) (k : Nat) (outs : List TRef) (from' : State) : Body := fun h s u =>
  match attnUnread from' a k with
  | some e => readFailed s u h e
  | none =>
    let slice := sliceTiles a k
    let bad := attnNonfinite from' a back k
    let old := s
    let s := addNonfinite (bump s u.site 0x12 (wordFld 0x05C) bad) u h bad
    let s := if slice = 0 then s else attnSlotHistory s u from' a (a.starts.getD k 0)
    endWrite u h old (outs.zipIdx.foldlM (fun s (x : TRef × Nat) =>
        attnWrite h u from' a back x.2 k x.1 (slice * (1024 / max 1 (shapeD x.1.fmt).rows)) s) s)

/-- Whether a page of a tensor's tile, or of its tile-scale entry, is offline. -/
def tileAway (s : State) (v : Issue) (t : TRef) (g : Nat) : Bool :=
  match ctxAt s v.ctx with
  | some c => offline s c (tensorAddr s v.ctx v.core t.id g t.fmt) (imageBytes t.fmt) || (tileScaled t.fmt && offline s c (tensorEntry s v.ctx v.core t.id g) 4)
  | none => false

/-- The tiles that a call writes: who writes each, of which tensor, and its number. -/
def attnTiles (a : Attn) (outs : List (Issue × List TRef)) : List (Issue × TRef × Nat) :=
  outs.zipIdx.flatMap (fun x => x.1.2.flatMap (fun t =>
    (List.range (sliceTiles a x.2 * (1024 / max 1 (shapeD t.fmt).rows) * tilesAcross t.cols t.fmt)).map (fun n => (x.1.1, t, t.tile + n))))

/-- The lines that the host may hold and that a call reads or writes are asked of it (R411). -/
def attnAsk (s : State) (a : Attn) (outs : List (Issue × List TRef)) : State :=
  let reads := (List.range a.cores.length).flatMap (fun k => match attnUnread s a k with | some (.wait lines) => lines | _ => [])
  askHost (askHost s reads false) ((attnTiles a outs).flatMap (fun x => tileLines s x.1 x.2.1 x.2.2 true)) true

/-- Whether some core's part of a call waits, for an offline page or for lines of the host, in its operands or in any tile of its outputs (R281,
R411). -/
def attnWaits (s : State) (a : Attn) (outs : List (Issue × List TRef)) : Bool :=
  (List.range a.cores.length).any (fun k => match attnUnread s a k with | some (.wait _) => true | _ => false) ||
    (attnTiles a outs).any (fun x => tileAway s x.1 x.2.1 x.2.2 || tileLines s x.1 x.2.1 x.2.2 true ≠ [])

/-- An attention routine (R214 to R216): it takes its core's lock at entry (R202), meets the other cores, and every core computes the outputs of
its slice from the operands as they all hold them. -/
def attnBody (id : Nat) (back glob : Bool) (i : Instr) : Body := fun h s u =>
  if 8 ≤ (threadAt s u.site u.t).rets.length then refused s u h 0x0112 0x11
  else if !lockFree s u then (s, .blocked false)
  else
    let bad := match attnCheck back glob s u with | .error e => some e | .ok _ => none
    let there := arriveRoutine (takeLock s u) u id (attnDigest s u) bad i
    let peers := match meeting there 3 u.ctx u.t id with | some as => as.filterMap (fun (a : Arrival) => issueBase there a.queue) | none => []
    let call := attnOf s id back glob peers u
    let outs := peers.map (fun v => (v, match attnCheck back glob s v with | .ok r => r.2 | .error _ => []))
    if attnWaits s call outs then (attnAsk s call outs, .blocked true)
    else endCollective there u id (fun s w h =>
      match attnCheck back glob s w with
      | .error _ => (s, .done)
      | .ok (_, outs) =>
        let counts := warnCounts s w
        match runInner (tracedHdr s w h) w [(2, attnRun (attnOf there id back glob peers w) back w.core outs there)] s with
        | (s, .done) => (endRoutine s w counts { inner := [], results := fun _ => [], tiles := List.range 12, accs := List.range 4 } none, .done)
        | r => r)

/-! ### The commands -/

def tileProductBody : Body := routineBody tileProductCheck
def stripProductBody : Body := routineBody stripProductCheck
def chainProductBody : Body := routineBody chainProductCheck
def attnWindowFwdBody (h : Hdr) : Body := attnBody 0x0201 false false (.attnWindowFwd h)
def attnWindowBwdBody (h : Hdr) : Body := attnBody 0x0202 true false (.attnWindowBwd h)
def attnGlobalFwdBody (h : Hdr) : Body := attnBody 0x0203 false true (.attnGlobalFwd h)
def attnGlobalBwdBody (h : Hdr) : Body := attnBody 0x0204 true true (.attnGlobalBwd h)
def rmsnormFwdBody : Body := routineBody (normFwdCheck false)
def rmsnormBwdBody : Body := routineBody (normBwdCheck false)
def layernormFwdBody : Body := routineBody (normFwdCheck true)
def layernormBwdBody : Body := routineBody (normBwdCheck true)
def softmaxFwdBody : Body := routineBody softmaxFwdCheck
def softmaxBwdBody : Body := routineBody softmaxBwdCheck
def quantBody : Body := routineBody (quantCheck false)
def dequantBody : Body := routineBody dequantCheck
def transcodeBody : Body := routineBody (quantCheck true)
def rowReduceBody : Body := routineBody rowReduceCheck
def tensorNorm2Body : Body := routineBody tensorNorm2Check
def libInfoBody : Body := routineBody libInfoCheck

def execTileProduct (h : Hdr) (s : State) : Answer := .next (threadCmd (.tileProduct h) h false tileProductBody s)
def execStripProduct (h : Hdr) (s : State) : Answer := .next (threadCmd (.stripProduct h) h false stripProductBody s)
def execChainProduct (h : Hdr) (s : State) : Answer := .next (threadCmd (.chainProduct h) h false chainProductBody s)
def execAttnWindowFwd (h : Hdr) (s : State) : Answer := .next (threadCmd (.attnWindowFwd h) h false (attnWindowFwdBody h) s)
def execAttnWindowBwd (h : Hdr) (s : State) : Answer := .next (threadCmd (.attnWindowBwd h) h false (attnWindowBwdBody h) s)
def execAttnGlobalFwd (h : Hdr) (s : State) : Answer := .next (threadCmd (.attnGlobalFwd h) h false (attnGlobalFwdBody h) s)
def execAttnGlobalBwd (h : Hdr) (s : State) : Answer := .next (threadCmd (.attnGlobalBwd h) h false (attnGlobalBwdBody h) s)
def execRmsnormFwd (h : Hdr) (s : State) : Answer := .next (threadCmd (.rmsnormFwd h) h false rmsnormFwdBody s)
def execRmsnormBwd (h : Hdr) (s : State) : Answer := .next (threadCmd (.rmsnormBwd h) h false rmsnormBwdBody s)
def execLayernormFwd (h : Hdr) (s : State) : Answer := .next (threadCmd (.layernormFwd h) h false layernormFwdBody s)
def execLayernormBwd (h : Hdr) (s : State) : Answer := .next (threadCmd (.layernormBwd h) h false layernormBwdBody s)
def execSoftmaxFwd (h : Hdr) (s : State) : Answer := .next (threadCmd (.softmaxFwd h) h false softmaxFwdBody s)
def execSoftmaxBwd (h : Hdr) (s : State) : Answer := .next (threadCmd (.softmaxBwd h) h false softmaxBwdBody s)
def execQuant (h : Hdr) (s : State) : Answer := .next (threadCmd (.quant h) h false quantBody s)
def execDequant (h : Hdr) (s : State) : Answer := .next (threadCmd (.dequant h) h false dequantBody s)
def execTranscode (h : Hdr) (s : State) : Answer := .next (threadCmd (.transcode h) h false transcodeBody s)
def execRowReduce (h : Hdr) (s : State) : Answer := .next (threadCmd (.rowReduce h) h false rowReduceBody s)
def execLayoutReduce (h : Hdr) (s : State) : Answer := .next (threadCmd (.layoutReduce h) h false (layoutReduceBody (.layoutReduce h)) s)
def execTensorNorm2 (h : Hdr) (s : State) : Answer := .next (threadCmd (.tensorNorm2 h) h false tensorNorm2Body s)
def execSparseProductRoutine (h : Hdr) (s : State) : Answer := .next (threadCmd (.sparseProductRoutine h) h false sparseRoutineBody s)
def execSelfCheck (h : Hdr) (failing : List Nat) (firstVector : Word) (s : State) : Answer :=
  .next (threadCmd (.selfCheck h failing firstVector) h false (selfCheckBody failing firstVector) s)
def execLibInfo (h : Hdr) (s : State) : Answer := .next (threadCmd (.libInfo h) h false libInfoBody s)

end Sys2Proof.Machine
end

