-- ==== Sys2Proof/Machine/Access.lean ====
section
/-!
DEFINITION. Access.lean: reads and writes of the register pages (R11, R12, R512 to R528, R565): what a word reads, where a write lands,
shadows and their commit (R520 to R523), read-clear fields, the header's fault and interrupt words (R519, R524, R525).
-/
namespace Sys2Proof.Machine

/-! ### Which access reaches a page -/

/-- Whether an access of reach r is answered (R515); while the ROM waits only the head page is (R484, R493). -/
def answers (s : State) (r : Nat) : Bool := r = headPage || (r < 77 && reachUp s r && bootPhase s ≠ 2 && bootPhase s ≠ 6)

/-- An access that no reach answers (R515). -/
def noAnswer (s : State) : State := bump s headPage 0 (wordFld 0x060) 1

/-- A write of the host to a page (R513 to R515): counted where nothing answers, ignored where the block is absent. While H0 is
down no access comes (R492). -/
def hostWrite (s : State) (r p : Nat) (f : State → State) : State :=
  if 77 < r ∨ !s.hdm.h0Up then s
  else if !answers s r then noAnswer s
  else if !blockPresent s r p then s
  else f s

/-! ### What a word reads -/

/-- A 64-bit slot entry of R113. -/
def slotEntry (x : Slot) : Nat :=
  x.target.toNat * 2 ^ 58 + x.owner.toNat * 2 ^ 56 + boolNat x.valid * 2 ^ 55 + x.clean % 128 * 2 ^ 48 + x.corr % 4 * 2 ^ 46 +
    x.mode.toNat * 2 ^ 44 + x.headroom.toNat * 2 ^ 40 + (x.scaleExp % 256).toNat * 2 ^ 32 + x.est.toNat

/-- A descriptor's status entry (R323). -/
def descEntry (s : State) (site d : Nat) : Nat :=
  let x := descAt s site d
  let k := match x.image with | some i => i.bufCount % 16 | none => 0
  let pending := ((coreAt s site).held.filter (fun h => h.1 = .stream (BitVec.ofNat 6 d))).length
  x.state % 4 * 2 ^ 62 + boolNat x.revoked * 2 ^ 61 + k * 2 ^ 56 + x.unitsDone % 2 ^ 24 * 2 ^ 32 + pending % 256 * 2 ^ 24 +
    x.nextUnit % 2 ^ 24

/-- WAIT of a thread entry (R532). A thread in a collective operation or waiting for an outcome shows none of its codes. -/
def waitCode : Waits → Nat
  | .none => 0 | .token => 1 | .queueFull => 2 | .scalarLoad => 3 | .lock => 4 | .doorbell => 5 | .collective => 0 | .outcome => 0

/-- A thread's entry of the queue scheduler page (R532). -/
def threadEntry (s : State) (site t : Nat) : Nat :=
  let th := threadAt s site t
  boolNat th.attached.isSome * 2 ^ 31 + waitCode th.waits * 2 ^ 28 + th.holder.getD 0 % 64 * 2 ^ 22 + th.attached.getD 0 % 2 ^ 20

/-- The pending pages of a reach as a 64-bit mask (R525). -/
def pageIrqs (s : State) (r : Nat) : Nat :=
  pageIndexes.foldl (fun m p => if (blockOf r p).isSome && irqPending s r p then m + 2 ^ p else m) 0

/-- The reaches for which f holds, as a 77-bit mask. -/
def reachMask (f : Nat → Bool) : Nat := (List.range 77).foldl (fun m r => if f r then m + 2 ^ r else m) 0

/-- The 32-bit word of a wide value at word index i. -/
def wideWord (v i : Nat) : Word := BitVec.ofNat 32 (v / 2 ^ (32 * i))

/-- A digest word: output bytes in order, byte 4i + b in bits [8b+7:8b] of word i (R535, R537). -/
def digestWord (d : BitVec 256) (i : Nat) : Word :=
  BitVec.ofNat 32 (leNat ((List.range 4).map (fun b => BitVec.ofNat 8 (d.toNat / 2 ^ (8 * (31 - (4 * i + b)))))))

/-- The digest-table entry PS_DIGEST_SEL selects: filled on module 0 only (R536). -/
def selectedDigest (s : State) : Option (BitVec 256) := tFind s.step.digests (fld s 76 0x29 ⟨0x074, 12, 0⟩)

/-- A word that the module computes when it is read; none for a word that is stored. -/
def viewWord (s : State) (r p o : Nat) : Option Word :=
  match blockOf r p with
  | none => none
  | some b =>
    if o = 0x000 then some (BitVec.ofNat 32 (blockCode b * 2 ^ 24 + instanceOf r p * 2 ^ 16 + 0x0100 + (if r = headPage then 76 else r)))
    else if o = 0x004 then some (BitVec.ofNat 32 (boolNat (hasShadow b) * 2 + boolNat (blockPresent s r p)))
    else if o = 0x00C then
      some (BitVec.ofNat 32 ((regWord s r p 0x00C).toNat / 2 ^ 24 * 2 ^ 24 + boolNat ((s.pages.captured.map (·.1)).contains (r * 64 + p)) * 2 +
        fld s r p ⟨0x018, 31, 31⟩))
    else match b with
      | .head =>
        if o = 0x040 then some (BitVec.ofNat 32 (coreCount s * 2 ^ 24 + bootPhase s))
        else if o = 0x044 then some (regWord s 76 0x2C 0x04C)
        else if 0x048 ≤ o ∧ o ≤ 0x050 then some (wideWord (reachMask (reachUp s)) ((o - 0x048) / 4))
        else if 0x054 ≤ o ∧ o ≤ 0x05C then some (wideWord (reachMask (fun r => pageIrqs s r ≠ 0)) ((o - 0x054) / 4))
        else if o = 0x064 ∨ o = 0x068 then some (wideWord s.head.lastSeq ((o - 0x064) / 4))
        else none
      | .kp => if o = 0x044 ∨ o = 0x048 then some (wideWord (pageIrqs s r) ((o - 0x044) / 4)) else none
      | .ck => if o = 0x048 then some (s.now.setWidth 32) else none
      | .qsCore => if 0x400 ≤ o ∧ o < 0x440 then some (BitVec.ofNat 32 (threadEntry s r ((o - 0x400) / 4))) else none
      | .qsMod => if o = 0x064 then some (BitVec.ofNat 32 s.queues.length) else none
      | .st => if 0x400 ≤ o ∧ o < 0xC00 then some (wideWord (slotEntry (slotAt s r ((o - 0x400) / 8))) (o % 8 / 4)) else none
      | .sl =>
        if o = 0x054 ∨ o = 0x058 then
          some (wideWord ((List.range 64).foldl (fun m d => if (descAt s r d).state = 2 then m + 2 ^ d else m) 0) ((o - 0x054) / 4))
        else if 0x400 ≤ o ∧ o < 0x600 then some (wideWord (descEntry s r ((o - 0x400) / 8)) (o % 8 / 4)) else none
      | .fp =>
        if o = 0x04C then
          some (match s.head.job with | some j => BitVec.ofNat 32 (j.tag.toNat * 2 ^ 16 + j.index % 2 ^ 12) | none => 0)
        else if o = 0x050 then some (BitVec.ofNat 32 (portAt s (r - 72)).sent)
        else if o = 0x054 then some (BitVec.ofNat 32 (portAt s (r - 72)).credit)
        else none
      | .mg =>
        if o = 0x050 then some (BitVec.ofNat 32 (portAt s (r - 72)).own.length)
        else if 0x060 ≤ o ∧ o < 0x080 then some (digestWord (portAt s (r - 72)).digest ((o - 0x060) / 4))
        else none
      | .ps =>
        if o = 0x054 then some (BitVec.ofNat 32 ((portAt s (r - 72)).own.length * 2 ^ 16 + ((portAt s (r - 72)).arrival.filter (fun (a : Nat × Option Chunk) => a.2.isSome)).length)) else none
      | .commit =>
        if o = 0x078 then some (BitVec.ofNat 32 (boolNat (selectedDigest s).isSome))
        else if 0x080 ≤ o ∧ o < 0x0A0 then some (match selectedDigest s with | some d => digestWord d ((o - 0x080) / 4) | none => 0)
        else none
      | .tl => if 0x100 ≤ o ∧ o < 0x128 then some (wideWord (tGet 0 s.tally.writes ((o - 0x100) / 8)) (o % 8 / 4)) else none
      | _ => none

/-- What the word at offset o of a page holds, RWS fields in force, no field hidden but the write-only ones (R526). -/
def valueWord (s : State) (r p o : Nat) : Word :=
  match viewWord s r p o with
  | some w => w
  | none => regWord s r p o &&& ~~~(accMask (rowsAt r p o) .wo)

/-- What a read of the word returns (R11, R12, R514, R515, R522). -/
def readWord (s : State) (r p o : Nat) : Word :=
  if !answers s r then 0xFFFFFFFF
  else if !blockPresent s r p ∧ o ≠ 0 ∧ o ≠ 4 then 0
  else
    let m := accMask (rowsAt r p o) .rws
    if m = 0 ∨ fld s r p ⟨0x008, 0, 0⟩ = 1 then valueWord s r p o
    else (valueWord s r p o &&& ~~~m) ||| (shadowWord s r p o &&& m)

/-- Read-clear: the fields go to their reset values (R11). -/
def clearRead (s : State) (r p o : Nat) : State :=
  let m := accMask (rowsAt r p o) .rc
  setRegWord s r p o ((regWord s r p o &&& ~~~m) ||| (resetWord r p o &&& m))

/-- A read of a word with a read-clear field (R11, R515). -/
def readClear (s : State) (r p o : Nat) : State :=
  if accMask (rowsAt r p o) .rc = 0 ∨ !s.hdm.h0Up then s
  else if !answers s r then emit (noAnswer s) (.readData 0xFFFFFFFF)
  else if !blockPresent s r p then emit s (.readData 0)
  else clearRead (emit s (.readData (readWord s r p o))) r p o

/-! ### Where a write lands -/

/-- The RW fields of a word take the written bits, RWS fields' shadows take theirs, W1C fields clear where 1 is written; every
other bit is ignored (R11, R12, R520). -/
def writeFields (s : State) (r p o : Nat) (v : Word) : State :=
  let fs := rowsAt r p o
  let rw := accMask fs .rw
  let w1c := accMask fs .w1c
  let rws := accMask fs .rws
  let s := if rw ||| w1c = 0 then s else setRegWord s r p o (((regWord s r p o &&& ~~~rw) ||| (v &&& rw)) &&& ~~~(v &&& w1c))
  if rws = 0 then s else setShadowWord s r p o ((shadowWord s r p o &&& ~~~rws) ||| (v &&& rws))

/-- VALID of FAULT_CODE written with 1: the latched fault is cleared (R519). -/
def clearFault (s : State) (r p : Nat) : State :=
  setRegWord (setRegWord (setRegWord s r p 0x018 0) r p 0x01C 0) r p 0x020 0

/-- A write to IRQ_STATUS clears the bits written 1 (R525). -/
def clearIrq (s : State) (r p : Nat) (v : Word) : State := setRegWord s r p 0x010 (regWord s r p 0x010 &&& ~~~v)

/-- A write to IRQ_ENABLE can make the page pending (R524, R525). -/
def writeIrqEnable (s : State) (r p : Nat) (v : Word) : State := irqRise (irqPending s r p) (setRegWord s r p 0x014 v) r p

/-- N of CK_AC_THROTTLE as it acts (R343, R359). -/
def throttleN (v : Nat) : Nat := min 16 (max 4 v)

/-- A write to CK_AC_THROTTLE holds until the governor's next decision (R539); N takes effect at the next group (R343). -/
def writeThrottle (s : State) (r : Nat) (v : Word) : State :=
  setFld (setFld s r 0x01 ⟨0x040, 4, 0⟩ v.toNat) r 0x01 ⟨0x044, 4, 0⟩ (throttleN (v.toNat % 32))

/-- A write that lands in fields, with the registers whose own rules say more: window entries take writes only while CLOSED (R287),
PS_STEP_RECORD only while not ARMED (R536), HP_HDM_PAGES only a size in range (R439), ST_STEP clears its page (R112). -/
def writePlain (s : State) (r p o : Nat) (v : Word) : State :=
  match blockOf r p with
  | none => s
  | some b =>
    if o = 0x014 then writeIrqEnable s r p v
    else match b with
      | .wt => if 0x400 ≤ o ∧ windowState s r ((o - 0x400) / 32) ≠ 0 then s else writeFields s r p o v
      | .commit => if 0x400 ≤ o ∧ fld s r p ⟨0x044, 0, 0⟩ = 1 then s else writeFields s r p o v
      | .hp => if o = 0x04C ∧ (v.toNat % 2 ^ 20 = 0 ∨ 524288 < v.toNat % 2 ^ 20) then s else writeFields s r p o v
      | .st => if o = 0x05C then stepWrite s r v else writeFields s r p o v
      | .ck => if o = 0x040 then writeThrottle s r v else writeFields s r p o v
      | _ => writeFields s r p o v

/-! ### Shadows and commit (R520 to R523) -/

/-- Whether a key of a word table belongs to a page. -/
def onPage (r p k : Nat) : Bool := k / 2 ^ 12 = r * 64 + p

/-- The shadows of a page, as they stand. -/
def pageShadows (s : State) (r p : Nat) : Tab Word := s.pages.shadow.filter (fun x => onPage r p x.1)

/-- A captured set waits for its effect point; a later one replaces it (R521, R523). -/
def capture (s : State) (key : Nat) (set : Tab Word) : State :=
  { s with pages := { s.pages with captured := s.pages.captured.filter (fun x => x.1 ≠ key) ++ [(key, set)] } }

/-- A captured set leaves. -/
def uncapture (s : State) (key : Nat) : State :=
  { s with pages := { s.pages with captured := s.pages.captured.filter (fun x => x.1 ≠ key) } }

/-- The captured set of a page. -/
def capturedSet (s : State) (key : Nat) : Option (Tab Word) := (s.pages.captured.find? (fun x => x.1 = key)).map (·.2)

/-- The key under which an arbiter's WINDOW waits for the next wrap (R351). -/
def windowKey (r p : Nat) : Nat := 2 ^ 20 + r * 64 + p

/-- A write of 1 to SHADOW_COMMIT.COMMIT (R521, R523). On a mesh router page the head keeper begins the phases of R332 (R569). -/
def commitShadows (s : State) (r p : Nat) : State :=
  let s := bumpWrap s r p ⟨0x024, 31, 16⟩ 1
  let s := capture s (r * 64 + p) (pageShadows s r p)
  if blockOf r p = some .mh then { s with mesh := { s.mesh with hostCommits := addOnce s.mesh.hostCommits r } } else s

/-- The RWS fields of the words of a page for which keep holds take the captured values (R521). -/
def takeCaptured (s : State) (r p : Nat) (set : Tab Word) (keep : Nat → Bool) : State :=
  let keys := ((s.pages.live.filter (fun x => onPage r p x.1)).map (·.1) ++ set.map (·.1)).eraseDups
  (keys.filter (fun k => keep (k % 2 ^ 12))).foldl (fun s k =>
    let o := k % 2 ^ 12
    let m := accMask (rowsAt r p o) .rws
    if m = 0 then s
    else setRegWord s r p o ((regWord s r p o &&& ~~~m) ||| ((tFind set k).getD (resetWord r p o) &&& m))) s

/-- USED of a requester of an arbiter page, and its mask rule: a non-zero QUOTA that USED has reached (R350). -/
def arbUsed (s : State) (r p n : Nat) : Nat := fld s r p ⟨0x404 + 16 * n, 15, 0⟩
def arbQuota (s : State) (r p n : Nat) : Nat := fld s r p ⟨0x400 + 16 * n, 31, 16⟩
def overQuota (s : State) (r p n : Nat) : Bool := arbQuota s r p n ≠ 0 && arbQuota s r p n ≤ arbUsed s r p n

/-- The requesters masked in the window so far, from their quotas and uses; each newly masked one counts the window (R350, R361). -/
def remask (s : State) (r p : Nat) : State :=
  let above := (List.range (arbRequesters p)).filter (overQuota s r p)
  let a := tGet { last := 15, granted := none, counted := [] } s.mesh.arbs (r * 64 + p)
  let fresh := above.filter (fun n => !a.counted.contains n)
  let s := fresh.foldl (fun s n => bump s r p (wordFld (0x40C + 16 * n)) 1) s
  let s := { s with mesh := { s.mesh with arbs := tIns s.mesh.arbs (r * 64 + p) { a with counted := a.counted ++ fresh } } }
  setFld s r p ⟨0x050, 15, 0⟩ (above.foldl (fun m n => m + 2 ^ n) 0)

/-- Whether a slot map is refused (R319). -/
def slotMapRefused (s : State) (site map : Nat) : Bool :=
  let me := logicalOf s site
  let admitted := (coreAt s site).descs.filter (fun d => d.2.state = 2 ∧ !d.2.revoked)
  (List.range 8).any (fun i => 6 < bitsOf map (4 * i + 3) (4 * i)) ||
  admitted.any (fun d => match d.2.image with
    | none => false
    | some i =>
      let code := (admissionTest s { q := 0, ctx := d.2.ctx, core := me.getD 0, site := site, t := 0, home := site } map d.1 i i.bufCount).1
      decide (code = 1 ∨ code = 2)) ||
  (slotsHeld map 4 = 0 &&
    ((List.range 64).any (fun w => windowState s site w ≠ 0) ||
     s.cores.any (fun c => c.1 ≠ site && c.2.descs.any (fun d => d.2.state = 2 && (match d.2.image with
       | some i => decide (i.farKind = 2) && decide (some (peerCore i) = me)
       | none => false)))))

/-- The captured set of a page takes effect at its effect point, or is refused for the slot map (R318, R319, R351, R521, R523). A
mesh router page's set waits for the drained mesh (R332, R569). -/
def commitEffect (s : State) (r p : Nat) : State :=
  match capturedSet s (r * 64 + p), blockOf r p with
  | some set, some b =>
    match b with
    | .mh => s
    | .sp =>
      let s := uncapture s (r * 64 + p)
      let map := ((tFind set (pageKey r p 0x044)).getD (resetWord r p 0x044)).toNat
      if slotMapRefused s r map then
        setFld (raise s { plainReport 0x0A06 2 r p with core := logicalOf s r, site := some r }) r p ⟨0x024, 1, 1⟩ 1
      else setFld (takeCaptured s r p set (fun _ => true)) r p ⟨0x024, 1, 1⟩ 0
    | .ab =>
      let s := takeCaptured (uncapture s (r * 64 + p)) r p set (fun o => o ≠ 0x040)
      let s := setFld (capture s (windowKey r p) (set.filter (fun x => x.1 % 2 ^ 12 = 0x040))) r p ⟨0x024, 1, 1⟩ 0
      remask s r p
    | _ => setFld (takeCaptured (uncapture s (r * 64 + p)) r p set (fun _ => true)) r p ⟨0x024, 1, 1⟩ 0
  | _, _ => s

/-- Loads values into a page's shadows and commits them at once, as the loader does before a context starts (R113, R142). The
commit does not count in COMMITS: DESIGN CHOICE, log entry 141. -/
def loadCommitted (s : State) (r p o : Nat) (v : Word) : State :=
  let m := accMask (rowsAt r p o) .rws
  let s := setShadowWord s r p o ((shadowWord s r p o &&& ~~~m) ||| (v &&& m))
  setRegWord s r p o ((regWord s r p o &&& ~~~m) ||| (v &&& m))

/-! ### The rows -/

def execShadowCommit (reach : BitVec 7) (page : BitVec 6) (s : State) : Answer :=
  .next (hostWrite s reach.toNat page.toNat (fun s => commitShadows s reach.toNat page.toNat))
def execShadowCommitEffect (reach : BitVec 7) (page : BitVec 6) (s : State) : Answer :=
  .next (commitEffect s reach.toNat page.toNat)
def execFaultClear (reach : BitVec 7) (page : BitVec 6) (s : State) : Answer :=
  .next (hostWrite s reach.toNat page.toNat (fun s => clearFault s reach.toNat page.toNat))
def execIrqStatusClear (reach : BitVec 7) (page : BitVec 6) (value : Word) (s : State) : Answer :=
  .next (hostWrite s reach.toNat page.toNat (fun s => clearIrq s reach.toNat page.toNat value))
def execCounterReadClear (reach : BitVec 7) (page : BitVec 6) (offset : BitVec 12) (s : State) : Answer :=
  .next (readClear s reach.toNat page.toNat (offset.toNat / 4 * 4))

/-- TIMESTAMP_READ: a read of CK_TS_LO latches CK_TS_HI and CK_TS_FINE (R359). -/
def execTimestampRead (reach : BitVec 7) (s : State) : Answer :=
  let r := reach.toNat
  .next (if 76 < r ∨ !s.hdm.h0Up then s
    else if !answers s r then emit (noAnswer s) (.readData 0xFFFFFFFF)
    else
      let s := setRegWord s r 0x01 0x04C ((s.now >>> (32 : Nat)).setWidth 32)
      emit (setRegWord s r 0x01 0x050 (BitVec.ofNat 32 s.fine)) (.readData (s.now.setWidth 32)))

/-- DIGEST_SELECT: selects an entry of the digest table for reading (R535). -/
def execDigestSelect (kind : Bool) (module : BitVec 12) (s : State) : Answer :=
  .next (hostWrite s 76 0x29 (fun s => setRegWord s 76 0x29 0x074 (BitVec.ofNat 32 (boolNat kind * 2 ^ 12 + module.toNat))))

end Sys2Proof.Machine
end

