-- ==== Sys2Proof/Machine/Hash.lean ====
section
/-!
DEFINITION. Hash.lean: SHA-256 and CRC-32 (IEEE 802.3), which the spec names by their standards (R126, R133, R374, R441, R472; PRESUMED,
log entry 36).
-/
namespace Sys2Proof.Machine

/-- The round constants of SHA-256. -/
def shaK : List Word :=
  [0x428A2F98, 0x71374491, 0xB5C0FBCF, 0xE9B5DBA5, 0x3956C25B, 0x59F111F1, 0x923F82A4, 0xAB1C5ED5] ++
  [0xD807AA98, 0x12835B01, 0x243185BE, 0x550C7DC3, 0x72BE5D74, 0x80DEB1FE, 0x9BDC06A7, 0xC19BF174] ++
  [0xE49B69C1, 0xEFBE4786, 0x0FC19DC6, 0x240CA1CC, 0x2DE92C6F, 0x4A7484AA, 0x5CB0A9DC, 0x76F988DA] ++
  [0x983E5152, 0xA831C66D, 0xB00327C8, 0xBF597FC7, 0xC6E00BF3, 0xD5A79147, 0x06CA6351, 0x14292967] ++
  [0x27B70A85, 0x2E1B2138, 0x4D2C6DFC, 0x53380D13, 0x650A7354, 0x766A0ABB, 0x81C2C92E, 0x92722C85] ++
  [0xA2BFE8A1, 0xA81A664B, 0xC24B8B70, 0xC76C51A3, 0xD192E819, 0xD6990624, 0xF40E3585, 0x106AA070] ++
  [0x19A4C116, 0x1E376C08, 0x2748774C, 0x34B0BCB5, 0x391C0CB3, 0x4ED8AA4A, 0x5B9CCA4F, 0x682E6FF3] ++
  [0x748F82EE, 0x78A5636F, 0x84C87814, 0x8CC70208, 0x90BEFFFA, 0xA4506CEB, 0xBEF9A3F7, 0xC67178F2]

/-- The initial hash value of SHA-256. -/
def shaInit : List Word := [0x6A09E667, 0xBB67AE85, 0x3C6EF372, 0xA54FF53A, 0x510E527F, 0x9B05688C, 0x1F83D9AB, 0x5BE0CD19]

/-- A big-endian word of four bytes at an offset. -/
def beWord (bs : List Byte) (o : Nat) : Word := BitVec.ofNat 32 (leNat ((bs.drop o).take 4).reverse)

/-- The message schedule: n further words, newest first. -/
def shaExpand : Nat → List Word → List Word
  | 0, w => w
  | n + 1, w =>
    let g := fun (i : Nat) => w.getD (i - 1) 0
    let s0 := (g 15).rotateRight 7 ^^^ (g 15).rotateRight 18 ^^^ ((g 15) >>> (3 : Nat))
    let s1 := (g 2).rotateRight 17 ^^^ (g 2).rotateRight 19 ^^^ ((g 2) >>> (10 : Nat))
    shaExpand n ((g 16 + s0 + g 7 + s1) :: w)

/-- One round on the eight working words. -/
def shaRound (v : List Word) (kw : Word × Word) : List Word :=
  let g := fun (i : Nat) => v.getD i 0
  let s1 := (g 4).rotateRight 6 ^^^ (g 4).rotateRight 11 ^^^ (g 4).rotateRight 25
  let ch := (g 4 &&& g 5) ^^^ (~~~(g 4) &&& g 6)
  let t1 := g 7 + s1 + ch + kw.1 + kw.2
  let s0 := (g 0).rotateRight 2 ^^^ (g 0).rotateRight 13 ^^^ (g 0).rotateRight 22
  let maj := (g 0 &&& g 1) ^^^ (g 0 &&& g 2) ^^^ (g 1 &&& g 2)
  [t1 + s0 + maj, g 0, g 1, g 2, g 3 + t1, g 4, g 5, g 6]

/-- One block of 64 bytes. -/
def shaBlock (h : List Word) (b : List Byte) : List Word :=
  let w := (shaExpand 48 ((List.range 16).map (fun i => beWord b (4 * i))).reverse).reverse
  let v := (shaK.zip w).foldl shaRound h
  (h.zip v).map (fun (x : Word × Word) => x.1 + x.2)

/-- The padded message. -/
def shaPad (bs : List Byte) : List Byte :=
  let n := bs.length
  bs ++ [0x80] ++ leBytes ((119 - n % 64) % 64) 0 ++ (leBytes 8 (8 * n)).reverse

/-- The blocks of a padded message. -/
def shaBlocks (bs : List Byte) : List (List Byte) := (List.range (bs.length / 64)).map (fun i => (bs.drop (64 * i)).take 64)

/-- SHA-256 as the big-endian number of its 32 output bytes. -/
def sha256 (bs : List Byte) : BitVec 256 :=
  ((shaBlocks (shaPad bs)).foldl shaBlock shaInit).foldl (fun (a : BitVec 256) w => (a <<< (32 : Nat)) ||| w.setWidth 256) 0

/-- The 32 bytes of a digest, first output byte first. -/
def digestBytes (d : BitVec 256) : List Byte := (leBytes 32 d.toNat).reverse

/-- A digest from 32 bytes. -/
def digestOf (bs : List Byte) : BitVec 256 := BitVec.ofNat 256 (leNat (bs.take 32).reverse)

/-- CRC-32 over one byte. -/
def crcByte (c : Word) (b : Byte) : Word :=
  (List.range 8).foldl (fun (c : Word) _ => if c &&& 1 = 1 then (c >>> (1 : Nat)) ^^^ 0xEDB88320 else c >>> (1 : Nat)) (c ^^^ b.setWidth 32)

/-- CRC-32 (IEEE 802.3) of bytes. -/
def crc32 (bs : List Byte) : Word := ~~~(bs.foldl crcByte 0xFFFFFFFF)

/-- The characters of a string as bytes. -/
def ascii (t : String) : List Byte := t.toList.map (fun c => BitVec.ofNat 8 c.toNat)

end Sys2Proof.Machine
end

