-- ==== Sys2Proof/Machine/Queues.lean ====
section
/-!
DEFINITION. Queues.lean: doorbells (R185 to R190) and the operations of the queue scheduler's module page (R184, R188, R194, R529 to R531).
-/
namespace Sys2Proof.Machine

/-- A fault record of a doorbell (R187): it reaches no queue's halt. The head's scheduler raises it, on no core. -/
def doorbellFault (s : State) (q : Nat) : State :=
  let e := queueAt s q
  let s := bump s 76 0x28 (wordFld 0x05C) 1
  raise s { plainReport 0x0104 0 76 0x28 with queue := some q, ctx := e.map QEntry.ctx }

/-- The thread of a queue takes it up when the thread is free (R189). -/
def wakeThread (s : State) (q : Nat) : State :=
  match issueBase s q with
  | none => s
  | some u =>
    let th := threadAt s u.site u.t
    if th.attached = none then attachNext s u.core u.site u.t q
    else if th.attached = some q ∧ th.waits = .doorbell then modThread s u.site u.t (fun th => { th with waits := .none })
    else s

/-- A doorbell that sets TAIL (R185, R187, R190). -/
def setTail (s : State) (q v : Nat) : State :=
  match queueAt s q with
  | none => s
  | some e =>
    let size := 2 ^ e.log2
    let ahead := fun (t : Nat) => (t + size - e.head) % size
    if size ≤ v then doorbellFault s q
    else if ahead v < ahead e.tail then bump s 76 0x28 (wordFld 0x058) 1
    else
      let ready := decide (e.state = 0) && decide (v ≠ e.head)
      wakeThread (setQueue s q { e with tail := v, state := if ready then 1 else e.state }) q

/-- A read of a queue's doorbell: HEAD in [19:0], STATE in [34:32] (R185); a queue not created reads STATE 7 (log entry 99). The table has no row for it. -/
def doorbellRead (s : State) (q : Nat) : Dword :=
  match queueAt s q with
  | some e => BitVec.ofNat 64 (e.state * 2 ^ 32 + e.head)
  | none => BitVec.ofNat 64 (7 * 2 ^ 32)

/-- DOORBELL_WRITE (R185, R187, R531): 8 bytes, or 4 bytes at the low or the high half. The waiting ROM serves no doorbell, and a module stopped by a
fault of effect MODULE accepts no work (R442, R484; log entry 150). -/
def doorbell (s : State) (q size : Nat) (high : Bool) (v : Dword) : State :=
  if !s.hdm.h0Up ∨ romWaits s ∨ s.head.stopped then s
  else if size ≠ 8 ∧ size ≠ 4 then emit s .unsupported
  else if (queueAt s q).isNone then bump s 76 0x28 (wordFld 0x060) 1
  else if size = 4 ∧ high then (if v.setWidth 32 = 0#32 then s else doorbellFault s q)
  else
    let v := if size = 4 then v.toNat % 2 ^ 32 else v.toNat
    if 2 ^ 20 ≤ v then doorbellFault s q else setTail s q v

/-- The arguments of the module page (R529). -/
def qsArg (s : State) (f : Fld) : Nat := fld s 76 0x28 f
def qsBase (s : State) : Nat := qsArg s (wordFld 0x044) + 2 ^ 32 * qsArg s ⟨0x048, 15, 0⟩
def qsLog2 (s : State) : Nat := qsArg s ⟨0x04C, 30, 26⟩
def qsCtx (s : State) : Nat := qsArg s ⟨0x04C, 25, 20⟩
def qsCore (s : State) : Nat := qsArg s ⟨0x04C, 19, 13⟩
def qsThread (s : State) : Nat := qsArg s ⟨0x04C, 12, 9⟩
def qsTrace (s : State) : Bool := qsArg s ⟨0x04C, 31, 31⟩ = 1
def qsHead (s : State) : Nat := qsArg s ⟨0x050, 19, 0⟩

/-- A queue operation begins, but after a fault with effect MODULE (R442; log entry 150): RESULT and BUSY; one that arrives while BUSY is lost (R529). A refusal writes a record of effect
REFUSED, with the context of the queue, or of a queue to be created, and changes nothing else (R530). -/
def qsRun (s : State) (q : Nat) (f : State → Except Nat State) : State :=
  hostWrite s 76 0x28 (fun s =>
    if s.head.stopped then s
    else if fld s 76 0x28 ⟨0x054, 31, 31⟩ = 1 then setFld s 76 0x28 ⟨0x054, 30, 30⟩ 1
    else
      let s := setFld s 76 0x28 ⟨0x054, 31, 31⟩ 1
      match f s with
      | .ok s => setFld s 76 0x28 ⟨0x054, 15, 0⟩ 0
      | .error code =>
        let c := match queueAt s q with
          | some e => e.ctx
          | none => qsCtx s
        setFld (raise s { plainReport code 2 76 0x28 with
          queue := some q
          ctx := some c }) 76 0x28 ⟨0x054, 15, 0⟩ code)

/-- CREATE (R184, R188, R530). A thread that no context holds is taken by this one, its scalar
registers 0 (log entry 34). -/
def createQueue (s : State) (q : Nat) : Except Nat State :=
  match ctxAt s (qsCtx s), siteOf s (qsCore s) with
  | some x, some site =>
    if (queueAt s q).isSome ∨ x.ending.isSome ∨ qsLog2 s < 4 ∨ 20 < qsLog2 s ∨ qsBase s % 4096 ≠ 0 ∨ coreCount s ≤ qsCore s ∨
        layoutWidth s (qsCtx s) ≤ qsCore s then .error 0x0114
    else
      let holder := (threadAt s site (qsThread s)).holder
      if holder.isSome ∧ holder ≠ some (qsCtx s) then .error 0x0105
      else
        let e : QEntry := { base := BitVec.ofNat 48 (qsBase s), log2 := qsLog2 s, state := 0, thread := BitVec.ofNat 4 (qsThread s),
                            ctx := qsCtx s, core := qsCore s, trace := qsTrace s, head := 0, tail := 0, haltMark := 0, haltFault := 0,
                            stopping := none, saved := none }
        .ok (modThread (setQueue s q e) site (qsThread s) (fun th =>
          if holder.isSome then th else { th with holder := some (qsCtx s), regs := [] }))
  | _, _ => .error 0x0114

/-- RESTART (R194, R530): halted; HEAD from QS_ARG_HEAD, TAIL kept. -/
def restartQueue (s : State) (q : Nat) : Except Nat State :=
  match queueAt s q with
  | none => .error 0x0114
  | some e =>
    if e.state ≠ 3 ∨ 2 ^ e.log2 ≤ qsHead s then .error 0x0114
    else
      let e := { e with head := qsHead s, saved := none }
      .ok (wakeThread (setQueue s q { e with state := idleOrReady e }) q)

/-- DISABLE (R530): the thread leaves the queue at its next fetch; what is dispatched runs on. -/
def disableQueue (s : State) (q : Nat) : Except Nat State :=
  match queueAt s q, issueBase s q with
  | some e, some u =>
    if 2 < e.state ∨ e.stopping.isSome then .error 0x0114
    else
      let s := setQueue s q { e with state := 4 }
      let th := threadAt s u.site u.t
      if th.attached = some q ∧ (th.waits = .none ∨ th.waits = .doorbell) then
        .ok (attachNext (leaveQueue s q u.site u.t) u.core u.site u.t q)
      else .ok s
  | _, _ => .error 0x0114

/-- ENABLE (R530): disabled; idle or ready, or attached still where its thread has not left it yet. -/
def enableQueue (s : State) (q : Nat) : Except Nat State :=
  match queueAt s q, issueBase s q with
  | some e, some u =>
    if e.state ≠ 4 then .error 0x0114
    else if (threadAt s u.site u.t).attached = some q then .ok (setQueue s q { e with state := 2 })
    else .ok (wakeThread (setQueue s q { e with state := idleOrReady e }) q)
  | _, _ => .error 0x0114

/-- DESTROY (R530): idle, halted or disabled; the entry is removed. -/
def destroyQueue (s : State) (q : Nat) : Except Nat State :=
  match queueAt s q with
  | none => .error 0x0114
  | some e =>
    if e.state = 1 ∨ e.state = 2 then .error 0x0114
    else
      let s' := match issueBase s q with
        | some u => if (threadAt s u.site u.t).attached = some q then modThread s u.site u.t threadHalted else s
        | none => s
      .ok { s' with queues := tDel s'.queues q }

/-- The 32-byte entry of a queue (R184), little-endian; for a queue not created 0 but for STATE, which reads 7 (R529). -/
def entryBytes (s : State) (q : Nat) : List Byte :=
  match queueAt s q with
  | none => leBytes 9 0 ++ leBytes 1 7 ++ leBytes 22 0
  | some e =>
    leBytes 8 e.base.toNat ++ leBytes 1 e.log2 ++ leBytes 1 e.state ++ leBytes 1 e.thread.toNat ++ leBytes 1 e.ctx ++ leBytes 1 e.core ++
      leBytes 1 (boolNat e.trace) ++ leBytes 2 0 ++ leBytes 4 e.head ++ leBytes 4 e.tail ++ leBytes 4 e.haltMark.toNat ++
      leBytes 2 e.haltFault.toNat ++ leBytes 2 0

/-- Writes eight words from a byte list to consecutive registers. -/
def storeWords (s : State) (r p o : Nat) (bs : List Byte) (n : Nat) : State :=
  (List.range n).foldl (fun s i => setRegWord s r p (o + 4 * i) (BitVec.ofNat 32 (leAt bs (4 * i) 4))) s

/-- QS_PEEK loads the entry of a queue into QS_ENTRY (R529). -/
def peekQueue (s : State) (q : Nat) : State := storeWords s 76 0x28 0x080 (entryBytes s q) 8

/-- A queue operation finishes: BUSY falls and the page's event is set (R529, R530). -/
def qsDone (s : State) : State :=
  if fld s 76 0x28 ⟨0x054, 31, 31⟩ = 1 then irqEvent (setFld s 76 0x28 ⟨0x054, 31, 31⟩ 0) 76 0x28 0 else s

def execDoorbellWrite (queue : BitVec 20) (size : Byte) (high : Bool) (value : Dword) (s : State) : Answer :=
  .next (doorbell s queue.toNat size.toNat high value)
def execQsCreate (queue : BitVec 20) (s : State) : Answer := .next (qsRun s queue.toNat (fun s => createQueue s queue.toNat))
def execQsRestart (queue : BitVec 20) (s : State) : Answer := .next (qsRun s queue.toNat (fun s => restartQueue s queue.toNat))
def execQsDisable (queue : BitVec 20) (s : State) : Answer := .next (qsRun s queue.toNat (fun s => disableQueue s queue.toNat))
def execQsEnable (queue : BitVec 20) (s : State) : Answer := .next (qsRun s queue.toNat (fun s => enableQueue s queue.toNat))
def execQsDestroy (queue : BitVec 20) (s : State) : Answer := .next (qsRun s queue.toNat (fun s => destroyQueue s queue.toNat))
def execQsCmdDone (s : State) : Answer := .next (qsDone s)
def execQsPeek (queue : BitVec 20) (s : State) : Answer := .next (hostWrite s 76 0x28 (fun s => peekQueue s queue.toNat))

end Sys2Proof.Machine
end

