-- ==== Sys2Proof/Machine/Tow.lean ====
section
/-!
DEFINITION. Tow.lean: tow messages on the fabric ports: how one is sent, and the checks of one that arrives (R413, R415, R418 to R427).
-/
namespace Sys2Proof.Machine

/-! ### The job -/

/-- Number of modules of the job, and this module's index; one module where no job record is held. -/
def jobModules (s : State) : Nat := match s.head.job with | some j => j.modules | none => 1
def myIndex (s : State) : Nat := match s.head.job with | some j => j.index | none => 0

/-- The PBR ID of a module on a port (R415). -/
def jobPbr (s : State) (p m : Nat) : Option Nat :=
  match s.head.job with | some j => (tFind j.map (p * 4096 + m)).map (·.1) | none => none
/-- FABRIC_BASE of a module on a port. -/
def jobBase (s : State) (p m : Nat) : Nat :=
  match s.head.job with | some j => ((tFind j.map (p * 4096 + m)).map (fun (x : Nat × Dword) => x.2.toNat)).getD 0 | none => 0
/-- The module index that a PBR ID has on a port. -/
def moduleOf (s : State) (p pbr : Nat) : Option Nat := (List.range (jobModules s)).find? (fun m => jobPbr s p m = some pbr)

/-- Whether a port carries tiles and a ring: F0 and F2 alone on P2 and under RING_MODE 1 (R372, R414). -/
def evenOnly (s : State) : Bool := !optionP4 s || (match s.head.job with | some j => j.ringMode = 1 | none => false)
def ringPorts (s : State) : List Nat := if evenOnly s then [0, 2] else [0, 1, 2, 3]
/-- An enabled port of the job's rings. -/
def ringPort (s : State) (p : Nat) : Bool := (ringPorts s).contains p

/-- The port of control messages: F0, or F2 when F0 is out of service (R432, R435; log entry 35 for notices). -/
def controlPort (s : State) : Nat := if inService s 0 then 0 else 2

/-- The current STEP of the module. -/
def currentStep (s : State) : Word := regWord s 76 0x29 0x050

/-! ### Sending -/

/-- Sends a tow message from a port to a module of the job, with CXL poison for stained data (R276); nothing is sent without a job record,
or by a port out of service. -/
def sendTowWith (poison : Bool) (s : State) (p typ dst : Nat) (step mark seq : Word) (key : Dword) (body payload : List Byte) (slot : Nat) :
    State :=
  match s.head.job with
  | none => s
  | some j =>
    if !inService s p then s
    else emit s (.tow { port := BitVec.ofNat 2 p, typ := BitVec.ofNat 8 typ, flags := 0, length := BitVec.ofNat 16 payload.length,
                        jobTag := j.tag, src := BitVec.ofNat 16 j.index, dst := BitVec.ofNat 16 dst, slot := BitVec.ofNat 16 slot,
                        step := step, mark := mark, seq := seq, key := key,
                        body := (body ++ leBytes 32 0).take 32, payload := payload,
                        pbr := BitVec.ofNat 12 ((jobPbr s p j.index).getD 0), tag := 0, twice := false, poison := poison })

/-- The same for data that is not stained. -/
def sendTow := sendTowWith false

/-- Sends a control message, with no payload. -/
def sendControl (s : State) (typ dst : Nat) (step : Word) (key : Nat) (body : List Byte) : State :=
  sendTow s (controlPort s) typ dst step 0 0 (BitVec.ofNat 64 key) body [] 0xFFFF

/-- The other modules of the job. -/
def otherModules (s : State) : List Nat := (List.range (jobModules s)).filter (fun m => m ≠ myIndex s)

/-! ### Receiving (R424, R425) -/

/-- The key bits and body bytes that a type defines (R419). -/
def keyMask (typ : Nat) : Nat :=
  match typ with
  | 0x01 => 2 ^ 49 - 1
  | 0x02 => 2 ^ 24 - 1
  | 0x03 => 2 ^ 40 - 1
  | 0x04 => 2 ^ 8 - 1
  | 0x05 => 2 ^ 8 - 1
  | 0x06 => 2 ^ 40 - 1
  | 0x07 => 2 ^ 44 - 1
  | 0x08 => 0x7F + 0x3F * 2 ^ 8 + 0xFFFFFFFF * 2 ^ 16
  | 0x09 => 0x7F + 0x3F * 2 ^ 8 + 0xFFFFFFFF * 2 ^ 16
  | 0x0A => 2 ^ 12 - 1
  | 0x0B => 0xFF + 0xFFF * 2 ^ 16
  | _ => 0x7F + 0x3F * 2 ^ 8

def bodySize (typ : Nat) : Nat :=
  match typ with
  | 0x01 => 32 | 0x02 => 4 | 0x03 => 11 | 0x04 => 8 | 0x05 => 2 | 0x06 => 0 | 0x07 => 12 | 0x08 => 6 | 0x09 => 6 | 0x0A => 0
  | 0x0B => 32 | 0x0C => 9 | _ => 0

/-- Whether a message of a type is in form: LENGTH, channel, reserved fields, no byte twice (R418 to R420, R424). -/
def towFormatOk (typ : Nat) (m : Tow) : Bool :=
  let len := m.length.toNat
  let slot := m.slot.toNat
  let secure := decide (typ = 0x08) || decide (typ = 0x09)
  m.typ.toNat = typ && !m.twice && m.body.length = 32 && m.payload.length = len && len % 64 = 0 &&
  (match typ with
    | 0x01 => decide (len = 4096) && decide (slot < 256)
    | 0x03 => decide (len = 4096 ∨ (0 < len ∧ len < 4096 ∧ bitsOf m.key.toNat 31 24 + 1 = bitsOf m.key.toNat 39 32)) && decide (256 ≤ slot) && decide (slot < 768)
    | _ => if secure then decide (0 < len) && decide (len ≤ 4096) && decide (768 ≤ slot) && decide (slot < 1024)
           else decide (len = 0) && decide (slot = 0xFFFF)) &&
  (m.flags = 0 || (secure && m.flags = 1)) && m.src.toNat < 4096 && m.dst.toNat < 4096 &&
  m.key.toNat &&& keyMask typ = m.key.toNat && (m.body.drop (bodySize typ)).all (fun b => b = 0)

/-- Whether a message comes from where it may: job, destination, sender's PBR ID (R424). -/
def towSourceOk (s : State) (m : Tow) : Bool :=
  match s.head.job with
  | none => false
  | some j => m.jobTag = j.tag && m.dst.toNat = j.index && m.src.toNat < j.modules && jobPbr s m.port.toNat m.src.toNat = some m.pbr.toNat

/-- A refused access's record to the sender's refusal cell (R425, R438). -/
def refuseAccess (s : State) (p tag : Nat) (code : Nat) (mark : Word) (addr : Nat) : State :=
  emit (bump s (72 + p) 0x20 (wordFld 0x05C) 1) (.refusal p tag (BitVec.ofNat 16 code) mark addr)

/-- A message dropped: counted, recorded, its slot freed, its sender told (R424, R425). -/
def dropTow (s : State) (m : Tow) (code : Nat) : State :=
  let p := m.port.toNat
  let s := bump s (72 + p) 0x20 (wordFld 0x058) 1
  let s := raise s { plainReport code 0 (72 + p) 0x20 with mark := m.mark }
  let offset := if m.slot = 0xFFFF then 0x800000 else m.slot.toNat * 0x2000
  refuseAccess (emit s (.completion m.tag.toNat (BitVec.ofNat 16 code) [] false)) p m.tag.toNat code m.mark
    (jobBase s p (myIndex s) + offset)

/-- A message accepted: its transaction completes (R420, R421). -/
def completeTow (s : State) (m : Tow) : State := emit s (.completion m.tag.toNat 0 [] false)

/-- A control message already taken: counted and ignored; it leaves the queue (R421, R427). -/
def duplicateTow (s : State) (m : Tow) : State := completeTow (bump s (72 + m.port.toNat) 0x20 (wordFld 0x058) 1) m

/-- A message arrives at a port: nothing comes through a port out of service, and none is accepted after a fault with effect MODULE (R442; log entry 150); the
checks of R424, extra holding those of the type. -/
def receiveTow (s : State) (typ : Nat) (m : Tow) (extra : State → Bool) (f : State → State) : State :=
  if !inService s m.port.toNat ∨ s.head.stopped then s
  else if !towFormatOk typ m then dropTow s m 0x0501
  else if !towSourceOk s m || !extra s then dropTow s m 0x0502
  else f s

/-- Number of rounds ⌈log₂ N⌉. -/
def roundsOf (n : Nat) : Nat := ((List.range 13).find? (fun r => n ≤ 2 ^ r)).getD 12

end Sys2Proof.Machine
end

