-- ==== Sys2Proof/Machine/Windows.lean ====
section
/-!
DEFINITION. Windows.lean: the window table (R282 to R287), window notices (R423), accesses that arrive at a window (R276, R283, R284, R403,
R437) and the crossbar word view (R321, R322).
-/
namespace Sys2Proof.Machine

/-! ### A window's entry -/

def windowFld (s : State) (site w o hi lo : Nat) : Nat := fld s site 0x18 ⟨windowOff w + o, hi, lo⟩
/-- TARGET: a context address rather than the scratchpad region. -/
def windowIsCtx (s : State) (site w : Nat) : Bool := windowFld s site w 0x04 31 31 = 1
def windowBase (s : State) (site w : Nat) : Nat := windowFld s site w 0x00 31 0 + 2 ^ 32 * windowFld s site w 0x04 15 0
def windowBytes (s : State) (site w : Nat) : Nat := windowFld s site w 0x08 31 0 * 128
def windowAny (s : State) (site w : Nat) : Bool := windowFld s site w 0x0C 15 15 = 1
def windowSource (s : State) (site w : Nat) : Nat := windowFld s site w 0x0C 11 0
def windowReads (s : State) (site w : Nat) : Bool := windowFld s site w 0x0C 23 23 = 1
def windowWrites (s : State) (site w : Nat) : Bool := windowFld s site w 0x0C 22 22 = 1

/-- Whether the target lies in the context's scratchpad region or its mapped pages, at a 128-byte multiple (R286, R287). -/
def windowTargetOk (s : State) (site w : Nat) : Bool :=
  match ctxAt s (windowCtx s site w) with
  | none => false
  | some x =>
    x.ending.isNone && windowBase s site w % 128 = 0 &&
    (if windowIsCtx s site w then mapped x (windowBase s site w) (windowBytes s site w)
     else windowBase s site w + windowBytes s site w ≤ x.spRows * 128)

/-- The modules that may send into a window, this one apart (R282, R423). -/
def windowSenders (s : State) (site w : Nat) : List Nat :=
  if windowAny s site w then otherModules s else [windowSource s site w].filter (fun m => m ≠ myIndex s ∧ m < jobModules s)

/-- The lowest free secure group of a port: groups 0 to 31 hold slots 768 to 1,023 (R421). -/
def freeGroup (s : State) (p : Nat) : Option Nat := (List.range 32).find? (fun g => (tFind (portAt s p).groups g).isNone)

/-- Binds a group of each enabled port to a window and its SOURCE (R423). -/
def bindGroups (s : State) (site w : Nat) : State × List Byte :=
  if windowAny s site w || !windowWrites s site w then (s, leBytes 4 0xFFFFFFFF)
  else (List.range 4).foldl (fun a p =>
    match (if portPresent a.1 p && fld a.1 (72 + p) 0x20 ⟨0x040, 0, 0⟩ = 1 then freeGroup a.1 p else none) with
    | none => (a.1, a.2 ++ [0xFF])
    | some g => (modPort a.1 p (fun q => { q with groups := tIns q.groups g (site, w, windowSource s site w) }), a.2 ++ [BitVec.ofNat 8 g]))
    (s, [])

/-- The key of a window notice. -/
def noticeKey (s : State) (site w : Nat) : Nat := (logicalOf s site).getD 0 + w * 2 ^ 8

/-- WINDOW_OPEN notices (R423). -/
def openNotices (s : State) (site w : Nat) (groups : List Byte) : State :=
  let body := leBytes 4 (windowFld s site w 0x08 31 0) ++
    [BitVec.ofNat 8 (boolNat (windowReads s site w) * 128 + boolNat (windowWrites s site w) * 64)] ++ groups
  (windowSenders s site w).foldl (fun s m => sendControl s 0x0C m (currentStep s) (noticeKey s site w) body) s

/-- WINDOW_CLOSE notices (R282). -/
def closeNotices (s : State) (site w : Nat) : State :=
  (windowSenders s site w).foldl (fun s m => sendControl s 0x0D m (currentStep s) (noticeKey s site w) []) s

/-- A WT_CMD operation refused or done: WT_LAST_STATUS, and the record of a refusal (R282, R286, R287). -/
def windowRefuse (s : State) (site w code : Nat) : State :=
  setFld (raise s { plainReport code 2 site 0x18 with ctx := some (windowCtx s site w), core := logicalOf s site, site := some site })
    site 0x18 ⟨0x044, 15, 0⟩ code
def windowDone (s : State) (site : Nat) : State := setFld s site 0x18 ⟨0x044, 15, 0⟩ 0

/-- OPEN from CLOSED (R282, R286). -/
def openWindow (s : State) (site w : Nat) : State :=
  let c := windowCtx s site w
  let held := ((List.range 64).filter (fun v => windowState s site v ≠ 0 ∧ windowCtx s site v = c)).length
  if windowState s site w ≠ 0 then windowRefuse s site w 0x0506
  else if !windowTargetOk s site w then windowRefuse s site w 0x0504
  else if (match ctxAt s c with | some x => decide (x.windows ≤ held) | none => true) then windowRefuse s site w 0x0301
  else
    let r := bindGroups (setWindowState s site w 1) site w
    windowDone (openNotices r.1 site w r.2) site

/-- CLOSE from OPEN (R282). -/
def closingWindow (s : State) (site w : Nat) : State :=
  if windowState s site w ≠ 1 then windowRefuse s site w 0x0506
  else windowDone (closeNotices (setWindowState s site w 2) site w) site

/-- DRAIN from CLOSING (R282, R283). -/
def drainCmd (s : State) (site w : Nat) : State :=
  if windowState s site w ≠ 2 then windowRefuse s site w 0x0506 else windowDone (drainWindow s site w) site

/-- ABORT from OPEN or CLOSING (R282, R283). -/
def abortCmd (s : State) (site w : Nat) : State :=
  if windowState s site w ≠ 1 ∧ windowState s site w ≠ 2 then windowRefuse s site w 0x0506
  else windowDone (drainWindow s site w) site

/-! ### Accesses from other modules (R283, R284) -/

/-- Whether a window range stands in pages of the context that are mapped no more (R257). -/
def windowUnmapped (s : State) (site w o n : Nat) : Bool :=
  windowIsCtx s site w && (match ctxAt s (windowCtx s site w) with | some x => !mapped x (windowBase s site w + o) n | none => true)

/-- The fault of a window access; none where it is accepted. Pages given back since the OPEN refuse it (R257, R284). -/
def windowFault (s : State) (site w o n : Nat) (src : Option Nat) (write : Bool) : Option Nat :=
  let st := windowState s site w
  if st = 0 ∨ st = 3 then some 0x0503
  else if windowBytes s site w < o + n then some 0x0504
  else if src.isNone ∨ (!windowAny s site w ∧ src ≠ some (windowSource s site w)) ∨ (write ∧ !windowWrites s site w) ∨
      (!write ∧ !windowReads s site w) then some 0x0505
  else if windowUnmapped s site w o n then some 0x0307
  else none

/-- A refused access is counted (R284, R287). -/
def windowDropped (s : State) (site w : Nat) : State :=
  bump (bump s site 0x18 (wordFld (windowOff w + 0x14)) 1) site 0x18 (wordFld 0x050) 1

/-- Accepts a write: INFLIGHT, ACCEPTED, and the bytes on their way (R283). -/
def acceptWrite (s : State) (l : Landing) : State :=
  let s := setFld s l.site 0x18 (wordFld (windowOff l.window + 0x10)) (windowInflight s l.site l.window + 1)
  let s := bump s l.site 0x18 (wordFld (windowOff l.window + 0x18)) 1
  { s with mesh := { s.mesh with landings := s.mesh.landings ++ [l] } }

/-- The offset of window w of logical core k in a port's BAR (R409). -/
def windowAddr (s : State) (p k w o : Nat) : Nat := jobBase s p (myIndex s) + 2 ^ 52 + k * 2 ^ 45 + w * 2 ^ 39 + o

/-- Bytes of one element of a remote-DMA descriptor, at most (R353). -/
def maxElement : Nat := 4096

/-- WINDOW_WRITE (R284, R331, R353, R425): an access of a core that is not there is unsupported; one of a core cut off is unreachable; an element
of more than 4 KiB is refused; after a fault with effect MODULE none is accepted (R442; log entry 150). -/
def windowWrite (s : State) (p k w o : Nat) (data : List Byte) (src tag : Nat) (poison : Bool) : State :=
  if !inService s p ∨ s.head.stopped then s
  else match siteOf s k with
  | none => emit s .unsupported
  | some site =>
    match dropAt s (72 + p) site with
    | some r => emit (dropPacket s r) (.completion tag 0x0405 [] false)
    | none => if maxElement < data.length then refuseAccess (emit s (.completion tag 0x0114 [] false)) p tag 0x0114 0 (windowAddr s p k w o)
    else match windowFault s site w o data.length (moduleOf s p src) true with
    | some code =>
      refuseAccess (emit (windowDropped s site w) (.completion tag (BitVec.ofNat 16 code) [] false)) p tag code 0 (windowAddr s p k w o)
    | none =>
      emit (acceptWrite s { port := p, site := site, window := w, offset := o, data := data, poison := poison, parity := false, signal := none, tag := none })
        (.completion tag 0 [] false)

/-- The bytes of a window range and whether a granule of it is stained. -/
def windowBytesAt (s : State) (site w o n : Nat) : Mem × Bool :=
  match ctxAt s (windowCtx s site w) with
  | none => ([], false)
  | some x =>
    let a := windowBase s site w + o
    if windowIsCtx s site w then (ctxSlice s x a n, ctxStained s x a n)
    else
      let key := rowKey site x.spBase + a
      (memSlice s.store.scratch key n, s.store.stainScratch.any (fun g => key / 128 ≤ g ∧ g ≤ (key + n - 1) / 128))

/-- The lines of a window range that the host holds, as far as the access must ask for them (R411). -/
def windowLines (s : State) (site w o n : Nat) (write : Bool) : List Nat :=
  if windowIsCtx s site w then hostLines s (windowCtx s site w) (windowBase s site w + o) n write else []

/-- Whether a window range stands where an access waits: an offline page (R281), or a scratchpad where remote DMA has no slot (R317, R319). -/
def windowWaits (s : State) (site w o n : Nat) : Bool :=
  if windowIsCtx s site w then (match ctxAt s (windowCtx s site w) with | some x => offline s x (windowBase s site w + o) n | none => false)
  else !spServed s site 4

/-- WINDOW_READ (R276, R281, R284, R332, R353, R411). One that meets an offline page or a line that the host may have modified waits, and so does one
that the mesh does not carry now. -/
def windowRead (s : State) (p k w o n src tag : Nat) : State :=
  if !inService s p ∨ s.head.stopped then s
  else match siteOf s k with
  | none => emit s .unsupported
  | some site =>
    match dropAt s (72 + p) site with
    | some r => emit (dropPacket s r) (.completion tag 0x0405 [] false)
    | none => if maxElement < n then refuseAccess (emit s (.completion tag 0x0114 [] false)) p tag 0x0114 0 (windowAddr s p k w o)
    else match windowFault s site w o n (moduleOf s p src) false with
    | some code =>
      refuseAccess (emit (windowDropped s site w) (.completion tag (BitVec.ofNat 16 code) [] false)) p tag code 0 (windowAddr s p k w o)
    | none =>
      let b := windowBytesAt s site w o n
      let lines := windowLines s site w o n false
      if windowWaits s site w o n || packetHeld s (72 + p) site || packetHeld s site (72 + p) || lines ≠ [] then
        let s := askHost s lines false
        { s with mesh := { s.mesh with reads := s.mesh.reads ++ [{ port := p, core := k, window := w, offset := o, len := n, src := src, tag := tag }] } }
      else emit s (.completion tag 0 (memBytes b.1 0 n) (b.2 && n ≠ 0))

/-- Writes the bytes of a landing to the window's target, exclusive-ored for parity (R437). -/
def landBytes (s : State) (l : Landing) : State :=
  let n := l.data.length
  match ctxAt s (windowCtx s l.site l.window) with
  | none => s
  | some x =>
    let a := windowBase s l.site l.window + l.offset
    let old := memBytes (windowBytesAt s l.site l.window l.offset n).1 0 n
    let stained := l.poison || (l.parity && (windowBytesAt s l.site l.window l.offset n).2)
    let bytes := memOf (if l.parity then (old.zip l.data).map (fun (b : Byte × Byte) => b.1 ^^^ b.2) else l.data)
    if n = 0 then s
    else if windowIsCtx s l.site l.window then ctxSplice s (windowCtx s l.site l.window) x a n bytes stained
    else scratchSplice s (rowKey l.site x.spBase + a) n bytes stained

/-- The arrival signal of a landed write (R403, R428), by the rules of R93. -/
def landSignal (s : State) (l : Landing) : State :=
  match l.signal with
  | none => s
  | some (t, n) =>
    let r := addToken s l.site t n
    if r.2 then raise r.1 { plainReport 0x0122 3 l.site 0x11 with core := logicalOf s l.site, site := some l.site,
                                                                  ctx := some (windowCtx s l.site l.window) } else r.1

/-- An accepted write is in flight no more; a draining window closes with its last (R283). -/
def landingGone (s : State) (site w : Nat) : State :=
  let s := setFld s site 0x18 (wordFld (windowOff w + 0x10)) (windowInflight s site w - 1)
  if windowState s site w = 3 ∧ windowInflight s site w = 0 then closeWindow s site w else s

/-- WINDOW_WRITE_LANDED: the oldest accepted write of a window is written whole (R283, R403). One onto an offline page waits (R281), one over lines that
the host holds (R411), one into a scratchpad where remote DMA has no slot (R317, R319), and one that the mesh does not carry now (R332). A page that
is mapped no more takes none of it: 0x0307 against the window's context (R257; log entry 148). -/
def windowLanded (s : State) (site w : Nat) : State :=
  match s.mesh.landings.find? (fun l => l.site = site ∧ l.window = w) with
  | none => s
  | some l =>
    let n := l.data.length
    let lines := windowLines s site w l.offset n true
    if windowWaits s site w l.offset n || packetHeld s (72 + l.port) site then s
    else if lines ≠ [] then askHost s lines true
    else
      let s := if windowUnmapped s site w l.offset n then
          raise s { plainReport 0x0307 0 site 0x18 with ctx := some (windowCtx s site w), core := logicalOf s site, site := some site }
        else landSignal (landBytes s l) l
      let s := match l.tag with | some t => emit s (.completion t 0 [] false) | none => s
      let s := { s with mesh := { s.mesh with landings := s.mesh.landings.eraseP (fun l => l.site = site ∧ l.window = w) } }
      landingGone s site w

/-! ### Host accesses of the HDM window (R276, R281, R410 to R412) -/

/-- Lines the snoop filter tracks (R411). -/
def filterLines : Nat := 1048576

/-- A host access that finds nothing: poison or a dropped write, counted and recorded (R412). -/
def hdmUnmapped (s : State) (write : Bool) : State :=
  let s := raise (bump s 76 0x20 (wordFld 0x058) 1) { plainReport 0x0508 0 76 0x20 with ctx := if hdmEnabled s then some (hdmCtx s) else none }
  if write then s else emit s (.hostData none)

/-- An access to a mapped line: a read grants the line to the host, which may then change it; a write gives it back (R410 to R412, R276; log
entry 53). -/
def hdmServe (s : State) (x : Ctx) (offset : Nat) (write : Bool) (data : List Byte) : State :=
  let line := offset / 64
  let a := hdmBase s + line * 64
  if write then
    let s := ctxSplice s (hdmCtx s) x (hdmBase s + offset) data.length (memOf data) false
    { s with hdm := { s.hdm with filter := s.hdm.filter.filter (fun y => y.1 ≠ line) } }
  else if ctxStained s x a 64 then emit (bump s 76 0x20 (wordFld 0x058) 1) (.hostData none)
  else
    let s := emit s (.hostData (some (memBytes (ctxSlice s x a 64) 0 64)))
    { s with hdm := { s.hdm with filter := s.hdm.filter.filter (fun y => y.1 ≠ line) ++ [(line, true)] } }

/-- Whether a host access is for nothing that is mapped: disabled, beyond the window's pages, across a line, or an unmapped page. -/
def hdmAbsent (s : State) (offset n : Nat) : Bool :=
  !hdmEnabled s || decide ((if s.hdm.draining then (hdmFields s).2.2 else hdmBytes s) ≤ offset) || !s.hdm.draining &&
    (match ctxAt s (hdmCtx s) with | some x => !mapped x (hdmBase s + offset / 64 * 64) 64 || decide (64 < offset % 64 + n) | none => true)

/-- The reach whose stack holds a page, or whose port carries its fabric transactions (R258). -/
def pageReach (s : State) (e : Pte) : Nat := if e.fabric then 72 + pagePort s e else e.place / 2

/-- Whether the packets between the head reach and a page's reach do not go now: bulk traffic in both directions (R328, R332). -/
def hdmHeld (s : State) (x : Ctx) (a : Nat) : Bool :=
  match tFind x.pt (a / 2 ^ 21) with
  | some e => packetHeld s 76 (pageReach s e) || packetHeld s (pageReach s e) 76
  | none => false

/-- HDM_ACCESS: served at once, or after the host's answer to a snoop that stands before it, or when the mesh carries it (R281, R332, R410 to R412). -/
def hdmAccess (s : State) (offset : Nat) (write : Bool) (data : List Byte) : State :=
  if !s.hdm.h0Up then s
  else if hdmAbsent s offset data.length then hdmUnmapped s write
  else match ctxAt s (hdmCtx s) with
    | none => hdmUnmapped s write
    | some x =>
      let line := offset / 64
      let wait := fun (s : State) => { s with hdm := { s.hdm with waiting := s.hdm.waiting ++ [(offset, write, data)] } }
      if s.hdm.draining ∨ s.hdm.asked.any (fun y => y.1 = line) ∨ offline s x (hdmBase s + line * 64) 64 ∨ hdmHeld s x (hdmBase s + offset) then wait s
      else if !write ∧ !(s.hdm.filter.any (fun y => y.1 = line)) ∧ filterLines ≤ s.hdm.filter.length then
        wait (match s.hdm.filter with | old :: _ => snoopLine s old.1 true | [] => s)
      else hdmServe s x offset write data

/-- The accesses that wait are tried again, in order. -/
def retryHdm (s : State) : State :=
  let held := s.hdm.waiting
  if held = [] then s else held.foldl (fun s (x : Nat × Bool × List Byte) => hdmAccess s x.1 x.2.1 x.2.2) { s with hdm := { s.hdm with waiting := [] } }

/-- Accesses that wait for a page are tried again: host accesses, then window reads in their order (R281). -/
def retryWaits (s : State) : State :=
  let s := retryHdm s
  let held := s.mesh.reads
  if held = [] then s
  else held.foldl (fun s r => windowRead s r.port r.core r.window r.offset r.len r.src r.tag) { s with mesh := { s.mesh with reads := [] } }

/-! ### The crossbar word view (R321, R322) -/

/-- SP_CTRL.XBAR: may be set only while no context holds the core. -/
def setXbar (s : State) (site : Nat) (v : Bool) : State :=
  let held := (coreAt s site).threads.any (fun t => t.2.holder.isSome)
  if v && held then raise s { plainReport 0x0A09 2 site 0x17 with core := logicalOf s site, site := some site }
  else setFld s site 0x17 ⟨0x040, 0, 0⟩ (boolNat v)

def xbarKey (s : State) (site : Nat) : Nat := site * 2 ^ 28 + fld s site 0x17 ⟨0x048, 25, 0⟩ * 4

/-- One MC cycle of the crossbar's two ports, a word each: what the keeper port reads, and the scratchpad after it. A read sees the old data; a write of
the remote-DMA port is applied before one of the keeper port; a stained row stays stained (R321, R322). -/
def xbarCycle (s : State) (read : Nat) (remote keeper : Option (Nat × Word)) : Word × State :=
  let put := fun (m : Mem) (x : Option (Nat × Word)) => match x with | some (k, v) => memStore m k (leBytes 4 v.toNat) | none => m
  (BitVec.ofNat 32 (leNat (memBytes s.store.scratch read 4)), { s with store := { s.store with scratch := put (put s.store.scratch remote) keeper } })

/-- A read of SP_XB_DATA: the word at SP_XB_ADDR under XBAR; otherwise what the register holds. -/
def xbarRead (s : State) (site : Nat) : State :=
  if !answers s site then emit (noAnswer s) (.readData 0xFFFFFFFF)
  else if !blockPresent s site 0x17 then emit s (.readData 0)
  else if xbarOn s site then emit s (.readData (xbarCycle s (xbarKey s site) none none).1)
  else emit s (.readData (regWord s site 0x17 0x04C))

/-- A write of SP_XB_DATA: under XBAR the word at SP_XB_ADDR. No command is a keeper-directed load over the remote-DMA port (log entry 149). -/
def xbarWrite (s : State) (site : Nat) (v : Word) : State :=
  if xbarOn s site then (xbarCycle s (xbarKey s site) none (some (xbarKey s site, v))).2 else s

/-! ### The rows -/

def execWtOpen (site : BitVec 7) (window : BitVec 6) (s : State) : Answer :=
  .next (hostWrite s site.toNat 0x18 (fun s => openWindow s site.toNat window.toNat))
def execWtClose (site : BitVec 7) (window : BitVec 6) (s : State) : Answer :=
  .next (hostWrite s site.toNat 0x18 (fun s => closingWindow s site.toNat window.toNat))
def execWtDrain (site : BitVec 7) (window : BitVec 6) (s : State) : Answer :=
  .next (hostWrite s site.toNat 0x18 (fun s => drainCmd s site.toNat window.toNat))
def execWtAbort (site : BitVec 7) (window : BitVec 6) (s : State) : Answer :=
  .next (hostWrite s site.toNat 0x18 (fun s => abortCmd s site.toNat window.toNat))
def execWindowWrite (port : BitVec 2) (core : BitVec 7) (window : BitVec 6) (offset : Nat) (data : List Byte) (src : BitVec 12)
    (tag : BitVec 16) (poison : Bool) (s : State) : Answer :=
  .next (windowWrite s port.toNat core.toNat window.toNat offset data src.toNat tag.toNat poison)
def execWindowRead (port : BitVec 2) (core : BitVec 7) (window : BitVec 6) (offset len : Nat) (src : BitVec 12) (tag : BitVec 16)
    (s : State) : Answer :=
  .next (windowRead s port.toNat core.toNat window.toNat offset len src.toNat tag.toNat)
def execWindowWriteLanded (site : BitVec 7) (window : BitVec 6) (s : State) : Answer :=
  .next (windowLanded s site.toNat window.toNat)
def execXbarSet (site : BitVec 7) (value : Bool) (s : State) : Answer :=
  .next (hostWrite s site.toNat 0x17 (fun s => setXbar s site.toNat value))
def execXbarWordRead (site : BitVec 7) (s : State) : Answer :=
  .next (if !s.hdm.h0Up ∨ 72 ≤ site.toNat then s else xbarRead s site.toNat)
def execXbarWordWrite (site : BitVec 7) (value : Word) (s : State) : Answer :=
  .next (hostWrite s site.toNat 0x17 (fun s => xbarWrite s site.toNat value))

end Sys2Proof.Machine
end

