-- ==== Sys2Proof/Machine/Memory.lean ====
section
/-!
DEFINITION. Memory.lean: placement and quotas (R255, R258, R262 to R264, R270 to R272), page heat and migration (R265 to R269), scrubbing
(R274, R275), and pages of a reach that is lost, off or back (R280, R281).
-/
namespace Sys2Proof.Machine

/-! ### Pages (R255, R263) -/

/-- Pages of a stack, and the first one that is allocatable: 0 to 15 of a controller-0 stack are the keepers' (R255). -/
def stackPages : Nat := 34332
def firstPage (k : Nat) : Nat := if k % 2 = 0 then 16 else 0

/-- The key of a page in the free lists: place and page, the fabric tier's after the stacks'. -/
def pageId (fabric : Bool) (place page : Nat) : Nat := (boolNat fabric * 256 + place) * 2 ^ 24 + page

/-- Pages of a stack or fabric-map entry that no other page may take: mapped, retired, or the goal of a move. -/
def takenPages (s : State) (fabric : Bool) (place : Nat) : List Nat :=
  ((s.ctxs.map (fun x => (x.2.pt.filter (fun e => e.2.fabric = fabric ∧ e.2.place = place)).map (fun e => e.2.page))).flatten) ++
    ((s.moves.filter (fun m => m.fabric = fabric ∧ m.place = place)).map Move.dest) ++
    ((s.store.retired.filter (fun k => k / 2 ^ 24 = boolNat fabric * 256 + place)).map (fun k => k % 2 ^ 24))

/-- The lowest free page from first below limit. -/
def lowestFree (taken : List Nat) (first limit : Nat) : Option Nat :=
  ((List.range (taken.length + 1)).map (· + first)).find? (fun p => p < limit ∧ !taken.contains p)

/-- The lowest free page of a stack that is present and answers. -/
def freeStackPage (s : State) (k : Nat) : Option Nat :=
  if stackPresent s k && reachUp s (k / 2) then lowestFree (takenPages s false k) (firstPage k) stackPages else none

/-- The lowest free page of a fabric-map entry (R258). -/
def freeFabricPage (s : State) (e : Nat) : Option Nat :=
  match tFind s.head.fabricMap e with
  | none => none
  | some m => lowestFree (takenPages s true e) 0 m.2.2.1

/-- The home list of a record (R263). -/
def homeList (s : State) (home core : Nat) (list : List Nat) : List Nat :=
  let every := (List.range 144).filter (stackPresent s)
  match home with
  | 0 => (match siteOf s core with | some site => [2 * site, 2 * site + 1].filter (stackPresent s) | none => [])
  | 1 => every
  | 2 =>
    let spare := every.filter (fun k => !siteGood s (k / 2))
    if spare = [] then every else spare
  | _ => list

/-- A page of the home list for page p of an object: stack p mod n, a full stack passing it on cyclically (R263). -/
def homePage (s : State) (home : List Nat) (p : Nat) : Option (Nat × Nat) :=
  let n := home.length
  (List.range n).findSome? (fun i =>
    let k := home.getD ((p + i) % n) 0
    (freeStackPage s k).map (fun g => (k, g)))

/-- Stack and fabric-tier pages a context uses, moves under way and promotions that follow them counted where they go (R272). -/
def stackUsed (s : State) (c : Nat) (x : Ctx) : Nat :=
  (s.moves.filter (fun m => m.ctx = c && m.follow.isSome)).length + (x.pt.filter (fun e => !e.2.fabric && !s.moves.any (fun m => m.ctx = c && m.page = e.1 && m.fabric))).length +
    (s.moves.filter (fun m => m.ctx = c && !m.fabric && (match tFind x.pt m.page with | some e => e.fabric | none => false))).length
def fabricUsed (s : State) (c : Nat) (x : Ctx) : Nat :=
  (x.pt.filter (fun e => e.2.fabric && !s.moves.any (fun m => m.ctx = c && m.page = e.1 && !m.fabric))).length +
    (s.moves.filter (fun m => m.ctx = c && m.fabric)).length

/-- Writes zeros over the page at a byte key of its tier, which clears its stains. -/
def zeroAt (s : State) (fabric : Bool) (key : Nat) : State :=
  if fabric then
    { s with store := { s.store with fabric := memSplice s.store.fabric key (2 ^ 21) []
                                     stainFabric := stainWrite s.store.stainFabric 64 key (2 ^ 21) false } }
  else
    { s with store := { s.store with stack := memSplice s.store.stack key (2 ^ 21) []
                                     stainStack := stainWrite s.store.stainStack 64 key (2 ^ 21) false } }

/-- Writes zeros over a page that no entry maps yet, and over the page of an entry. -/
def zeroPage (s : State) (fabric : Bool) (place page : Nat) : State :=
  zeroAt s fabric (if fabric then fabricTarget s place + page * 2 ^ 21 else place * 2 ^ 37 + page * 2 ^ 21)
def zeroPte (s : State) (e : Pte) : State := zeroAt s e.fabric (pteKey e 0)

/-- A page is no longer one that some context freed: another use of it begins. -/
def forgetFreed (s : State) (id : Nat) : State :=
  { s with ctxs := s.ctxs.map (fun x => (x.1, { x.2 with freed := x.2.freed.filter (fun k => k ≠ id) })) }

/-- A page is handed to a context: filled with zeros unless the context itself freed it (R264, R503). -/
def handPage (s : State) (c : Nat) (fabric : Bool) (place page : Nat) : State :=
  let id := pageId fabric place page
  let own := match ctxAt s c with | some x => x.freed.contains id | none => false
  let s := forgetFreed s id
  if own then s else zeroPage s fabric place page

/-- Maps a context page. -/
def mapPage (s : State) (c v : Nat) (mig fabric : Bool) (place page : Nat) (zero : Bool) : State :=
  let s := handPage s c fabric place page
  let s := if zero then zeroPage s fabric place page else s
  let e : Pte := { stain := false, migratable := mig, pinned := false, state := 0, fabric := fabric, place := place, page := page, heat := 0, fresh := true,
                   target := if fabric then fabricTarget s place else 0 }
  modCtx s c (fun x => { x with pt := tIns x.pt v e })

/-! ### Allocation (R262, R263) -/

/-- An allocation record. -/
structure AllocRec where
  size : Nat
  tierSet : Nat
  home : Nat
  core : Nat
  flags : Nat
  count : Nat
  entry : Nat
  list : List Nat

/-- A record from its bytes. -/
def parseAlloc (b : List Byte) : AllocRec :=
  { size := leAt b 0 8, tierSet := leAt b 8 1, home := leAt b 9 1, core := leAt b 10 1, flags := leAt b 11 1, count := leAt b 12 1,
    entry := leAt b 13 1, list := (List.range 8).map (fun i => leAt b (16 + 2 * i) 2) }

/-- Whether a record is in form (R262, R264). -/
def allocOk (s : State) (r : AllocRec) : Bool :=
  r.size ≠ 0 && r.tierSet ≤ 2 && r.home ≤ 3 && r.flags < 4 && (!bitOf r.flags 0 || r.tierSet = 1) &&
  (r.home ≠ 0 || (siteOf s r.core).isSome) &&
  (r.home ≠ 3 || (1 ≤ r.count && r.count ≤ 8 && (r.list.take r.count).all (stackPresent s))) &&
  (r.tierSet = 0 || (tFind s.head.fabricMap r.entry).isSome)

/-- The lowest base page from which n pages hold no object of the context (R262); context addresses have 48 bits. -/
def firstFit (x : Ctx) (n : Nat) : Option Nat :=
  ((1 :: x.objects.map (fun (o : Obj) => o.base / 2 ^ 21 + o.pages)).filter (fun (b : Nat) =>
    decide (b + n ≤ 2 ^ 27) && x.objects.all (fun (o : Obj) => b + n ≤ o.base / 2 ^ 21 ∨ o.base / 2 ^ 21 + o.pages ≤ b))).min?

/-- Places pages of an object from the last n on; none where there is no room (R263). -/
def placePages (c base : Nat) (r : AllocRec) (home : List Nat) (total : Nat) : Nat → State → Option State
  | 0, s => some s
  | n + 1, s =>
    match ctxAt s c with
    | none => none
    | some x =>
      let p := total - (n + 1)
      let zero := bitOf r.flags 1
      let inStack := if r.tierSet = 2 ∨ x.stackPages ≤ stackUsed s c x then none else homePage s home p
      match inStack with
      | some (k, g) => placePages c base r home total n (mapPage s c (base + p) (bitOf r.flags 0) false k g zero)
      | none =>
        if r.tierSet = 0 ∨ x.fabricPages ≤ fabricUsed s c x then none
        else match freeFabricPage s r.entry with
          | none => none
          | some g => placePages c base r home total n (mapPage s c (base + p) (bitOf r.flags 0) true r.entry g zero)

/-- ALLOC in a context: its base address, or the fault code (R262, R263). -/
def allocate (s : State) (c : Nat) (r : AllocRec) : Except Nat (State × Nat) :=
  match ctxAt s c with
  | none => .error 0x0706
  | some x =>
    if !allocOk s r then .error 0x030B
    else
      let n := (r.size + 2 ^ 21 - 1) / 2 ^ 21
      match firstFit x n with
      | none => .error 0x0301
      | some b =>
        let home := homeList s r.home r.core (r.list.take r.count)
        let o : Obj := { base := b * 2 ^ 21, pages := n, size := n * 2 ^ 21, tierSet := r.tierSet, home := home, fabricEntry := r.entry,
                         migratable := bitOf r.flags 0, dropped := 0 }
        match placePages c b r home n n s with
        | none => .error 0x0301
        | some s => .ok (modCtx s c (fun x => { x with objects := x.objects ++ [o] }), o.base)

/-- The page that a retiring move was to empty is due again: it is looked at after the next epoch (R274; log entry 138). -/
def stayDue (s : State) (m : Move) : State :=
  match (ctxAt s m.ctx).bind (fun x => tFind x.pt m.page) with
  | some e => if m.retire ∧ !e.fabric then { s with store := { s.store with due := addOnce s.store.due (pageId false e.place e.page) } } else s
  | none => s

/-- Moves of pages that a FREE unmaps end where they are, and a promotion of such a page does not follow (log entry 136): what was copied is
overwritten with zeros, and a page that was to be retired stays due (R274). -/
def dropMoves (s : State) (c : Nat) (inside : Nat → Bool) : State :=
  let gone := s.moves.filter (fun m => m.ctx = c && inside m.page)
  let s := (gone.filter (fun m => m.retire)).foldl (fun s m => stayDue s m) s
  let s := { s with moves := (s.moves.filter (fun m => !(m.ctx = c && inside m.page))).map (fun m =>
    { m with follow := if m.ctx = c then m.follow.filter (fun f => !inside f) else m.follow }) }
  gone.foldl (fun s m => zeroPage s m.fabric m.place m.dest) s

/-- FREE of the object at a base: its range is unmapped (R262, R503). -/
def freeObject (s : State) (c base : Nat) : Option State :=
  match ctxAt s c with
  | none => none
  | some x =>
    match x.objects.find? (fun o => o.base = base) with
    | none => none
    | some o =>
      let inside := fun (v : Nat) => decide (base / 2 ^ 21 ≤ v) && decide (v < base / 2 ^ 21 + o.pages)
      let gone := (x.pt.filter (fun e => inside e.1)).map (fun e => pageId e.2.fabric e.2.place e.2.page)
      let x := { x with
        objects := x.objects.filter (fun o => o.base ≠ base)
        pt := x.pt.filter (fun e => !inside e.1)
        freed := x.freed ++ gone }
      some (setCtx (dropMoves s c inside) c x)

/-! ### Heat and migration (R265 to R269) -/

/-- The reset values of R266. -/
def promoteHeat : Nat := 4096
def demoteHeat : Nat := 256
def migBudget : Nat := 16

/-- Folds an epoch's accesses, which the controllers have counted, into HEAT; every page has now been mapped for an epoch's end (R265). -/
def foldHeat (s : State) (counts : List (Nat × Nat × Nat)) : State :=
  { s with ctxs := s.ctxs.map (fun x => (x.1, { x.2 with pt := x.2.pt.map (fun e =>
      let a := ((counts.filter (fun n => n.1 = x.1 ∧ n.2.1 = e.1)).map (fun n => n.2.2)).foldl (· + ·) 0
      (e.1, { e.2 with heat := e.2.heat / 2 + min a 32767, fresh := false })) })) }

/-- A move begins: the page is moving (R268), and the page it goes to is no context's freed one (R264). -/
def startMove (s : State) (m : Move) : State :=
  let s := forgetFreed s (pageId m.fabric m.place m.dest)
  let s := modCtx s m.ctx (fun x => { x with pt := x.pt.map (fun e => if e.1 = m.page then (e.1, { e.2 with state := 1 }) else e) })
  { s with moves := s.moves ++ [m] }

/-- The object of a context that holds a context page. -/
def pageObject (x : Ctx) (v : Nat) : Option Obj := x.objects.find? (fun o => o.base / 2 ^ 21 ≤ v ∧ v < o.base / 2 ^ 21 + o.pages)

/-- The context's coldest MIGRATABLE stack page below DEMOTE_HEAT, which may move (R266, R267). -/
def coldest (x : Ctx) : Option (Nat × Pte) :=
  (sortBy (fun a b => a.2.heat < b.2.heat || (a.2.heat = b.2.heat && a.1 ≤ b.1))
    (x.pt.filter (fun e => e.2.migratable && !e.2.fabric && !e.2.pinned && !e.2.fresh && e.2.state = 0 && e.2.heat < demoteHeat))).head?

/-- Whether a promotion of a context page waits behind a demotion. -/
def follows (s : State) (c v : Nat) : Bool :=
  s.moves.any (fun m => m.ctx = c && m.follow = some v)

/-- The first move of the promotion of a fabric-tier page into its object's home list: the promotion, or where the stack quota is used the demotion of the
context's coldest page, which the promotion follows, into the home list as it then is; none where it is skipped (R266, R267, R272). -/
def promotion (s : State) (c v : Nat) : Option Move :=
  match ctxAt s c with
  | none => none
  | some x =>
    match tFind x.pt v, pageObject x v with
    | some e, some o =>
      if !e.fabric || !e.migratable || e.pinned || e.fresh || e.state ≠ 0 || follows s c v then none
      else if stackUsed s c x < x.stackPages then
        (homePage s o.home (v - o.base / 2 ^ 21)).map (fun g =>
          { ctx := c, page := v, fabric := false, place := g.1, dest := g.2, retire := false, follow := none })
      else if x.fabricPages ≤ fabricUsed s c x then none
      else match coldest x, freeFabricPage s e.place with
        | some (w, _), some d => some { ctx := c, page := w, fabric := true, place := e.place, dest := d, retire := false, follow := some v }
        | _, _ => none
    | _, _ => none

/-- Promotes a fabric-tier page, or skips it (R266). -/
def promote (s : State) (c v : Nat) : State := match promotion s c v with | some m => startMove s m | none => s

/-- The fabric-tier pages to promote, hottest first (R266). -/
def hotPages (s : State) : List (Nat × Nat) :=
  let all := (s.ctxs.map (fun x => (x.2.pt.filter (fun e =>
    e.2.migratable && e.2.fabric && !e.2.pinned && e.2.state = 0 && promoteHeat ≤ e.2.heat)).map (fun e => (x.1, e.1, e.2.heat)))).flatten
  (sortBy (fun a b => b.2.2 < a.2.2 || (a.2.2 = b.2.2 && (a.2.1 < b.2.1 || (a.2.1 = b.2.1 && a.1 ≤ b.1)))) all).map
    (fun a => (a.1, a.2.1))

/-- Promotes pages in order while the epoch's budget of page moves lasts; a demotion and the promotion that follows it are two (R266; log entry
137). -/
def promoteAll : List (Nat × Nat) → Nat → State → State
  | [], _, s => s
  | (c, v) :: r, left, s =>
    match promotion s c v with
    | none => promoteAll r left s
    | some m =>
      let cost := if m.follow.isSome then 2 else 1
      if left < cost then promoteAll r left s else promoteAll r (left - cost) (startMove s m)

/-- A page of a stack that has had its sixteenth corrected error in 24 hours goes out of use: retired at once where nothing maps it, moved to another
page of its stack list otherwise; due, to be looked at again after each epoch, while it may not move or a page is on its way into it (R265, R267, R274; log
entry 138). -/
def retirePage (s : State) (k page : Nat) : State :=
  let id := pageId false k page
  let who := s.ctxs.findSome? (fun x => (x.2.pt.find? (fun e => !e.2.fabric && e.2.place = k && e.2.page = page)).map (fun e => (x.1, e.1, e.2, x.2)))
  let later := { s with store := { s.store with due := addOnce s.store.due id } }
  let now := { s with store := { s.store with due := s.store.due.filter (fun d => d ≠ id) } }
  match who with
  | none => if s.moves.any (fun m => !m.fabric && m.place = k && m.dest = page) then later else tallyCount { now with store := { now.store with retired := addOnce s.store.retired id } } 2 k
  | some (c, v, e, x) =>
    if e.pinned || e.fresh || e.state ≠ 0 then later
    else match (pageObject x v).bind (fun o => homePage s o.home (v - o.base / 2 ^ 21)) with
      | none => later
      | some (j, g) => startMove now { ctx := c, page := v, fabric := false, place := j, dest := g, retire := true, follow := none }

/-- HEAT_EPOCH: the fold, the promotions of the epoch, and the retirements that are due (R265, R266, R274). -/
def heatEpoch (s : State) (counts : List (Nat × Nat × Nat)) : State :=
  let s := foldHeat s counts
  let s := promoteAll (hotPages s) migBudget s
  s.store.due.foldl (fun s d => retirePage s (d / 2 ^ 24) (d % 2 ^ 24)) s

/-- The stained granules of one page, as offsets from its first. -/
def pageStains (s : State) (fabric : Bool) (key : Nat) : List Nat :=
  ((if fabric then s.store.stainFabric else s.store.stainStack).filter (fun g => key / 64 ≤ g ∧ g < (key + 2 ^ 21) / 64)).map
    (fun g => g - key / 64)

/-- The entry of a page where a move takes it. -/
def movedPte (s : State) (e : Pte) (m : Move) : Pte :=
  { e with state := 0, fabric := m.fabric, place := m.place, page := m.dest, target := if m.fabric then fabricTarget s m.place else 0 }

/-- Copies a page with its stains (R268, R276). -/
def copyPage (s : State) (e : Pte) (m : Move) : State :=
  let src := pteKey e 0
  let dst := pteKey (movedPte s e m) 0
  let bytes := memSlice (if e.fabric then s.store.fabric else s.store.stack) src (2 ^ 21)
  let stains := pageStains s e.fabric src
  let mark := fun (l : List Nat) => stains.foldl (fun l g => addOnce l (dst / 64 + g)) (stainWrite l 64 dst (2 ^ 21) false)
  if m.fabric then { s with store := { s.store with fabric := memSplice s.store.fabric dst (2 ^ 21) bytes, stainFabric := mark s.store.stainFabric } }
  else { s with store := { s.store with stack := memSplice s.store.stack dst (2 ^ 21) bytes, stainStack := mark s.store.stainStack } }

/-- Whether a move may end now: its page is not pinned, not at a reach that is switched off, and no fabric port it needs is out of service
or its own end fails (R267, R269, R281). -/
def mayEnd (s : State) (m : Move) : Bool :=
  match (ctxAt s m.ctx).bind (fun x => tFind x.pt m.page) with
  | some e => e.state = 2 || (!e.pinned && e.state ≠ 3)
  | none => true

/-- Whether a move waits: the packets of its copy do not go now, bulk traffic between the reaches of its source and goal (R266, R328, R332). -/
def moveHeld (s : State) (e : Pte) (m : Move) : Bool := packetHeld s (pageReach s e) (pageReach s (movedPte s e m))

/-- Whether a move cannot be carried out: its goal's reach does not answer, a router drops its packets, or the fabric port of its source or goal is out of
service (R269, R331). -/
def moveFails (s : State) (e : Pte) (m : Move) : Bool :=
  let goal := movedPte s e m
  (dropAt s (pageReach s e) (pageReach s goal)).isSome || (!m.fabric && !reachUp s (m.place / 2)) || (m.fabric && !inService s (pagePort s goal)) || (e.fabric && !inService s (pagePort s e))

/-- A page stays at its source: it is resident again unless its reach took it offline or lost it (R269); one to be retired is due again. -/
def stayAtSource (s : State) (m : Move) : State :=
  raise (modCtx (stayDue s m) m.ctx (fun x => { x with pt := x.pt.map (fun e => if e.1 = m.page ∧ e.2.state = 1 then (e.1, { e.2 with state := 0 }) else e) }))
    { plainReport 0x0309 0 76 0 with ctx := some m.ctx }

/-- The promotion that a demotion has made room for begins, into the home list with the page that has come free in it (R266). -/
def startFollow (s : State) (m : Move) : State :=
  match m.follow with
  | some v => (match promotion s m.ctx v with | some p => if p.follow.isSome then s else startMove s p | none => s)
  | none => s

/-- The copy of a move is whole: its entry flips, its old page is retired or filled, and what it made room for begins (R268, R274). -/
def flipMove (s : State) (e : Pte) (m : Move) : State :=
  let s := modCtx (copyPage s e m) m.ctx (fun x =>
    { x with pt := tIns x.pt m.page (movedPte s e m) })
  let s := if m.retire then tallyCount { s with store := { s.store with retired := addOnce s.store.retired (pageId e.fabric e.place e.page) } } 2 e.place
    else zeroPte s e
  startFollow s m

/-- PAGE_MOVE_DONE: the oldest move that may end does so; its entry flips, or the move is abandoned (R268, R269). -/
def moveDone (s : State) (ok : Bool) : State :=
  match s.moves.find? (mayEnd s) with
  | none => s
  | some m =>
    let rest := { s with moves := s.moves.erase m }
    match (ctxAt s m.ctx).bind (fun x => tFind x.pt m.page) with
    | none => zeroPage rest m.fabric m.place m.dest
    | some e =>
      let host := hostLines s m.ctx (m.page * 2 ^ 21) (2 ^ 21) false
      if e.state = 2 then rest
      else if host ≠ [] then askHost s host false
      else if moveHeld s e m then s
      else if !ok || moveFails s e m then stayAtSource rest m
      else flipMove rest e m

/-! ### Scrubbing (R274, R275) -/

/-- Detail of a stack error: kind 0, stack, page, line (R441). -/
def stackDetail (k page line : Nat) : Nat := k + page * 2 ^ 8 + line * 2 ^ 40

/-- 24 hours of the timestamp (R344). -/
def dayCounts : Nat := 8640000000000

/-- One error of a line of stack k (R274, R275). -/
def stackHit (k : Nat) (s : State) (h : ScrubHit) : State :=
  if stackPages ≤ h.page ∨ 32768 ≤ h.line then s
  else
    let rep := fun (code : Nat) => { plainReport code 0 (k / 2) 0 with core := logicalOf s (k / 2), site := some (k / 2), detail := stackDetail k h.page h.line }
    if h.uncorrectable then
      let s := tallyCount s 1 k
      raise { s with store := { s.store with stainStack := addOnce s.store.stainStack ((k * 2 ^ 37 + h.page * 2 ^ 21) / 64 + h.line) } } (rep 0x0305)
    else
      let id := pageId false k h.page
      let times := s.now.toNat :: (tGet [] s.store.corrected id).filter (fun t => s.now.toNat < t + dayCounts)
      let s := { s with store := { s.store with corrected := tIns s.store.corrected id times } }
      let s := raise (tallyCount s 0 k) (rep 0x0304)
      if 16 ≤ times.length ∧ !s.store.retired.contains id ∧ !s.moves.any (fun m => m.retire && (match (ctxAt s m.ctx).bind (fun x => tFind x.pt m.page) with
          | some e => pageId e.fabric e.place e.page = id | none => false)) then retirePage s k h.page else s

/-- DETAIL of an error of a core's own storage (R441): kind 1, the physical row of the scratchpad; 2 and 3, the register and its row. -/
def coreDetail (h : ScrubHit) : Nat :=
  h.kind.toNat * 2 ^ 56 + (if h.kind = 1 then h.line else h.page + h.line * 2 ^ 8)

/-- One SECDED error of a site's scratchpad row, tile register row or accumulator row (R273 to R275; log entry 112): repaired and recorded, or its
granule stained and recorded. -/
def coreHit (site : Nat) (s : State) (h : ScrubHit) : State :=
  let sp := decide (h.kind = 1)
  if site ≥ 72 ∨ !siteGood s site ∨ !reachUp s site ∨ 3 < h.kind.toNat ∨ (sp ∧ 2 ^ 21 ≤ h.line) ∨ (!sp ∧ (1024 ≤ h.line ∨ (if h.kind = 2 then 16 else 4) ≤ h.page)) then s
  else
    let rep := fun (code : Nat) => { plainReport code 0 site (if sp then 0x17 else 0) with core := logicalOf s site, site := some site, detail := coreDetail h }
    if !h.uncorrectable then raise (if sp then bump s site 0x17 (wordFld 0x050) 1 else s) (rep 0x0304)
    else if sp then
      raise { s with store := { s.store with stainScratch := addOnce s.store.stainScratch (rowKey site h.line / 128) } } (rep 0x0305)
    else
      let row := (if h.kind = 2 then h.page else 16 + h.page) * 1024 + h.line
      raise (modCore s site (fun c => { c with stainRows := addOnce c.stainRows row })) (rep 0x0305)

/-- One error that a scrub, or a core's own storage beside it, meets. -/
def scrubHit (k : Nat) (s : State) (h : ScrubHit) : State := if h.kind = 0 then stackHit k s h else coreHit (k / 2) s h

/-- STACK_SCRUB (R274, R275). -/
def stackScrub (s : State) (k : Nat) (hits : List ScrubHit) : State :=
  if stackPresent s k && reachUp s (k / 2) then hits.foldl (scrubHit k) s else s

/-! ### Pages of a reach (R280, R281) -/

/-- Whether a page stands on the stacks of a reach. -/
def onReach (r : Nat) (e : Pte) : Bool := !e.fabric && decide (e.place / 2 = r) && decide (r < 72)

/-- Changes every mapped page on the stacks of a reach, given its context and context page. -/
def onReachPages (s : State) (r : Nat) (f : Nat → Nat → Pte → Pte) : State :=
  { s with ctxs := s.ctxs.map (fun x => (x.1, { x.2 with pt := x.2.pt.map (fun e => if onReach r e.2 then (e.1, f x.1 e.1 e.2) else e) })) }

/-- Moves to the stacks of a reach that is lost or taken offline are abandoned (R269). -/
def abandonMoves (s : State) (r : Nat) : State :=
  let dead := s.moves.filter (fun m => !m.fabric && m.place / 2 = r)
  let s := { s with moves := s.moves.filter (fun m => !(!m.fabric && m.place / 2 = r)) }
  dead.foldl stayAtSource s

/-- The reach is lost: its pages are lost and stained, recorded once, and moves to it end (R269, R280, R288). -/
def losePages (s : State) (r : Nat) : State :=
  let some' := s.ctxs.any (fun x => x.2.pt.any (fun e => onReach r e.2))
  let s := onReachPages s r (fun _ _ e => { e with state := 2, stain := true })
  abandonMoves (if some' then raise s { plainReport 0x0306 0 76 0 with site := some r } else s) r

/-- The reach is switched off: its pages are offline, and moves to it end (R269, R281). -/
def offlinePages (s : State) (r : Nat) : State := abandonMoves (onReachPages s r (fun _ _ e => if e.state = 2 then e else { e with state := 3 })) r
/-- It returns: they are resident again, or moving where a copy of them is under way (R268, R281). -/
def residentPages (s : State) (r : Nat) : State :=
  onReachPages s r (fun c v e => if e.state = 3 then { e with state := if s.moves.any (fun m => m.ctx = c && m.page = v) then 1 else 0 } else e)

def execHeatEpoch (counts : List (Nat × Nat × Nat)) (s : State) : Answer := .next (heatEpoch s counts)
def execPageMoveDone (ok : Bool) (s : State) : Answer := .next (moveDone s ok)
def execStackScrub (stack : Byte) (hits : List ScrubHit) (s : State) : Answer := .next (stackScrub s stack.toNat hits)

end Sys2Proof.Machine
end

