-- ==== Sys2Proof/Machine/Training.lean ====
section
/-!
DEFINITION. Training.lean: the step record and its arming (R363, R364, R536), STEP_BEGIN (R364, R366, R385, R399, R448, R450), the declared
layer order and SKIP (R141, R313), EXIT (R177, R178), and what the loaded program says of tiles, owners and shards (R308, R372, R381, R382).
-/
namespace Sys2Proof.Machine

/-! ### The commit page -/

def commitState (s : State) : Nat := fld s 76 0x29 ⟨0x048, 2, 0⟩
def setCommitState (s : State) (v : Nat) : State := setFld s 76 0x29 ⟨0x048, 2, 0⟩ v
def armed (s : State) : Bool := fld s 76 0x29 ⟨0x044, 0, 0⟩ = 1
def setArmed (s : State) (b : Bool) : State := setFld s 76 0x29 ⟨0x044, 0, 0⟩ (boolNat b)
def activeGen (s : State) : Nat := fld s 76 0x29 ⟨0x04C, 0, 0⟩

/-- PS_LAST_STATUS: source 1 arm, 2 resolve, 3 prime, 4 secure, 5 seal, and the code (R535, R536). -/
def setLast (s : State) (source code : Nat) : State := setRegWord s 76 0x29 0x070 (BitVec.ofNat 32 (source * 2 ^ 24 + code))

/-- A request of the commit page refused: its record and PS_LAST_STATUS. -/
def refuseCommit (s : State) (source code : Nat) : State := setLast (raise s (plainReport code 2 76 0x29)) source code

/-- The bytes of PS_STEP_RECORD. -/
def recordBytes (s : State) : List Byte := ((List.range 32).map (fun i => leBytes 4 (regWord s 76 0x29 (0x400 + 4 * i)).toNat)).flatten

/-- The step record in the mailbox (R363). -/
def parseRecord (b : List Byte) : StepRec :=
  { step := BitVec.ofNat 32 (leAt b 0 4), kind := leAt b 4 1, slotMask := leAt b 5 1, tokens := (List.range 4).map (fun i => leAt b (8 + 4 * i) 4),
    lr := BitVec.ofNat 32 (leAt b 0x18 4), resultAddr := BitVec.ofNat 64 (leAt b 0x20 8) }

/-- Whether a record's fields keep R363. -/
def recordOk (b : List Byte) : Bool :=
  let r := parseRecord b
  r.kind ≤ 2 && r.slotMask < 16 &&
  ((List.range 4).all (fun i =>
    let t := r.tokens.getD i 0
    if bitOf r.slotMask i then 1024 ≤ t && t ≤ 4194304 && t % 1024 = 0 else t = 0)) &&
  !nonfinite32 r.lr && (r.lr.toNat < 2 ^ 31 || isZero32 r.lr) && r.resultAddr.toNat % 64 = 0 &&
  leAt b 6 2 = 0 && leAt b 0x1C 4 = 0 && (b.drop 0x28).all (fun x => x = 0)

/-- Whether some core of a layout would get no tile (R364, R366). -/
def emptySlice (w : List Nat) (nt : Nat) : Bool := (List.range w.length).any (fun k => sliceStart w nt (k + 1) ≤ sliceStart w nt k)

/-! ### The program (R308, R372, R381) -/

/-- The training context of the job record. -/
def trainCtx (s : State) : Nat := match s.head.job with | some j => j.trainCtx | none => 0
/-- What is loaded in a context. -/
def loadedOf (s : State) (c : Nat) : Option Loaded := (ctxAt s c).bind Ctx.loaded
/-- The context whose layout a record of a kind runs on: a replay context for a replay, where one is loaded (R447). -/
def recordCtx (s : State) (kind : Nat) : Nat :=
  if kind = 2 then ((s.ctxs.find? (fun x => match x.2.loaded with | some l => l.replay.isSome | none => false)).map (·.1)).getD (trainCtx s)
  else trainCtx s

/-- The global index of a parameter's first tile, entries in PARAMETERS order (R372). -/
def globalBase : List Param → Nat → Nat → Option (Nat × Param)
  | [], _, _ => none
  | p :: r, u, t => if p.tensorId = t then some (u, p) else globalBase r (u + paramTiles p) t
/-- The entry and tile of global index u. -/
def globalTile (l : Loaded) (u : Nat) : Option (Param × Nat) := tileAtPlace l.params u
/-- U. -/
def tileTotal (l : Loaded) : Nat := l.params.foldl (fun n p => n + paramTiles p) 0
/-- Chunks of a tile (R59, R370). -/
def tileChunks (fmt : Byte) : Nat := (shapeD fmt).rows * (shapeD fmt).cols / 2048

/-- The port of tile u (R372, R414). -/
def tilePort (s : State) (u : Nat) : Nat := if evenOnly s then u % 2 * 2 else u % 4
/-- MODULES and MODULE_INDEX as they hold for a context: those of a replay load where it has them (R447, R503). -/
def modulesFor (s : State) (l : Loaded) : Nat × Nat := match l.replay with | some (i, n) => (n, i) | none => (jobModules s, myIndex s)
/-- The owner of tile u (R372). -/
def tileOwner (s : State) (l : Loaded) (u : Nat) : Nat := u * (modulesFor s l).1 / max 1 (tileTotal l)
/-- Whether this module owns tile u. -/
def owned (s : State) (l : Loaded) (u : Nat) : Bool := u < tileTotal l && tileOwner s l u = (modulesFor s l).2
/-- Every tile of a program by global index. -/
def allTiles (l : Loaded) : List (Nat × Param × Nat) :=
  ((l.params.map (fun p => (List.range (paramTiles p)).map (fun i => (p, i)))).flatten).zipIdx.map (fun (x : (Param × Nat) × Nat) => (x.2, x.1.1, x.1.2))
/-- The tiles this module owns, ascending (R381). -/
def ownedTiles (s : State) (l : Loaded) : List (Nat × Param × Nat) := (allTiles l).filter (fun x => owned s l x.1)

/-- The number of state blocks, and the bytes of serve images, of the owned tiles before u (R381). -/
def blocksBefore (s : State) (l : Loaded) (u : Nat) : Nat :=
  ((ownedTiles s l).filter (fun x => x.1 < u)).foldl (fun n x => n + tileChunks x.2.1.format) 0
def imagesBefore (s : State) (l : Loaded) (u : Nat) : Nat :=
  ((ownedTiles s l).filter (fun x => x.1 < u)).foldl (fun n x => n + (imageBytes x.2.1.format + 4095) / 4096 * 4096) 0

/-- GEN_BASE and SERVE_BASE of a generation, SUM_BASE. -/
def genBase (s : State) (g : Nat) : Nat := match s.head.shard with | some h => if g = 0 then h.genA else h.genB | none => 0
def serveBase (s : State) (g : Nat) : Nat := match s.head.shard with | some h => if g = 0 then h.serveA else h.serveB | none => 0
def sumBase (s : State) : Nat := match s.head.shard with | some h => h.sums | none => 0

/-- The context address of a state block; a frozen tile's stands in generation A alone (R381, R382). -/
def blockAddr (s : State) (l : Loaded) (g u j : Nat) (frozen : Bool) : Nat :=
  genBase s (if frozen then 0 else g) + 4096 + (blocksBefore s l u + j) * 8256
/-- The context address of a serve image. -/
def serveAddr (s : State) (l : Loaded) (g u : Nat) (frozen : Bool) : Nat := serveBase s (if frozen then 0 else g) + imagesBefore s l u

/-- Whether an access to ranges of the training context waits, and the state in which the host has been asked for the lines it holds (R281, R411). -/
def rangesWait (s : State) (rs : List (Nat × Nat × Bool)) : Option State :=
  let lines := fun (w : Bool) => (rs.filter (fun y => y.2.2 = w)).flatMap (fun y => hostLines s (trainCtx s) y.1 y.2.1 w)
  if (match ctxAt s (trainCtx s) with | some x => rs.any (fun y => offline s x y.1 y.2.1) | none => false) then some s
  else if lines false = [] ∧ lines true = [] then none
  else some (askHost (askHost s (lines false) false) (lines true) true)

/-- Bytes of the training context's memory. -/
def trainBytes (s : State) (a n : Nat) : List Byte :=
  match ctxAt s (trainCtx s) with | some x => memBytes (ctxSlice s x a n) 0 n | none => leBytes n 0
/-- The module's own write to the training context's memory; where its pages are mapped no more, nothing is written, and 0x0307 is recorded (R257; log
entry 148). -/
def trainStore (s : State) (a : Nat) (bs : List Byte) : State :=
  match ctxAt s (trainCtx s) with
  | some x =>
    if mapped x a bs.length then ctxSplice s (trainCtx s) x a bs.length (memOf bs) false
    else raise s { plainReport 0x0307 0 76 0x29 with ctx := some (trainCtx s) }
  | none => s

/-- Stains granules of the training context's memory, by 64-byte units from an address: what was copied there was stained (R276). -/
def stainTrain (s : State) (a : Nat) (granules : List Nat) : State :=
  granules.foldl (fun s g => match ctxAt s (trainCtx s) with
    | some x => ctxSplice s (trainCtx s) x (a + 64 * g) 64 (ctxSlice s x (a + 64 * g) 64) true
    | none => s) s

/-- The header of a generation (R383): step, updates, P1, P2, CLIP_NEXT, NORM2, flags. -/
structure GenHeader where
  step : Nat
  updates : Nat
  p1 : F32
  p2 : F32
  clip : F32
  norm2 : F32
  flags : Nat
  deriving DecidableEq, Repr

def parseHeader (b : List Byte) : GenHeader :=
  let f := fun (o : Nat) => BitVec.ofNat 32 (leAt b o 4)
  { step := leAt b 0 4, updates := leAt b 4 4, p1 := f 8, p2 := f 0xC, clip := f 0x10, norm2 := f 0x14, flags := leAt b 0x18 4 }
def headerBytes (h : GenHeader) : List Byte :=
  leBytes 4 h.step ++ leBytes 4 h.updates ++ leBytes 4 h.p1.toNat ++ leBytes 4 h.p2.toNat ++ leBytes 4 h.clip.toNat ++ leBytes 4 h.norm2.toNat ++
    leBytes 4 h.flags
/-- The header of a generation of this module. -/
def genHeader (s : State) (g : Nat) : GenHeader := parseHeader (trainBytes s (genBase s g) 28)
/-- GEN_STEP of the active generation. -/
def genStep (s : State) : Nat := (genHeader s (activeGen s)).step

/-! ### Arming (R364, R536) -/

/-- PS_STEP_ARM operation 1; nothing is armed after a fault with effect MODULE (R442; log entry 150). -/
def stepArm (s : State) : State :=
  if armed s ∨ s.head.stopped then s
  else
    let b := recordBytes s
    let r := parseRecord b
    let w := match loadedOf s (recordCtx s r.kind) with | some l => l.weights.take l.width | none => []
    if !recordOk b || emptySlice w (tokenTiles r) then refuseCommit s 1 0x0B07
    else setLast (setArmed s true) 1 0

/-- PS_STEP_ARM operation 2: the record stays in place. -/
def stepDisarm (s : State) : State := setArmed s false

/-! ### Feeders' schedule -/

/-- The ring slots of a core whose tiles the forward pass has used and the backward pass has not: the last SL_WW_TILES (R312). -/
def keptSlots (s : State) (l : Loaded) (site : Nat) : List Nat :=
  let total := scheduleTotal l
  let tiles := wwTiles s site
  let pos := (coreAt s site).wwPos
  ((List.range (2 * total)).filter (fun k => keptAt s l tiles k && pos ≤ k && 2 * total - 1 - k < pos)).map (wwSlot s (some l) tiles)

/-- The feeders begin the forward schedule again at tile 0 (R369). A tile kept for a backward pass that does not follow holds its slot until
the next STEP_BEGIN (R312); every other slot is free (log entry 38). -/
def restartFeeders (s : State) : State :=
  let kept := fun (site : Nat) => match loadedOf s s.step.ctx with | some l => keptSlots s l site | none => []
  { s with
    step := { s.step with skipped := [] }
    ports := s.ports.map (fun x => (x.1, { x.2 with feedPos := 0, fetches := [], feedStopped := false }))
    cores := s.cores.map (fun x => (x.1, { x.2 with wwPos := 0, wwKept := (x.2.wwKept ++ kept x.1).eraseDups })) }

/-! ### Prefetch of state (R378) -/

/-- The non-frozen tiles that this module owns on a port, in the reverse schedule (R378). -/
def reverseOwned (s : State) (l : Loaded) (p : Nat) : List (Nat × Param × Nat) :=
  let total := scheduleTotal l
  ((List.range total).filterMap (fun n => (scheduleTile l (total + n)).bind (fun x =>
    (globalBase l.params 0 x.1.tensorId).map (fun b => (b.1 + x.2, x.1, x.2))))).filter
    (fun (x : Nat × Param × Nat) => !x.2.1.frozen && owned s l x.1 && tilePort s x.1 = p)

/-- The tiles that the Press of a port has come to: of its owned tiles not yet done, in the reverse schedule, as many as it stays ahead (R378). -/
def prefetchTiles (s : State) (l : Loaded) (p : Nat) : List (Nat × Param × Nat) :=
  ((reverseOwned s l p).filter (fun x => !s.step.tilesDone.contains x.1)).take (min 16 (max 1 (fld s (72 + p) 0x23 ⟨0x040, 4, 0⟩)))

/-- Promotes the fabric-tier pages of the next tiles' state blocks, PS_PREFETCH_TILES ahead of the last tile done (R378, R534). -/
def prefetch (s : State) (l : Loaded) (p : Nat) : State :=
  (prefetchTiles s l p).foldl (fun s x =>
    let a := blockAddr s l (activeGen s) x.1 0 x.2.1.frozen
    let n := tileChunks x.2.1.format * 8256
    (List.range ((a + n - 1) / 2 ^ 21 + 1 - a / 2 ^ 21)).foldl (fun s i => promote s (trainCtx s) (a / 2 ^ 21 + i)) s) s

/-! ### STEP_BEGIN -/

/-- Whether a REPLAY of a step may begin (R448). -/
def replayAllowed (s : State) (step : Word) : Bool :=
  (match s.step.replayReq with | some (n, _) => n = step | none => false) || s.step.verifyStep = some step

/-- Whether the commit state accepts a record (R399, R448). -/
def kindAllowed (s : State) (r : StepRec) : Bool :=
  match commitState s with
  | 1 => r.kind ≠ 2 || replayAllowed s r.step
  | 4 => r.kind = 2 && replayAllowed s r.step
  | _ => false

/-- A marked module runs SELF_CHECK on every core before it accepts a STEP_BEGIN, which leaves the cores' registers undefined (R228, R450; log
entry 37). -/
def markedCheck (s : State) : State :=
  if !s.step.markPending then s
  else
    let n := s.freeCount
    let s := { s with freeCount := n + 1, step := { s.step with markPending := false } }
    (List.range (coreCount s)).foldl (fun s k =>
      match siteOf s k with
      | none => s
      | some site =>
        let s := clobberCore s { q := 0, ctx := trainCtx s, core := k, site := site, t := 0, home := site }
        if Config.checkFails n k then
          raise (modCore s site (fun c => { c with passed := false })) { plainReport 0x0903 0 site 0 with core := some k, site := some site }
        else s) s

/-- The constants of a training step (R385). A stained generation header is consumed (R278, R279). -/
def stepConstants (s : State) (l : Loaded) : State :=
  if (match ctxAt s (trainCtx s) with | some x => ctxStained s x (genBase s (activeGen s)) 28 | none => false) then
    consumeStain s { plainReport 0x0303 4 (72 + (ringPorts s).headD 0) 0x23 with ctx := some (trainCtx s) }
  else
  let h := genHeader s (activeGen s)
  let p1 := mul32 h.p1 l.policy.beta1
  let p2 := mul32 h.p2 l.policy.beta2
  { s with step := { s.step with
      t := h.updates
      p1 := p1
      p2 := p2
      clip := h.clip
      h1 := recip32 (sub32 0x3F800000 p1)
      h2 := rsqrt32 (sub32 0x3F800000 p2) } }

/-- Latches the armed record: the step of every core begins (R364, R374, R378, R385, R399, R534, R537). The digest table
starts empty with a training step (log entry 39). -/
def latchStep (s : State) (c : Nat) (r : StepRec) : State :=
  let s := markedCheck s
  let back := commitState s
  let s := setCommitState (setArmed s false) (match r.kind with | 0 => 2 | 1 => 5 | _ => 6)
  let s := setRegWord s 76 0x29 0x050 r.step
  let s := { s with
    step := { s.step with
      record := some r
      ctx := c
      back := back
      foul := false
      suspect := false
      lost := false
      cause := 0
      begun := []
      ended := []
      skipped := []
      voted := false
      ownVote := { bits := 0, cause := 0, firstSuspect := 0xFFFF, norm2 := 0 }
      beginAt := s.now.toNat
      clip := 0
      digests := if r.kind = 0 then [] else s.step.digests
      round := 0
      timedOut := false
      emitted := []
      applied := []
      tilesDone := []
      late := 0
      lateRaised := false
      sums := []
      groupsDone := []
      norms := []
      changed := []
      lagCore := none
      lagRatio := 0
      lagMost := 0
      resolution := match s.step.resolution with
        | some (n, m, true) => if n = r.step then some (n, m, true) else none
        | x => if r.kind = 0 then none else x
      contribution := 0
      norm2 := 0
      warmup := if r.kind = 0 then s.step.warmup + 1 else s.step.warmup
      replayReq := if r.kind = 2 then s.step.replayReq else none
      verifyStep := if r.kind = 2 then s.step.verifyStep else none
      votes := s.step.votes.filter (fun v => r.step.toNat ≤ v.1 / 2 ^ 20) }
    ports := s.ports.map (fun x => (x.1, { x.2 with digest := 0, nodes := [] })) }
  let s := [0, 1, 2, 3].foldl (fun s p =>
    setRegWord (setRegWord (setRegWord s (72 + p) 0x22 0x040 0) (72 + p) 0x22 0x054 r.step) (72 + p) 0x23 0x044 0) s
  let s := if r.kind = 2 then restartFeeders s else s
  match loadedOf s c with
  | some l => if r.kind = 0 then (ringPorts s).foldl (fun s p => prefetch s l p) (stepConstants s l) else s
  | none => s

/-- The first token and the length of a core's slice of the step's record (R366). -/
def coreSlice (s : State) (u : Issue) : Nat × Nat :=
  let weights := match loadedOf s u.ctx with | some l => l.weights | none => []
  let total := (match s.step.record with | some r => r.tokens.foldl (· + ·) 0 | none => 0) / 1024
  let first := sliceStart weights total u.core * 1024
  (first, sliceStart weights total (u.core + 1) * 1024 - first)

/-- STEP_BEGIN on one core: its Starch page takes the step, its layer sequence begins, and the keeper writes its slice into vs3 and vs4 (R57, R112,
R141, R364, R366). -/
def beginCore (s : State) (u : Issue) (step : Word) : State :=
  let s := stepWrite s u.site step
  let (first, length) := coreSlice s u
  let s := modCore s u.site (fun c => { c with layerPos := none, wwKept := [], firstToken := first, sliceTokens := length })
  { s with step := { s.step with begun := addOnce s.step.begun u.core } }

/-- The first STEP_BEGIN of an armed step latches it, once the header that its constants come from can be read (R281, R364, R385, R411). -/
def beginStep (h : Hdr) (s : State) (u : Issue) : State × Ran :=
  let n := parseRecord (recordBytes s)
  if !(armed s && kindAllowed s n) then refused s u h 0x0B03 0x11
  else match (if n.kind = 0 then rangesWait s [(genBase s (activeGen s), 28, false)] else none) with
    | some t => (t, .blocked false)
    | none => (beginCore (latchStep s u.ctx n) u n.step, .done)

/-- STEP_BEGIN (R191, R364, R399). -/
def stepBeginBody : Body := fun h s u =>
  let running := decide (commitState s = 2) || decide (commitState s = 5) || decide (commitState s = 6)
  match s.step.record with
  | some r =>
    if running && s.step.ctx = u.ctx && !s.step.begun.contains u.core then (beginCore s u r.step, .done) else beginStep h s u
  | none => beginStep h s u

/-! ### Layers (R141, R313) -/

/-- The layer and direction at place n of a step's sequence: forward as declared, then in reverse (R141). -/
def layerAt (l : Loaded) (interlude : Bool) (n : Nat) : Option (Nat × Nat) :=
  let k := l.layers.length
  if n < k then (l.layers[n]?).map (fun y => (y, 0))
  else if !interlude && n < 2 * k then (l.layers[2 * k - 1 - n]?).map (fun y => (y, 1))
  else none

/-- Schedule positions of a layer's tiles in a direction: first and count (R308). -/
def layerSpan (l : Loaded) (layer dir : Nat) : Nat × Nat :=
  let before := (l.layers.takeWhile (fun y => y ≠ layer)).foldl (fun n y => n + ((l.params.filter (fun p => p.layer = y)).map paramTiles).foldl (· + ·) 0) 0
  let n := ((l.params.filter (fun p => p.layer = layer)).map paramTiles).foldl (· + ·) 0
  if dir = 0 then (before, n) else (2 * scheduleTotal l - before - n, n)

/-- Every core of the layout has skipped a layer: its tiles in the ring are discarded and counted; posSkipped keeps feeders and
cores behind it
(R313). -/
def discardLayer (s : State) (c : Nat) (l : Loaded) (layer dir : Nat) : State :=
  let (a, n) := layerSpan l layer dir
  let s := (List.range l.width).foldl (fun s k =>
    match siteOf s k with
    | none => s
    | some site =>
      let here := (List.range n).filter (fun i => (coreAt s site).wwPos ≤ a + i ∧ wwLanded s c site (a + i))
      bump s site 0x16 (wordFld 0x074) here.length) s
  { s with ports := s.ports.map (fun x => (x.1, { x.2 with
      fetches := x.2.fetches.filter (fun f => !(a ≤ f.pos ∧ f.pos < a + n)) })) }

/-! ### EXIT (R177, R178, R391, R400) -/

/-- Whether a core has issued its last command of the step: it has ended the code object and nothing of the context is under way
on it (R391). -/
def coreEnded (s : State) (k : Nat) : Bool :=
  match siteOf s k with
  | none => true
  | some site =>
    let c := coreAt s site
    let ours := fun (q : Nat) => match queueAt s q with | some e => decide (e.ctx = s.step.ctx) | none => false
    s.step.ended.contains k && c.threads.all (fun t => !(t.2.code.isSome && (match t.2.attached with | some q => ours q | none => false))) &&
      c.held.all (fun x => match instrQueue x.2 with | some q => !ours q | none => true) &&
      c.started.all (fun x => !ours x.2.queue.toNat) &&
      c.descs.all (fun d => d.2.flight.all (fun f => !ours f.2.1.queue.toNat))

/-- Every core of the step's layout has ended. -/
def layoutEnded (s : State) : Bool :=
  let w := layoutWidth s s.step.ctx
  decide (0 < w) && (List.range w).all (coreEnded s)

end Sys2Proof.Machine
end

