-- ==== Sys2Proof/Machine/Outcome.lean ====
section
/-!
DEFINITION. Outcome.lean: what a step leaves at its end: contribution digest (R374), result record (R398), step log entry (R472),
the new generation header (R389, R393), the events of R524, and the halting of a context's queues under R395.
-/
namespace Sys2Proof.Machine

/-! ### Digest, result record, step log -/

/-- The module's contribution digest (R374): a port not enabled counts 0. -/
def contribution (s : State) (step : Word) : BitVec 256 :=
  sha256 (([0, 1, 2, 3].map (fun p => digestBytes (if ringPort s p then (portAt s p).digest else 0))).flatten ++ leBytes 4 step.toNat)

/-- Sum of the cores' ST_NONFINITE. -/
def nonfiniteSum (s : State) : Nat := ((serviceSites s).map (fun site => fld s site 0x14 (wordFld 0x054))).foldl (· + ·) 0

/-- S and c of a step's result record: those of a training step; an interlude has no S, and the spec gives no other value for a step that
takes no update (R398; log entry 6). -/
def resultNorm (s : State) (r : StepRec) : F32 × F32 × State :=
  if r.kind = 0 then (s.step.norm2, s.step.clip, s)
  else
    let n := s.freeCount
    (if r.kind = 1 then 0 else Config.free32 n, Config.free32 (n + 1), { s with freeCount := n + 2 })

/-- The step result record (R398). -/
def resultBytes (s : State) (r : StepRec) (outcome : Nat) (norm clip : F32) : List Byte :=
  leBytes 4 r.step.toNat ++ leBytes 1 r.kind ++ leBytes 1 outcome ++ leBytes 1 s.step.ownVote.bits ++ leBytes 1 s.step.ownVote.cause ++
    digestBytes s.step.contribution ++ leBytes 4 norm.toNat ++ leBytes 4 clip.toNat ++
    leBytes 4 s.step.late ++ leBytes 4 (nonfiniteSum s) ++ leBytes 1 (activeGen s) ++ leBytes 7 0

/-- The step entry of the tally (R472). -/
def stepEntry (s : State) (r : StepRec) (outcome : Nat) : List Byte :=
  let body := leBytes 4 r.step.toNat ++ leBytes 1 r.kind ++ leBytes 1 outcome ++ leBytes 1 s.step.ownVote.bits ++
    leBytes 1 s.step.ownVote.cause ++ digestBytes s.step.contribution ++ leBytes 8 s.now.toNat ++
    leBytes 4 ((s.now.toNat - s.step.beginAt) / 100) ++ leBytes 1 (s.step.lagCore.getD 0xFF) ++ leBytes 1 (min 255 s.step.lagRatio) ++
    leBytes 2 0 ++ leBytes 4 s.risk.rho.toNat
  body ++ leBytes 4 (crc32 body).toNat

/-- Entries of STEP_LOG (R470). -/
def stepLogSize : Nat := 131072

/-- A step entry is appended; the oldest leaves a full region (R470, R472, R473). -/
def logStep (s : State) (r : StepRec) (outcome : Nat) : State :=
  let l := s.tally.stepLog ++ [stepEntry s r outcome]
  { s with tally := { s.tally with
      stepLog := l.drop (l.length - stepLogSize)
      writes := tAdd s.tally.writes 3 1 } }

/-- SECURE_DUE, once, at the first outcome at which a round is due (R454). -/
def secureDue (s : State) : State :=
  match loadedOf s (trainCtx s) with
  | none => s
  | some l =>
    let o := l.policy
    let due := (!flt32 s.risk.expected o.eSecure && decide (o.secureMin ≤ s.risk.committed)) ||
      (o.secureMax ≠ 0 && decide (o.secureMax ≤ s.risk.committed))
    if s.risk.dueRaised ∨ !due then s
    else raise { s with risk := { s.risk with dueRaised := true } } (plainReport 0x0908 0 76 0x29)

/-- An outcome, of a training step, an interlude or a replay: its result record, its step entry, the commit page's event, and the securing round that
is due (R398, R454, R472, R524). -/
def reportOutcome (s : State) (outcome : Nat) : State :=
  match s.step.record with
  | none => s
  | some r =>
    let x := resultNorm s r
    secureDue (irqEvent (hostStore (logStep x.2.2 r outcome) r.resultAddr.toNat (resultBytes s r outcome x.1 x.2.1)) 76 0x29 0)

/-! ### Halting under R395 -/

/-- Halts every queue of a context with STEP_ABANDONED, shown at once (R194, R395). -/
def haltContext (s : State) (c : Nat) : State :=
  (ctxQueues s c).foldl (fun s q => haltNow s q 0x0B09 0) s

/-- A port gives up what its ring holds: chunks of arrival buffer, own queue, tree and Press; every slot is free, and the predecessor gets
its credits (R395). -/
def drainRing (s : State) (p : Nat) : State :=
  let q := portAt s p
  let gone := q.arrival.map (fun (a : Nat × Option Chunk) => (a.1, (none : Option Chunk)))
  modPort s p (fun q => { q with arrival := gone, own := [], press := [], nodes := [] })

/-! ### The new header (R389, R393) -/

/-- CLIP_NEXT of a commit (R389): log entry 12 for rsqrt. -/
def clipNext (clipNorm sum : F32) : F32 :=
  if clipNorm = 0x7F800000 || isZero32 sum then 0x3F800000 else min32 0x3F800000 (mul32 clipNorm (rsqrt32 sum))

/-- Writes the new header into the alternate generation and makes that generation active (R393). -/
def flipGeneration (s : State) : State :=
  let g := 1 - activeGen s
  let norm := match loadedOf s (trainCtx s) with | some l => l.policy.clipNorm | none => 0x7F800000
  let h : GenHeader :=
    { step := match s.step.record with | some r => r.step.toNat | none => 0
      updates := (s.step.t + 1) % 2 ^ 32
      p1 := s.step.p1
      p2 := s.step.p2
      clip := clipNext norm s.step.norm2
      norm2 := s.step.norm2
      flags := 1 }
  setFld (trainStore s (genBase s g) (headerBytes h ++ leBytes 4068 0)) 76 0x29 ⟨0x04C, 0, 0⟩ g

end Sys2Proof.Machine
end

