-- ==== Sys2Proof/Machine/Gradient.lean ====
section
/-!
DEFINITION. Gradient.lean: gradients from GRAD_EMIT through the reduction trees (R333 to R335, R370), the Mangles (R373, R374), the rings
(R375 to R377, R421, R429) and the Presses (R378 to R388) to the ratio test (R121 to R123).
-/
namespace Sys2Proof.Machine

/-! ### G16 chunks (R59 to R61) -/

/-- 2,048 values as 32 groups: exponents, mantissas, saturations, non-finite groups (R59, R60). -/
def encodeChunk (xs : List F32) : List Byte × List (BitVec 16) × Nat × Nat :=
  let gs := (List.range 32).map (fun i => g16Encode ((xs.drop (64 * i)).take 64))
  (gs.map (fun g => g.1), (gs.map (fun g => g.2.1)).flatten, (gs.map (fun g => g.2.2.1)).foldl (· + ·) 0,
    (gs.filter (fun g => g.2.2.2)).length)

/-- The values of a chunk. -/
def decodeChunk (c : Chunk) : List F32 := c.mants.zipIdx.map (fun (x : BitVec 16 × Nat) => g16Decode (c.exps.getD (x.2 / 64) 0) x.1)

/-- Groups of a chunk that are non-finite. -/
def badGroups (c : Chunk) : Nat := (c.exps.filter (fun e => e = 255)).length

def sameChunk (a b : Chunk) : Bool := a.tensorId = b.tensorId && a.tileIndex = b.tileIndex && a.number = b.number

/-- The sum of two chunks, left operand first, encoded once, and its saturations (R61, R335). A group of it is non-finite where an
operand's is or a sum is. -/
def addChunks (a b : Chunk) : Chunk × Nat :=
  let e := encodeChunk ((decodeChunk a).zipWith add32 (decodeChunk b))
  ({ a with exps := e.1, mants := e.2.1 }, e.2.2.1)

/-- A non-finite or saturated gradient found at a page: the foul flag (R118). -/
def foulGradient (s : State) (reach page : Nat) (mark : Word) (bad sats : Nat) : State :=
  if bad + sats = 0 then s else raise s { plainReport 0x0202 5 reach page with mark := mark }

/-! ### The reduction trees (R333, R334) -/

/-- Nodes at a level of the tree over w cores. -/
def levelNodes (w level : Nat) : Nat := (w + 2 ^ level - 1) / 2 ^ level

/-- An unpaired last node passes up unchanged. -/
def liftNode (w : Nat) : Nat → Node → Node
  | 0, n => n
  | fuel + 1, n =>
    if levelNodes w n.level ≤ 1 ∨ n.index + 1 ≠ levelNodes w n.level ∨ n.index % 2 = 1 then n
    else liftNode w fuel { n with level := n.level + 1, index := n.index / 2 }

/-- A partial sum arrives at a node of a port's tree. -/
def placeNode (s : State) (p w : Nat) (n : Node) : State := modPort s p (fun q => { q with nodes := q.nodes ++ [liftNode w 8 n] })

/-- The level of a chunk that a Mangle emits itself (R390). -/
def ownLevel : Nat := 255

/-- The router that runs a combination: that of the site of the right operand's lowest core, or the nearest one in service (R334). -/
def combineSite (s : State) (level index : Nat) : Nat :=
  let home := (siteOf s ((2 * index + 1) * 2 ^ level)).getD 0
  if reachUp s home then home
  else (sortBy (fun a b => hops a home < hops b home || (hops a home = hops b home && a ≤ b)) ((List.range 72).filter (fun r => reachUp s r))).headD home

/-- The first pair of a list of nodes whose operands stand at (level, 2·index) and (level, 2·index + 1). -/
def findPair (ns : List Node) (level index : Nat) : Option (Node × Node) :=
  ns.findSome? (fun a =>
    if a.level = level ∧ a.index = 2 * index then
      (ns.find? (fun b => b.level = level ∧ b.index = 2 * index + 1 ∧ sameChunk a.chunk b.chunk)).map (fun b => (a, b))
    else none)

/-- Where a partial sum stands: at its core's site, or at the router of the combination that made it; one that passed up unchanged has not moved. -/
def nodeSite (s : State) (w : Nat) : Nat → Nat → Nat
  | 0, index => (siteOf s index).getD 0
  | level + 1, index => if 2 * index + 1 < levelNodes w level then combineSite s level index else nodeSite s w level (2 * index)

/-- The operands of a combination, or of the Mangle's, cross the mesh to reach dst: they wait while a source is held or a link on the way is not up
(R329, R332), and one that no route carries is dropped and counted, its source told (R331). -/
def operandsHeld (s : State) (w : Nat) (ns : List Node) (dst : Nat) : Bool := ns.any (fun n => packetHeld s (nodeSite s w n.level n.index) dst)
def operandsLost (s : State) (p w : Nat) (ns : List Node) (dst : Nat) : Option State :=
  let lost := ns.filterMap (fun n => (dropAt s (nodeSite s w n.level n.index) dst).map (fun r => (n, r)))
  if lost = [] then none
  else some (lost.foldl (fun s (x : Node × Nat) =>
    raise (dropPacket (modPort s p (fun q => { q with nodes := q.nodes.erase x.1 })) x.2)
      { plainReport 0x0405 1 (nodeSite s w x.1.level x.1.index) 0x03 with mark := x.1.chunk.mark }) s)

/-- REDUCTION_COMBINE: two partial sums of a port's tree meet below the top (R333 to R335). -/
def combineNodes (s : State) (p level index : Nat) : State :=
  let w := layoutWidth s s.step.ctx
  if roundsOf w ≤ level + 1 then s
  else match findPair (portAt s p).nodes level index with
    | none => s
    | some (a, b) =>
      let r := addChunks a.chunk b.chunk
      let site := combineSite s level index
      if operandsHeld s w [a, b] site then s
      else match operandsLost s p w [a, b] site with
        | some t => t
        | none =>
          let s := modPort s p (fun q => { q with nodes := (q.nodes.erase a).erase b })
          let s := foulGradient s site 0x03 r.1.mark (badGroups r.1) r.2
          placeNode s p w { level := level + 1, index := index, chunk := r.1 }

/-! ### GRAD_EMIT (R176, R370) -/

/-- The parameter entry and global index of a tile. -/
def tileOf (l : Loaded) (tensor tile : Nat) : Option (Nat × Param) :=
  match globalBase l.params 0 tensor with
  | some (base, p) => if tile < paramTiles p then some (base + tile, p) else none
  | none => none

/-- Stored element i of a tile held in an accumulator, transposed or not; a stained row is treated as non-finite (R279; log entry 40). -/
def emitElement (c : Core) (acc : Nat) (transpose : Bool) (cols i : Nat) : F32 :=
  let r := i / cols
  let k := i % cols
  let row := if transpose then k else r
  let col := if transpose then r else k
  if c.stainRows.contains ((16 + acc) * 1024 + row) then nan32 else tGet 0 (accAt c acc) (row * 1024 + col)

/-- GRAD_EMIT: every chunk of the tile enters the tree of its port at the core's leaf (R333, R370, R400). A clamped element counts as a
saturation and makes the step foul (R60, R118; log entry 125). -/
def gradEmitBody (o : GradOps) : Body := fun h s u =>
  if commitState s = 5 then refused s u h 0x0B05 0x16
  else match (loadedOf s u.ctx).bind (fun l => tileOf l o.tensorId.toNat o.tileIndex.toNat) with
    | none => refused s u h 0x0114 0x16
    | some (g, p) =>
      if specKind o.source ≠ 2 ∨ tilePort s g ≠ o.port.toNat then refused s u h 0x0114 0x16
      else if packetHeld s u.site (72 + o.port.toNat) then (s, .blocked false)
      else match dropAt s u.site (72 + o.port.toNat) with
      | some r => (undelivered s u h r 0x16, .done)
      | none =>
        let c := coreAt s u.site
        let w := layoutWidth s u.ctx
        let cols := (shapeD p.format).cols
        ((List.range (tileChunks p.format)).foldl (fun s j =>
          let e := encodeChunk ((List.range 2048).map (fun i => emitElement c (specAcc o.source) o.transpose cols (2048 * j + i)))
          let s := foulGradient (bump s u.site 0x14 (wordFld 0x048) e.2.2.1) u.site 0x03 h.mark 0 e.2.2.1
          placeNode s o.port.toNat w
            { level := 0
              index := u.core
              chunk := { tensorId := o.tensorId.toNat, tileIndex := o.tileIndex.toNat, number := j, step := currentStep s, mark := h.mark,
                         exps := e.1, mants := e.2.1 } }) s, .done)

/-! ### The Press's state (R62, R63, R386) -/

/-- Two-byte little-endian codes. -/
def words16 : List Byte → List (BitVec 16)
  | a :: b :: r => BitVec.ofNat 16 (a.toNat + 256 * b.toNat) :: words16 r
  | _ => []

def bytes16 (ws : List (BitVec 16)) : List Byte := (ws.map (fun w => leBytes 2 w.toNat)).flatten

/-- A W16 code as FP32. -/
def w16Value (w : BitVec 16) : F32 := w.setWidth 32 <<< 16

/-- r of M8B: q · s, exact (R386). -/
def m8bRoot (s : BitVec 16) (q : Byte) : F32 :=
  let f := bf16Frac s
  to32 .rne (.fin false (q.toNat * f.1) f.2)

/-- One parameter before its update: whether it is none of the padding, its gradient, moments and weight. -/
structure PressIn where
  live : Bool
  g : F32
  m : F32
  r : F32
  w : BitVec 16

/-- One parameter after its update (R386): scaled gradient for the norm, first moment, root of the second, weight before rounding. -/
structure PressOut where
  gh : F32
  m1 : F32
  r1 : F32
  w1 : F32

/-- Whether the tile element at stored index i is a parameter and no padding (R41, R64). -/
def liveElement (p : Param) (tile i : Nat) : Bool :=
  let sh := shapeD p.format
  let across := (p.cols + sh.cols - 1) / max 1 sh.cols
  decide (tile / max 1 across * sh.rows + i / max 1 sh.cols < p.rows) && decide (tile % max 1 across * sh.cols + i % max 1 sh.cols < p.cols)

/-- The update of one parameter (R386), each operation rounded once; padding is never updated (R64). -/
def updateOne (o : Policy) (t : StepState) (lr : F32) (x : PressIn) : PressOut :=
  let w := w16Value x.w
  if !x.live then { gh := 0, m1 := x.m, r1 := x.r, w1 := w }
  else
    let gh := mul32 x.g o.gradScale
    let g := mul32 gh t.clip
    let v := mul32 x.r x.r
    let m1 := fma32 o.beta1 x.m (mul32 o.beta1c g)
    let v1 := fma32 o.beta2 v (mul32 o.beta2c (mul32 g g))
    let r1 := sqrt32 v1
    let den := add32 (mul32 r1 t.h2) o.eps
    let u := div32 (mul32 m1 t.h1) den
    let t1 := fma32 o.wd w u
    { gh := gh, m1 := m1, r1 := r1, w1 := fma32 (lr ^^^ 0x80000000) t1 w }

/-- A scale and its codes for 128 values; where a value is not finite, for which R62 states none, they are open, the same for the same values (R125; log
entry 41), but for padding, whose codes stay 0 (R64). -/
def encodeMoments (limit : Nat) (rnd : Nat → Nat) (live : Nat → Bool) (xs : List F32) : BitVec 16 × List Byte × Nat :=
  if xs.any nonfinite32 then
    (Config.openScale limit xs, (List.range 128).map (fun i => if live i then Config.openCode limit xs i else 0), 0)
  else stateEncode limit rnd xs

/-- What the update of a block gives: its new bytes, Q_W, Q_D and Q_G, non-finite values, clamped codes, changed W16 codes
(R121, R386, R388). -/
structure PressBlock where
  bytes : List Byte
  qw : F32
  qd : F32
  qg : F32
  bad : Nat
  clamped : Nat
  changed : Nat

/-- The update of a state block (R62, R63, R386 to R388). rnd is the random value of an element index (R55, R56). -/
def updateBlock (o : Policy) (t : StepState) (lr : F32) (rnd : Nat → Nat) (live : Nat → Bool) (gs : List F32) (block : List Byte) :
    PressBlock :=
  let sa := words16 ((block.drop 8192).take 32)
  let sb := words16 ((block.drop 8224).take 32)
  let ws := words16 (block.take 4096)
  let qs := ((block.drop 4096).take 2048).zip ((block.drop 6144).take 2048)
  let ins := ((gs.zip ws).zip qs).zipIdx.map (fun (x : ((F32 × BitVec 16) × (Byte × Byte)) × Nat) =>
    ({ live := live x.2, g := x.1.1.1, m := m8aDecode (sa.getD (x.2 / 128) 0) x.1.2.1, r := m8bRoot (sb.getD (x.2 / 128) 0) x.1.2.2,
       w := x.1.1.2 } : PressIn))
  let outs := ins.map (updateOne o t lr)
  let news := outs.zipIdx.map (fun (x : PressOut × Nat) => to16 bf16Fmt (.sr (rnd x.2)) (num32 x.1.w1))
  let part := fun (xs : List F32) (b : Nat) => (xs.drop (128 * b)).take 128
  let as := (List.range 16).map (fun b => encodeMoments 127 (fun i => rnd (0x10000 + 128 * b + i)) (fun i => live (128 * b + i)) (part (outs.map PressOut.m1) b))
  let bs := (List.range 16).map (fun b => encodeMoments 255 (fun i => rnd (0x20000 + 128 * b + i)) (fun i => live (128 * b + i)) (part (outs.map PressOut.r1) b))
  let pairs := (ins.zip outs).zip news
  { bytes := bytes16 news ++ (as.map (fun a => a.2.1)).flatten ++ (bs.map (fun b => b.2.1)).flatten ++ bytes16 (as.map (fun a => a.1)) ++
      bytes16 (bs.map (fun b => b.1))
    qw := rowReduce 1 (ins.map (fun x => if x.live then w16Value x.w else 0))
    qd := rowReduce 1 (pairs.map (fun (x : (PressIn × PressOut) × BitVec 16) =>
      if x.1.1.live then sub32 (w16Value x.2) (w16Value x.1.1.w) else 0))
    qg := rowReduce 1 (outs.map PressOut.gh)
    bad := (pairs.filter (fun (x : (PressIn × PressOut) × BitVec 16) =>
      nonfinite32 x.1.1.g || nonfinite32 x.1.2.m1 || nonfinite32 x.1.2.r1 || nonfinite32 x.1.2.w1 ||
      nonfinite32 (w16Value x.2))).length
    clamped := (as.map (fun a => a.2.2)).foldl (· + ·) 0 + (bs.map (fun b => b.2.2)).foldl (· + ·) 0
    changed := (pairs.filter (fun (x : (PressIn × PressOut) × BitVec 16) => x.1.1.live && x.2 ≠ x.1.1.w)).length }

/-! ### Serve images (R367) -/

/-- The W16 values of a tile in a generation, by stored index. -/
def tileWeights (s : State) (l : Loaded) (g u : Nat) (p : Param) : Tab F32 :=
  (((List.range (tileChunks p.format)).map (fun j =>
    (words16 (trainBytes s (blockAddr s l g u j p.frozen) 4096)).zipIdx.map (fun (x : BitVec 16 × Nat) => (2048 * j + x.2, w16Value x.1)))).flatten).filter
    (fun (x : Nat × F32) => x.2 ≠ 0)

/-- The tile scale of a serve image: 2^x, x = c(a) − P_e (R104, R105, R367). -/
def serveScale (fmt : Byte) (vals : Tab F32) : F32 :=
  if tileScaled fmt then
    let a := finiteAmax vals
    if a.1 = 0 then pow2F 0 else pow2F (clampExp (ceilLog2 a - targetExp (starchTarget fmt)))
  else 0x3F800000

/-- Builds the serve image of a tile in a generation from its W16 values, under RNE (R367). The Press consumes stained values (R278, R279). -/
def buildServe (s : State) (l : Loaded) (g u : Nat) (p : Param) : State :=
  match ctxAt s (trainCtx s) with
  | none => s
  | some x =>
    if x.ending.isSome then s
    else if (List.range (tileChunks p.format)).any (fun j => ctxStained s x (blockAddr s l g u j p.frozen) 4096) then
      consumeStain s { plainReport 0x0303 4 (72 + tilePort s u) 0x23 with ctx := some (trainCtx s) }
    else
      let vals := tileWeights s l g u p
      let scale := serveScale p.format vals
      let e := encodeTile p.format scale (fun _ => .rne) vals
      let t : TileReg := { format := p.format, data := e.data, scales := e.scales, tileScale := scale, orient := false, rows := 0, cols := 0 }
      ctxSplice s (trainCtx s) x (serveAddr s l g u p.frozen) (imageBytes p.format) (imageOfTile t) false

/-! ### The rings (R375 to R377, R421) -/

/-- Ring predecessor and successor of this module. -/
def ringPred (s : State) : Nat := (myIndex s + jobModules s - 1) % jobModules s
def ringSucc (s : State) : Nat := (myIndex s + 1) % jobModules s

/-- Sequence numbers taken in order whose chunk is gone are passed. -/
def passGone : Nat → Port → Port
  | 0, q => q
  | fuel + 1, q =>
    if q.arrival.contains (q.nextSeq, none) then
      passGone fuel { q with nextSeq := q.nextSeq + 1, arrival := q.arrival.filter (fun a => a ≠ (q.nextSeq, none)) }
    else q

/-- The release count of a port: every slot before it is free (R421). -/
def releaseCount (q : Port) : Nat := q.arrival.foldl (fun n a => if a.2.isSome ∧ a.1 < n then a.1 else n) q.nextSeq

/-- Passes what is gone, and writes the release count to the predecessor where it has risen (R421). -/
def advanceRing (s : State) (p : Nat) : State :=
  let s := modPort s p (passGone 256)
  let n := releaseCount (portAt s p)
  if (portAt s p).released < n then emit (modPort s p (fun q => { q with released := n })) (.creditWrite p n) else s

/-- A chunk dropped: counted and recorded (R377). -/
def unexpected (s : State) (p : Nat) (mark : Word) : State :=
  raise (bump s (72 + p) 0x23 (wordFld 0x04C) 1) { plainReport 0x0B04 0 (72 + p) 0x23 with mark := mark }

/-- The step whose record is latched, if any. -/
def latchedStep (s : State) : Option Nat := s.step.record.map (fun r => r.step.toNat)

/-- Whether a training step of this module is under way or voted, and not abandoned. -/
def ringsRun (s : State) : Bool :=
  (commitState s = 2 || commitState s = 3) && !s.step.lost && (match s.step.record with | some r => decide (r.kind = 0) | none => false)

/-- Whether a chunk that arrives on a port's ring is dropped (R377; log entry 42 for a tile whose owner's ring ended before this module). -/
def chunkUnexpected (s : State) (p : Nat) (c : Chunk) : Bool :=
  (match loadedOf s (trainCtx s) with
    | none => true
    | some l => match tileOf l c.tensorId c.tileIndex with
      | none => true
      | some (u, q) => q.frozen || tileChunks q.format ≤ c.number || tilePort s u ≠ p || tileOwner s l u = ringPred s ||
          (s.step.applied.contains (u, c.number) && latchedStep s = some c.step.toNat)) ||
  (match latchedStep s with | some n => decide (c.step.toNat < n) | none => false)

/-- A chunk of a GRAD_CHUNK message (R419). A poisoned one is treated as non-finite in every group, whenever it is added (R279, R426). -/
def towChunk (m : Tow) : Chunk :=
  { tensorId := bitsOf m.key.toNat 15 0, tileIndex := bitsOf m.key.toNat 39 16, number := bitsOf m.key.toNat 48 40, step := m.step, mark := m.mark,
    exps := if m.poison then List.replicate 32 255 else m.body, mants := words16 m.payload }

/-- GRAD_CHUNK: the chunk takes its arrival slot, or is dropped; one of a step that this module has abandoned goes with no fault (R376, R377, R395, R421, R426). A SEQ whose slot still holds a chunk lands
twice in it (R420, R424). -/
def gradChunk (s : State) (m : Tow) : State :=
  let p := m.port.toNat
  receiveTow s 0x01 m (fun s => 1 < jobModules s && ringPort s p && m.src.toNat = ringPred s) (fun s =>
    let q := portAt s p
    let ahead := (m.seq.toNat + 2 ^ 32 - q.released % 2 ^ 32) % 2 ^ 32
    let seq := q.released + ahead
    if 256 ≤ ahead ∨ seq < q.nextSeq ∨ q.arrival.any (fun a => a.1 = seq) then dropTow s m 0x0501
    else
      let s := completeTow s m
      let c := towChunk m
      let now := decide (latchedStep s = some c.step.toNat)
      let s := if m.poison ∧ now then foulGradient s (72 + p) 0x23 m.mark 1 0 else s
      let stale := s.step.lost && now
      if stale then advanceRing (modPort s p (fun q => { q with arrival := q.arrival ++ [(seq, none)] })) p
      else if chunkUnexpected s p c then
        advanceRing (modPort (unexpected s p m.mark) p (fun q => { q with arrival := q.arrival ++ [(seq, none)] })) p
      else modPort s p (fun q => { q with arrival := q.arrival ++ [(seq, some c)] }))

/-- A chunk's tile in the training program, and the address of its block in a generation. -/
def chunkTile (s : State) (c : Chunk) : Option (Loaded × Nat × Param) :=
  (loadedOf s (trainCtx s)).bind (fun l => (tileOf l c.tensorId c.tileIndex).map (fun x => (l, x.1, x.2)))
def chunkBlock (s : State) (g : Nat) (c : Chunk) : Nat :=
  match chunkTile s c with | some (l, u, p) => blockAddr s l g u c.number p.frozen | none => 0

/-- Whether the state block at an address is where the Press takes it: no page of it on its way to the stack tier, and none in the fabric tier whose
promotion the Press has not come to yet; one whose promotion was skipped is read there (R378, R379). -/
def statePresent (s : State) (l : Loaded) (u a : Nat) : Bool :=
  match ctxAt s (trainCtx s) with
  | none => false
  | some x =>
    let reached := (prefetchTiles s l (tilePort s u)).any (fun y => y.1 = u)
    !(List.range ((a + 8255) / 2 ^ 21 - a / 2 ^ 21 + 1)).any (fun i => follows s (trainCtx s) (a / 2 ^ 21 + i)) &&
      (pieces x a 8256).all (fun y => !(y.1.fabric && (y.1.state = 1 || !reached)))

def blockPresentFor (s : State) (c : Chunk) : Bool :=
  match chunkTile s c with | some (l, u, p) => statePresent s l u (blockAddr s l (activeGen s) u c.number p.frozen) | none => false

/-- Chunks of a tile applied in the step. -/
def appliedOf (s : State) (u : Nat) : Nat := (s.step.applied.filter (fun x => x.1 = u)).length

/-- What the Press reads and writes of context memory for a chunk: address, bytes, whether it writes: the block in both generations, its sums, and
with the tile's last chunk the serve image (R367, R386, R388). -/
def pressRanges (s : State) (c : Chunk) : List (Nat × Nat × Bool) :=
  match chunkTile s c with
  | none => []
  | some (l, u, t) =>
    [(blockAddr s l (activeGen s) u c.number false, 8256, false), (blockAddr s l (1 - activeGen s) u c.number false, 8256, true),
     (sumBase s + 12 * (blocksBefore s l u + c.number), 12, true)] ++
    (if appliedOf s u + 1 < tileChunks t.format then [] else [(serveAddr s l (1 - activeGen s) u t.frozen, imageBytes t.format, true)])

/-- Whether the Press can take a chunk: its state is present, and no page that it accesses is away (R281, R379). -/
def chunkReady (s : State) (c : Chunk) : Bool :=
  blockPresentFor s c && (match ctxAt s (trainCtx s) with | some x => (pressRanges s c).all (fun y => !offline s x y.1 y.2.1) | none => false)

/-- A sum is handed to the Press of its port; one whose state is not there yet is late (R379). -/
def handPress (s : State) (p : Nat) (c : Chunk) : State :=
  let s := modPort s p (fun q => { q with press := q.press ++ [c] })
  if blockPresentFor s c then s
  else
    let s := bump s (72 + p) 0x23 (wordFld 0x048) 1
    let s := { s with step := { s.step with late := s.step.late + 1 } }
    if s.step.lateRaised then s
    else raise { s with step := { s.step with lateRaised := true } } { plainReport 0x0B01 0 (72 + p) 0x23 with mark := c.mark }

/-- Sends a chunk to the ring successor (R375, R421, R429). -/
def sendChunk (s : State) (p : Nat) (c : Chunk) : State :=
  let seq := (portAt s p).sent
  let key := c.tensorId + c.tileIndex * 2 ^ 16 + c.number * 2 ^ 40
  let s := sendTow s p 0x01 (ringSucc s) c.step c.mark (BitVec.ofNat 32 seq) (BitVec.ofNat 64 key) c.exps (bytes16 c.mants) (seq % 256)
  modPort s p (fun q => { q with sent := seq + 1 })

/-- A sender's credit: SEQ − credit below 256 (R421). -/
def mayRing (s : State) (p : Nat) : Bool := inService s p && (portAt s p).sent < (portAt s p).credit + 256

/-- What RING_ADD can do with an own contribution: send it, or add it to the partial whose turn it is (R375, R427). -/
def ringReady (s : State) (p : Nat) (c : Chunk) : Bool :=
  match chunkTile s c with
  | none => false
  | some (l, u, _) =>
    let owner := tileOwner s l u
    if owner = ringPred s then mayRing s p
    else
      (match (portAt s p).arrival.find? (fun a => a.1 = (portAt s p).nextSeq) with
        | some (_, some a) => sameChunk a c && some a.step.toNat = latchedStep s
        | _ => false) && (owner = myIndex s || mayRing s p)

/-- RING_ADD: the oldest own contribution that can go on is sent, or added to its partial and sent or handed to the Press (R375, R376). -/
def ringAdd (s : State) (p : Nat) : State :=
  if !ringsRun s then s
  else
    -- a partial whose step has passed is dropped in its turn (R377)
    match (portAt s p).arrival.find? (fun a => a.1 = (portAt s p).nextSeq) with
    | some (n, some a) =>
      if (match latchedStep s with | some k => decide (a.step.toNat < k) | none => false) then
        advanceRing (modPort (unexpected s p a.mark) p (fun q => { q with arrival := q.arrival.map (fun x => if x.1 = n then (n, none) else x) })) p
      else goes s p
    | _ => goes s p
where
  goes (s : State) (p : Nat) : State :=
    match (portAt s p).own.find? (ringReady s p) with
    | none => s
    | some c =>
      match chunkTile s c with
      | none => s
      | some (l, u, _) =>
        let s := modPort s p (fun q => { q with own := q.own.erase c })
        if tileOwner s l u = ringPred s then sendChunk s p c
        else match (portAt s p).arrival.find? (fun a => a.1 = (portAt s p).nextSeq) with
          | some (n, some a) =>
            let r := addChunks a c
            let s := bump s (72 + p) 0x22 (wordFld 0x048) (badGroups r.1)
            let s := foulGradient s (72 + p) 0x22 r.1.mark (badGroups r.1) r.2
            if tileOwner s l u = myIndex s then
              -- the arrival slot stays in use until the Press has applied the chunk (R379)
              handPress (modPort s p (fun q => { q with nextSeq := n + 1 })) p r.1
            else
              advanceRing (sendChunk (modPort s p (fun q => { q with arrival := q.arrival.map (fun x => if x.1 = n then (n, none) else x) })) p r.1) p
          | _ => s

/-- RING_CREDIT_WRITE: the successor's release count; the largest seen is kept (R421). -/
def ringCredit (s : State) (p n : Nat) : State :=
  if inService s p then modPort s p (fun q => { q with credit := max q.credit n }) else s

/-! ### The Mangle (R373, R374) -/

/-- The digest term of a chunk (R374). -/
def chunkDigest (c : Chunk) : BitVec 256 :=
  sha256 (leBytes 4 c.step.toNat ++ leBytes 2 c.tensorId ++ leBytes 4 c.tileIndex ++ leBytes 2 c.number ++ c.exps ++ bytes16 c.mants)

/-- The first chunk complete at a tree's top, in order of arrival: its operands, the right one none where the Mangle takes it as it is. -/
def topChunk (w : Nat) : List Node → List Node → Option (Node × Option Node)
  | _, [] => none
  | seen, n :: r =>
    let d := roundsOf w
    if n.level = ownLevel ∨ (d = 0 ∧ n.level = 0) then some (n, none)
    else if n.level + 1 = d then
      match seen.find? (fun a => a.level = n.level ∧ a.index = 1 - n.index ∧ sameChunk a.chunk n.chunk) with
      | some a => if n.index = 1 then some (a, some n) else some (n, some a)
      | none => topChunk w (seen ++ [n]) r
    else topChunk w (seen ++ [n]) r

/-- MANGLE_CHUNK: sum, check, drop, digest, forward (R373 to R376, R400, R401). -/
def mangleChunk (s : State) (p : Nat) : State :=
  let w := layoutWidth s s.step.ctx
  let q := portAt s p
  let replay := match s.step.record with | some r => decide (r.kind = 2) | none => false
  let running := (commitState s = 2 || commitState s = 6) && !s.step.lost
  let alone := jobModules s = 1
  if !running ∨ (!replay ∧ !alone ∧ 64 ≤ q.own.length) then s
  else match topChunk w [] q.nodes with
    | none => s
    | some (a, b) =>
      let ns := if a.level = ownLevel then [] else [a] ++ b.toList
      if operandsHeld s w ns (72 + p) then s
      else match operandsLost s p w ns (72 + p) with
      | some t => t
      | none =>
      let r := match b with | some b => addChunks a.chunk b.chunk | none => (a.chunk, 0)
      let c : Chunk := { r.1 with step := currentStep s }
      let s := modPort s p (fun q => { q with nodes := match b with | some b => (q.nodes.erase a).erase b | none => q.nodes.erase a })
      let s := bump (bump s (72 + p) 0x22 (wordFld 0x048) (badGroups c)) (72 + p) 0x22 (wordFld 0x04C) r.2
      let s := foulGradient s (72 + p) 0x22 c.mark (badGroups c) r.2
      match (loadedOf s s.step.ctx).bind (fun l => tileOf l c.tensorId c.tileIndex) with
      | none => s
      | some (u, t) =>
        let s := { s with step := { s.step with emitted := tAdd s.step.emitted u 1 } }
        if t.frozen then bump s (72 + p) 0x22 (wordFld 0x044) 1
        else
          let s := bump s (72 + p) 0x22 (wordFld 0x040) 1
          let s := modPort s p (fun q => { q with digest := q.digest + chunkDigest c })
          if replay then s
          else if alone then handPress s p c
          else modPort s p (fun q => { q with own := q.own ++ [c] })

/-- Every Mangle has forwarded its last chunk: no chunk is left in a tree, and each non-frozen tile has come whole (R391). -/
def manglesDone (s : State) : Bool :=
  s.ports.all (fun x => x.2.nodes = []) &&
    (match loadedOf s s.step.ctx with
      | none => true
      | some l => (allTiles l).all (fun (x : Nat × Param × Nat) => x.2.1.frozen || tGet 0 s.step.emitted x.1 = tileChunks x.2.1.format))

/-! ### The Press (R386 to R388) -/

/-- The applied chunk leaves the Press, and its arrival slot is free (R379, R421). -/
def releaseChunk (s : State) (p : Nat) (c : Chunk) : State :=
  advanceRing (modPort s p (fun q => { q with
    press := q.press.erase c
    arrival := q.arrival.filter (fun a => !(a.1 < q.nextSeq && (match a.2 with | some b => sameChunk b c | none => false))) })) p

/-- The tile's last chunk is in: its serve image in the alternate generation is built, and the prefetch goes on (R367, R378). -/
def tileApplied (s : State) (p : Nat) (l : Loaded) (u : Nat) (t : Param) : State :=
  if appliedOf s u < tileChunks t.format then s
  else
    let s := buildServe s l (1 - activeGen s) u t
    prefetch { s with step := { s.step with tilesDone := addOnce s.step.tilesDone u } } l p

/-- The table of block sums holds 12 bytes a block, Q_W, Q_D, Q_G, in shard block order (R388; log entry 43). -/
def storeSums (s : State) (l : Loaded) (u j : Nat) (b : PressBlock) : State :=
  trainStore { s with step := { s.step with sums := tIns s.step.sums (u * 4096 + j) (b.qw, b.qd, b.qg) } }
    (sumBase s + 12 * (blocksBefore s l u + j)) (leBytes 4 b.qw.toNat ++ leBytes 4 b.qd.toNat ++ leBytes 4 b.qg.toNat)

/-- One chunk applied to its block (R377, R386 to R388). -/
def applyChunk (s : State) (p : Nat) (c : Chunk) (l : Loaded) (u : Nat) (t : Param) (r : StepRec) (x : Ctx) : State :=
  let a := blockAddr s l (activeGen s) u c.number false
  if ctxStained s x a 8256 then
    consumeStain s { plainReport 0x0303 4 (72 + p) 0x23 with ctx := some (trainCtx s), mark := c.mark }
  else
    let g := BitVec.ofNat 24 (c.tileIndex * tileChunks t.format + c.number)
    let rnd := fun (e : Nat) => srBits x.seed r.step (BitVec.ofNat 16 c.tensorId) g e
    let b := updateBlock l.policy s.step r.lr rnd (fun i => liveElement t c.tileIndex (2048 * c.number + i)) (decodeChunk c)
      (trainBytes s a 8256)
    let s := trainStore s (blockAddr s l (1 - activeGen s) u c.number false) b.bytes
    let s := bump (bump (bump s (72 + p) 0x23 (wordFld 0x044) 1) (72 + p) 0x23 (wordFld 0x050) b.bad) (72 + p) 0x23 (wordFld 0x058) b.clamped
    let s := if b.bad = 0 then s else raise s { plainReport 0x0203 5 (72 + p) 0x23 with ctx := some (trainCtx s), mark := c.mark }
    let old := tGet (0, 0) s.step.changed c.tensorId
    let live := ((List.range 2048).filter (fun i => liveElement t c.tileIndex (2048 * c.number + i))).length
    let s := { s with step := { s.step with
      applied := s.step.applied ++ [(u, c.number)]
      changed := tIns s.step.changed c.tensorId (old.1 + b.changed, old.2 + live) } }
    tileApplied (releaseChunk (storeSums s l u c.number b) p c) p l u t

/-- PRESS_APPLY: the Press of a port applies its oldest chunk whose state is present, once the host has given back what it holds of the lines (R379,
R386, R411). -/
def pressApply (s : State) (p : Nat) : State :=
  if !ringsRun s then s
  else match (portAt s p).press.find? (chunkReady s), s.step.record, ctxAt s (trainCtx s) with
    | some c, some r, some x =>
      if x.ending.isSome then s
      else match chunkTile s c with
        | some (l, u, t) =>
          let lines := fun (w : Bool) => ((pressRanges s c).filter (fun y => y.2.2 = w)).flatMap (fun y => hostLines s (trainCtx s) y.1 y.2.1 w)
          if s.step.applied.contains (u, c.number) then releaseChunk (unexpected s p c.mark) p c
          else if lines false ≠ [] ∨ lines true ≠ [] then askHost (askHost s (lines false) false) (lines true) true
          else applyChunk s p c l u t r x
        | none => s
    | _, _, _ => s

/-! ### Group chains and the ratio test (R121 to R123, R388) -/

/-- The non-frozen owned tiles of a group, ascending. -/
def groupTiles (s : State) (l : Loaded) (g : Nat) : List (Nat × Param × Nat) :=
  (ownedTiles s l).filter (fun (x : Nat × Param × Nat) => x.2.1.group = g && !x.2.1.frozen)

/-- A chain over the block results of a group in ascending block order (R388). -/
def groupChain (s : State) (l : Loaded) (g : Nat) (f : F32 × F32 × F32 → F32) : F32 :=
  (groupTiles s l g).foldl (fun a x => (List.range (tileChunks x.2.1.format)).foldl (fun a j =>
    add32 a (f (tGet (0, 0, 0) s.step.sums (x.1 * 4096 + j)))) a) 0

/-- Whether a group passes the watch (R122): each product rounded once (log entry 44). -/
def ratioOk (lo hi qw qd : F32) : Bool :=
  let sq := fun (b : F32) => to32 .rne (mulNum (mulNum (num32 b) (num32 b)) (num32 qw))
  (isZero32 lo || !flt32 qd (sq lo)) && !flt32 (sq hi) qd

/-- GROUP_CHAIN_END: a group's last block is in; the ratio test (R122, R123, R388). -/
def groupChainEnd (s : State) (g : Nat) : State :=
  match loadedOf s (trainCtx s) with
  | none => s
  | some l =>
    let tiles := groupTiles s l g
    if !ringsRun s ∨ commitState s ≠ 2 ∨ tiles = [] ∨ s.step.groupsDone.contains g ∨ !tiles.all (fun x => s.step.tilesDone.contains x.1) then s
    else
      let qw := groupChain s l g (fun x => x.1)
      let qd := groupChain s l g (fun x => x.2.1)
      let s := { s with step := { s.step with
        groupsDone := addOnce s.step.groupsDone g
        norms := tIns s.step.norms g (groupChain s l g (fun x => x.2.2)) } }
      let band := l.policy.bands.getD g (0, 0x7F800000)
      if s.step.foul ∨ s.step.warmup ≤ l.policy.ratioWarmup ∨ isZero32 qw ∨ ratioOk band.1 band.2 qw qd then s
      else raise s { plainReport 0x0211 6 (72 + (ringPorts s).headD 0) 0x23 with ctx := some (trainCtx s), detail := g }

/-! ### The rows -/

/-- The port of a GRAD_EMIT is absent: F1 or F3 on P2 (R192). -/
def execGradEmit (h : Hdr) (o : GradOps) (s : State) : Answer :=
  .next (engineCmd (.gradEmit h o) h (!portPresent s o.port.toNat) (.stream 0) 3 (gradEmitBody o) s)
def execGradChunk (m : Tow) (s : State) : Answer := .next (gradChunk s m)
def execRingAdd (port : BitVec 2) (s : State) : Answer := .next (ringAdd s port.toNat)
def execRingCreditWrite (port : BitVec 2) (count : Dword) (s : State) : Answer := .next (ringCredit s port.toNat count.toNat)
def execReductionCombine (port : BitVec 2) (level index : Nat) (s : State) : Answer := .next (combineNodes s port.toNat level index)
def execMangleChunk (port : BitVec 2) (s : State) : Answer := .next (mangleChunk s port.toNat)
def execPressApply (port : BitVec 2) (s : State) : Answer := .next (pressApply s port.toNat)
def execGroupChainEnd (group : Byte) (s : State) : Answer := .next (groupChainEnd s group.toNat)

end Sys2Proof.Machine
end

