-- ==== Sys2Proof/Machine/Layers.lean ====
section
/-!
DEFINITION. Layers.lean: LAYER with SKIP (R141, R313, R390), STEP_BEGIN's row, EXIT and the end of an interlude (R177, R178, R400), and the
arming of the commit page (R364, R536).
-/
namespace Sys2Proof.Machine

/-- The zero chunks of a skipped layer's non-frozen tiles, which each Mangle emits itself (R390). -/
def skipChunks (s : State) (l : Loaded) (layer : Nat) (mark : Word) : State :=
  ((allTiles l).filter (fun (x : Nat × Param × Nat) => x.2.1.layer = layer && !x.2.1.frozen)).foldl (fun s x =>
    modPort s (tilePort s x.1) (fun q => { q with nodes := q.nodes ++ (List.range (tileChunks x.2.1.format)).map (fun j =>
      { level := ownLevel
        index := 0
        chunk := { tensorId := x.2.1.tensorId, tileIndex := x.2.2, number := j, step := currentStep s, mark := mark,
                   exps := List.replicate 32 0, mants := List.replicate 2048 0 } }) })) s

/-- One core's SKIP of a layer; the last core's discards its tiles and, backward, gives it a zero gradient (R313, R390). -/
def skipLayer (s : State) (u : Issue) (l : Loaded) (layer dir : Nat) (mark : Word) : State :=
  let key := dir * 65536 + layer
  let cores := addOnce (tGet [] s.step.skipped key) u.core
  let s := { s with step := { s.step with skipped := tIns s.step.skipped key cores } }
  if cores.length < l.width then s
  else
    let s := discardLayer s u.ctx l layer dir
    if dir = 1 ∧ (commitState s = 2 ∨ commitState s = 6) then skipChunks s l layer mark else s

/-- LAYER: the next layer and direction of the step's sequence, MOD 0 forward, 1 backward, 2 and 3 the same with SKIP (R141). -/
def layerBody (id : BitVec 16) (direction : Byte) : Body := fun h s u =>
  if 3 < direction.toNat then refused s u h 0x0109 0x11
  else match loadedOf s u.ctx with
    | none => refused s u h 0x0109 0x11
    | some l =>
      let n := match (coreAt s u.site).layerPos with | none => 0 | some k => k + 1
      let dir := direction.toNat % 2
      if layerAt l (commitState s = 5) n ≠ some (id.toNat, dir) then refused s u h 0x0109 0x11
      else
        let s := modCore s u.site (fun c => { c with layerPos := some n })
        if 2 ≤ direction.toNat then (skipLayer s u l id.toNat dir h.mark, .done) else (s, .done)

/-- The end of an interlude: its result, IDLE, and the forward schedule again (R369, R398 to R400). -/
def endInterlude (s : State) : State :=
  let s := { s with step := { s.step with contribution := contribution s (currentStep s) } }
  restartFeeders (setCommitState (reportOutcome s 4) 1)

/-- A core of the step's layout has ended its entry function (R391, R400). -/
def coreExits (s : State) (u : Issue) : State :=
  let inStep := (commitState s = 2 || commitState s = 5 || commitState s = 6) && s.step.ctx = u.ctx && s.step.begun.contains u.core
  if !inStep || (threadAt s u.site u.t).code.isSome then s
  else
    let s := { s with step := { s.step with ended := addOnce s.step.ended u.core } }
    if commitState s = 5 ∧ (List.range (layoutWidth s u.ctx)).all s.step.ended.contains then endInterlude s else s

/-- EXIT: ends the code object; inside an unfinished call, or with none under way, it is CALL_DEPTH (R177, R178). -/
def exitBody : Body := fun h s u =>
  match (threadAt s u.site u.t).rets.getLast? with
  | none => refused s u h 0x0112 0x11
  | some r => if r.isEnter then (coreExits (leaveCode s u r) u, .done) else refused s u h 0x0112 0x11

def execLayer (h : Hdr) (id : BitVec 16) (direction : Byte) (s : State) : Answer :=
  .next (threadCmd (.layer h id direction) h false (layerBody id direction) s)
def execExitCmd (h : Hdr) (s : State) : Answer := .next (threadCmd (.exitCmd h) h false exitBody s)
def execStepArm (s : State) : Answer := .next (hostWrite s 76 0x29 stepArm)
def execStepDisarm (s : State) : Answer := .next (hostWrite s 76 0x29 stepDisarm)

end Sys2Proof.Machine
end

