-- ==== Sys2Proof/Machine/Feeders.lean ====
section
/-!
DEFINITION. Feeders.lean: the weight-window feeders of the port reaches (R308 to R313, R369), the weight fetch between modules (R368, R421,
R422, R430) and the multicasts (R336 to R338).
-/
namespace Sys2Proof.Machine

/-- The context whose schedule the feeders serve (R369, R448). -/
def feedCtx (s : State) : Nat := if commitState s = 6 then s.step.ctx else trainCtx s

/-- Ring slots of the layout's cores: the same on every one (R309). -/
def ringTiles (s : State) : Nat := match siteOf s 0 with | some site => wwTiles s site | none => 0

/-- Schedule positions a feeder may reach: both passes in a training step or a replay, the forward schedule otherwise (R308, R369). -/
def feedLimit (s : State) (l : Loaded) : Nat :=
  if commitState s = 2 ∨ commitState s = 3 ∨ commitState s = 6 then 2 * scheduleTotal l else scheduleTotal l

/-- The next schedule position of feeder p from n on: n mod 4 = p, no tile kept at the turn, none of a skipped layer (R310, R312, R313). -/
def nextPosition (s : State) (l : Loaded) (p n : Nat) : Option Nat :=
  ((List.range (feedLimit s l)).drop n).find? (fun k => k % 4 = p ∧ !keptAt s l (ringTiles s) k ∧ !posSkipped s l k)

/-- The port a feeder fetches through, and its landing slots: first and count (R422). -/
def feederPort (s : State) (p : Nat) : Nat := if evenOnly s then p / 2 * 2 else p
def landingSlots (s : State) (p : Nat) : Nat × Nat := if evenOnly s then (256 + p % 2 * 256, 256) else (256, 512)

/-- The lowest run of n landing slots of a feeder that no fetch holds (R421, R430). -/
def freeLanding (s : State) (p n : Nat) : Option Nat :=
  let (first, count) := landingSlots s p
  ((List.range (count + 1 - n)).map (fun i => first + i)).find? (fun f =>
    (portAt s p).fetches.all (fun x => x.parts = 0 || f + n ≤ x.first || x.first + x.parts ≤ f))

/-- Whether feeder p may fetch: its reach answers, its module feeds in this state, and a ring stands (R323, R369). -/
def mayFeed (s : State) (p : Nat) : Bool :=
  reachUp s (72 + p) && commitState s ≠ 0 && commitState s ≠ 4 && !(portAt s p).feedStopped && ringTiles s ≠ 0

/-- The serve image of a tile that this module owns, and its stained rows of 128 bytes. -/
def serveImage (s : State) (l : Loaded) (u : Nat) (t : Param) : Mem × List Nat :=
  match ctxAt s (trainCtx s) with
  | some x =>
    let a := serveAddr s l (activeGen s) u t.frozen
    (ctxSlice s x a (imageBytes t.format),
      if ctxStained s x a (imageBytes t.format) then (List.range (imageRows t.format)).filter (fun r => ctxStained s x (a + 128 * r) (min 128 (imageBytes t.format - 128 * r))) else [])
  | none => ([], [])

/-- The lines of a tile's serve image that the host may hold modified (R411). -/
def serveLines (s : State) (l : Loaded) (u : Nat) (t : Param) : List Nat :=
  hostLines s (trainCtx s) (serveAddr s l (activeGen s) u t.frozen) (imageBytes t.format) false

/-- Whether the serve image of a tile stands on a page that is away, or in lines that the host may have modified: its reading waits (R281, R411). -/
def serveAway (s : State) (l : Loaded) (u : Nat) (t : Param) : Bool :=
  serveLines s l u t ≠ [] || (match ctxAt s (trainCtx s) with
  | some x => offline s x (serveAddr s l (activeGen s) u t.frozen) (imageBytes t.format)
  | none => false)

/-- The transaction tag of a message just sent: a weight request goes under the number of its first landing slot, so that a refusal finds its fetch (R425;
log entry 151). -/
def tagLast (s : State) (tag : Nat) : State :=
  { s with outbox := match s.outbox.getLast? with
      | some (.tow m) => s.outbox.dropLast ++ [.tow { m with tag := BitVec.ofNat 16 tag }]
      | _ => s.outbox }

/-- FEEDER_FETCH: the feeder reads its next tile from this module's stacks, or requests it from its owner (R310, R430). -/
def feederFetch (s : State) (p : Nat) : State :=
  if !mayFeed s p then s
  else match loadedOf s (feedCtx s), loadedOf s (trainCtx s) with
    | some l, some own =>
      let q := portAt s p
      let start := match q.fetches.getLast? with | some f => f.pos + 1 | none => q.feedPos
      match (nextPosition s l p start).bind (fun n => (scheduleTile l n).bind (fun x =>
          (globalBase l.params 0 x.1.tensorId).map (fun b => (n, b.1 + x.2, x.1, x.2)))) with
      | none => s
      | some (n, u, t, i) =>
        let f : Fetch := { pos := n, tile := u, first := 0, parts := 0, landed := [], image := [], tensorId := t.tensorId, tileIndex := i,
                           format := t.format, tileScale := 0, stained := [], ready := false }
        if tileOwner s l u = myIndex s then
          if ringTiles s ≤ q.fetches.length ∨ serveAway s own u t then askHost s (serveLines s own u t) false
          else
            let b := serveImage s own u t
            let scale := serveScale t.format (tileWeights s own (activeGen s) u t)
            modPort s p (fun q => { q with fetches := q.fetches ++ [{ f with image := b.1, stained := b.2, tileScale := scale, ready := true }] })
        else
          let parts := (imageBytes t.format + 4095) / 4096
          match (if inService s (feederPort s p) then freeLanding s p parts else none) with
          | none => s
          | some first =>
            let s := sendTow s (feederPort s p) 0x02 (tileOwner s l u) (BitVec.ofNat 32 (genStep s)) 0 0 (BitVec.ofNat 64 u)
              (leBytes 2 first ++ leBytes 2 parts) [] 0xFFFF
            let s := tagLast s first
            modPort s p (fun q => { q with fetches := q.fetches ++ [{ f with first := first, parts := parts }] })
    | _, _ => s

/-! ### Weight requests at the owner (R368, R430) -/

/-- Sends the parts of a tile's serve image to a requester, a part with a stained row poisoned (R276). -/
def serveTile (s : State) (l : Loaded) (m : Tow) (u : Nat) (t : Param) (i : Nat) : State :=
  let b := serveImage s l u t
  let size := imageBytes t.format
  let parts := (size + 4095) / 4096
  let scale := serveScale t.format (tileWeights s l (activeGen s) u t)
  let body := leBytes 2 t.tensorId ++ leBytes 4 i ++ [t.format] ++ leBytes 4 scale.toNat
  let first := leAt m.body 0 2
  let s := completeTow s m
  (List.range parts).foldl (fun s j =>
    sendTowWith (b.2.any (fun r => decide (j * 32 ≤ r) && decide (r < j * 32 + 32))) s m.port.toNat 0x03 m.src.toNat (BitVec.ofNat 32 (genStep s)) 0 0 (BitVec.ofNat 64 (u + j * 2 ^ 24 + parts * 2 ^ 32)) body
      (memBytes b.1 (j * 4096) (min 4096 (size - j * 4096))) (first + j)) s

/-- A weight request that cannot be served (R368, R425). -/
def refuseRequest (s : State) (m : Tow) : State :=
  let p := m.port.toNat
  refuseAccess (emit s (.completion m.tag.toNat 0x0B08 [] false)) p m.tag.toNat 0x0B08 m.mark (jobBase s p (myIndex s) + 0x800000)

/-- A request is served, held or refused (R368). A module that is not primed has no active generation, and holds it (log entry 45); a
tile on a page that is away is held too (R281). -/
def answerRequest (s : State) (m : Tow) : State :=
  let u := bitsOf m.key.toNat 23 0
  match loadedOf s (trainCtx s) with
  | none => refuseRequest s m
  | some l =>
    match globalTile l u with
    | none => refuseRequest s m
    | some (t, i) =>
      if tileOwner s l u ≠ myIndex s then refuseRequest s m
      else if commitState s = 0 ∨ genStep s < m.step.toNat ∨ (genStep s = m.step.toNat ∧ serveAway s l u t) then
        askHost (modPort s m.port.toNat (fun q => { q with heldRequests := q.heldRequests ++ [m] })) (serveLines s l u t) false
      else if genStep s = m.step.toNat then serveTile s l m u t i
      else refuseRequest s m

/-- WEIGHT_REQUEST; one that is held already is a duplicate, whatever its transaction (R424, R427, R430; log entry 151). -/
def weightRequest (s : State) (m : Tow) : State :=
  receiveTow s 0x02 m (fun _ => true) (fun s =>
    if (portAt s m.port.toNat).heldRequests.any (fun r => { r with tag := m.tag } = m) then duplicateTow s m else answerRequest s m)

/-- After a flip or a priming the held requests are looked at again (R368, R393). -/
def serveHeld (s : State) : State :=
  [0, 1, 2, 3].foldl (fun s p =>
    let held := (portAt s p).heldRequests
    if held = [] then s else held.foldl answerRequest (modPort s p (fun q => { q with heldRequests := [] }))) s

/-! ### Weight data at the requester (R424, R426, R427, R430) -/

/-- Whether a part belongs to an outstanding fetch of a feeder. -/
def fetchTakes (m : Tow) (f : Fetch) : Bool :=
  let part := bitsOf m.key.toNat 31 24
  !f.ready && f.parts ≠ 0 && f.tile = bitsOf m.key.toNat 23 0 && f.parts = bitsOf m.key.toNat 39 32 && part < f.parts &&
    m.slot.toNat = f.first + part && !f.landed.contains part

/-- The feeders that fetch through a port. -/
def portFeeders (s : State) (p : Nat) : List Nat := (List.range 4).filter (fun k => feederPort s k = p)

/-- One part lands in its slot; the tile is whole when every part has. -/
def landPart (m : Tow) (f : Fetch) : Fetch :=
  let part := bitsOf m.key.toNat 31 24
  let landed := f.landed ++ [part]
  { f with
    landed := landed
    image := memSplice f.image (part * 4096) m.payload.length (memOf m.payload)
    tensorId := leAt m.body 0 2
    tileIndex := leAt m.body 2 4
    format := BitVec.ofNat 8 (leAt m.body 6 1)
    tileScale := BitVec.ofNat 32 (leAt m.body 7 4)
    stained := if m.poison then f.stained ++ (List.range ((m.payload.length + 127) / 128)).map (fun i => part * 32 + i) else f.stained
    ready := decide (landed.length = f.parts) }

/-- WEIGHT_DATA. -/
def weightData (s : State) (m : Tow) : State :=
  let takes := fun (s : State) => (portFeeders s m.port.toNat).find? (fun k => (portAt s k).fetches.any (fetchTakes m))
  receiveTow s 0x03 m (fun s => (takes s).isSome) (fun s =>
    match takes s with
    | none => s
    | some k => modPort (completeTow s m) k (fun q => { q with fetches := q.fetches.map (fun f => if fetchTakes m f then landPart m f else f) }))

/-! ### The multicast into the weight windows (R309, R310, R337, R338) -/

/-- Whether the ring slot of schedule position n is free on a core (R310 to R312): every earlier tile of the slot has been used there, no tile
kept at the turn stands in it, and no unit that reads it is under way. -/
def slotFree (s : State) (l : Loaded) (n site : Nat) : Bool :=
  let tiles := ringTiles s
  let c := coreAt s site
  let slot := wwSlot s (some l) tiles n
  ((List.range (2 * scheduleTotal l)).all (fun k =>
    k < c.wwPos || posSkipped s l k || wwSlot s (some l) tiles k ≠ slot || (n ≤ k && !(keptAt s l tiles k && wwFed s l tiles k)))) &&
    !(c.wwOut.map Prod.snd).contains slot && !c.wwKept.contains slot

/-- A tile lands in its slot of one core's ring: header row and image, with the image's stained rows (R276, R309). -/
def landTile (s : State) (c : Nat) (f : Fetch) (site : Nat) : State :=
  let key := rowKey site (spBase s c + wwRow s c site f.pos)
  let s := scratchSplice s key 128 (memOf (wwHeader f.tensorId f.tileIndex f.format f.tileScale)) false
  f.stained.foldl (fun s r => stainScratchRange s (key + 128 + 128 * r) 128) (scratchSplice s (key + 128) (imageBytes f.format) f.image false)

/-- The reaches that get a copy by a group's masks from a router on: those with the local bit, along the branches that are up (R336, R360). -/
def maskReaches (s : State) (g : Nat) : Nat → List Nat → List Nat → List Nat
  | 0, _, seen => seen
  | n + 1, last, seen =>
    let next := last.flatMap (fun r => (linksOf r).filterMap (fun l =>
      if bitOf (fld s r 0x03 ⟨0x600 + 4 * g, 4, 0⟩) l.1 ∧ reachUp s l.2 ∧ !seen.contains l.2 then some l.2 else none))
    if next = [] then seen else maskReaches s g n next.eraseDups (seen ++ next.eraseDups)
def groupCopies (s : State) (g src : Nat) : List Nat :=
  (maskReaches s g 80 [src] [src]).filter (fun r => bitOf (fld s r 0x03 ⟨0x600 + 4 * g, 4, 0⟩) 0)

/-- WEIGHT_MULTICAST: a feeder sends its next tile to every core of the layout, when it is whole, its slot is free on all of them and its
group's last packet is acknowledged, and remote DMA has a slot on each (R317, R319); one past its deadline, late MC cycles, is a breach at the feeder
(R310, R311, R337). The routers copy it by the group's masks; a core that they do not lead to is a target lost (R336, R338). -/
def weightMulticast (s : State) (p late : Nat) : State :=
  match loadedOf s (feedCtx s), (portAt s p).fetches with
  | some l, f :: rest =>
    let sites := (List.range l.width).filterMap (siteOf s)
    if !mayFeed s p ∨ !f.ready ∨ (s.mesh.mcasts.any (fun m => m.group = p)) ∨ !sites.all (slotFree s l f.pos) ∨ !sites.all (fun x => spServed s x 4) ∨ holdSet s (72 + p) then s
    else
      let copies := groupCopies s p (72 + p)
      let got := sites.filter (fun x => copies.contains x)
      let s := got.foldl (fun s site => landTile s (feedCtx s) f site) s
      let s := modPort s p (fun q => { q with fetches := rest, feedPos := f.pos + 1 })
      let s := { s with mesh := { s.mesh with mcasts := s.mesh.mcasts ++ [{ group := p, source := 72 + p, targets := sites, lost := sites.filter (fun x => !copies.contains x) }] } }
      if late = 0 then s else raise s { plainReport 0x0A01 0 (72 + p) 0 with detail := late }
  | _, _ => s

/-- MULTICAST_ACK: the merged acknowledgements of a group reach its source: of the packet's targets, those that the mask names or that were lost while it
was in flight. The source holds the mask (R338). -/
def multicastAck (s : State) (group source mask : Nat) : State :=
  match s.mesh.mcasts.find? (fun m => m.group = group ∧ m.source = source) with
  | none => s
  | some m =>
    let s := { s with mesh := { s.mesh with mcasts := s.mesh.mcasts.erase m } }
    let lost := (List.range 77).filter (fun r => m.targets.contains r && (bitOf mask r || m.lost.contains r))
    match lost.head? with
    | none => s
    | some r =>
      let s := if 72 ≤ source ∧ source < 76 then
          modPort s (source - 72) (fun q => { q with mcastStatus := BitVec.ofNat 77 (lost.foldl (fun n r => n + 2 ^ r) 0) }) else s
      raise s { plainReport 0x0404 1 source 0x03 with detail := r }

def execFeederFetch (port : BitVec 2) (s : State) : Answer := .next (feederFetch s port.toNat)
def execWeightRequest (m : Tow) (s : State) : Answer := .next (weightRequest s m)
def execWeightData (m : Tow) (s : State) : Answer := .next (weightData s m)
def execWeightMulticast (port : BitVec 2) (late : Nat) (s : State) : Answer := .next (weightMulticast s port.toNat late)
def execMulticastAck (group : BitVec 4) (source : BitVec 7) (mask : BitVec 77) (s : State) : Answer :=
  .next (multicastAck s group.toNat source.toNat mask.toNat)

end Sys2Proof.Machine
end

