-- ==== Sys2Proof/Machine/Secure.lean ====
section
/-!
DEFINITION. Secure.lean: securing of state (R455 to R461): plan, slots, rounds, secure writes and window notices (R421, R423, R437).
The places the spec leaves open (window numbers, layout of the parts) are named in log entry 46.
-/
namespace Sys2Proof.Machine

/-! ### Partners and groups (R457) -/

def mirrorPartner (n m : Nat) : Nat := (m + n / 2) % n
/-- The module whose mirror this one holds. -/
def mirrored (n m : Nat) : Nat := (m + n - n / 2) % n
/-- The parity group of a module. -/
def parityGroup (n m : Nat) : Option Nat := if 9 ≤ n ∧ m < n / 8 * 8 then some (m / 8) else none
def parityHolder (n j : Nat) : Nat := (8 * j + 8) % n
/-- The group a module holds. -/
def heldGroup (n m : Nat) : Option Nat := if n < 9 then none else (List.range (n / 8)).find? (fun j => parityHolder n j = m)

/-! ### The secured set (R455, R456) -/

/-- Owned tiles of a module by index. -/
def tilesOwnedBy (s : State) (l : Loaded) (m : Nat) : List (Nat × Param × Nat) := (allTiles l).filter (fun (x : Nat × Param × Nat) => tileOwner s l x.1 = m)

/-- State blocks of a module, in shard block order. -/
def blocksOwnedBy (s : State) (l : Loaded) (m : Nat) : Nat := (tilesOwnedBy s l m).foldl (fun n x => n + tileChunks x.2.1.format) 0

/-- One secured block: its place in shard block order, its tile, entry and chunk. -/
structure SecBlock where
  place : Nat
  u : Nat
  param : Param
  chunk : Nat

/-- The state blocks of this module in shard block order. -/
def securedBlocks (s : State) (l : Loaded) : List SecBlock :=
  (((ownedTiles s l).map (fun (x : Nat × Param × Nat) => (List.range (tileChunks x.2.1.format)).map (fun j => (x.1, x.2.1, j)))).flatten).zipIdx.map
    (fun (y : (Nat × Param × Nat) × Nat) => { place := y.2, u := y.1.1, param := y.1.2.1, chunk := y.1.2.2 })

/-- The tensors under parity: state of the owned part of 256 MiB or more, at most 25 % of its codes changed, in a group (R456). -/
def planParity (s : State) (l : Loaded) (withChanges : Bool) : List Nat :=
  if (parityGroup (jobModules s) (myIndex s)).isNone then []
  else (l.params.filter (fun p =>
    let part := ((ownedTiles s l).filter (fun (x : Nat × Param × Nat) => x.2.1.tensorId = p.tensorId)).foldl (fun n x => n + tileChunks x.2.1.format) 0
    let c := tGet (0, 0) s.step.lastChanged p.tensorId
    decide (2 ^ 28 ≤ part * 8256) && !(withChanges && decide (c.2 < 4 * c.1)))).map Param.tensorId

/-! ### Parts of a slot -/

/-- Bytes of a block's place in a part: a multiple of 128, the unit of OFFSET (R419). -/
def secStride : Nat := 8320
def snapBytes (s : State) (l : Loaded) : Nat := 8192 + blocksOwnedBy s l (myIndex s) * secStride
def mirrorBytes (s : State) (l : Loaded) : Nat := 8192 + blocksOwnedBy s l (mirrored (jobModules s) (myIndex s)) * secStride
/-- State blocks of a module that parity may hold: those of the tensors of which it owns 256 MiB of state or more (R456). A full round's plan only takes
tensors out. -/
def parityBlocksOf (s : State) (l : Loaded) (m : Nat) : Nat :=
  let mine := tilesOwnedBy s l m
  l.params.foldl (fun n p =>
    let k := (mine.filter (fun (x : Nat × Param × Nat) => x.2.1.tensorId = p.tensorId)).foldl (fun n x => n + tileChunks x.2.1.format) 0
    if 2 ^ 28 ≤ k * 8256 then n + k else n) 0
/-- A holder's parity area is as long as the longest of its members' (R457). -/
def parityBytes (s : State) (l : Loaded) : Nat :=
  match heldGroup (jobModules s) (myIndex s) with
  | none => 0
  | some j => 4096 + ((List.range 8).foldl (fun n i => max n (parityBlocksOf s l (8 * j + i))) 0) * secStride

/-- The windows of logical core 0 that securing uses. -/
def mirrorWindow : Nat := 63
def parityWindow (i : Nat) : Nat := 55 + i

/-- The windows this module receives through: window, sender, whether it is a parity window. -/
def secureWindows (s : State) : List (Nat × Nat × Bool) :=
  (if jobModules s = 1 then [] else [(mirrorWindow, mirrored (jobModules s) (myIndex s), false)]) ++
    (match heldGroup (jobModules s) (myIndex s) with
      | none => []
      | some j => (List.range 8).map (fun i => (parityWindow i, 8 * j + i, true)))

/-- The header of a part (R458). -/
def partHeader (x : SecureSlot) : List Byte :=
  leBytes 4 x.genStep ++ leBytes 4 x.round ++ leBytes 4 (boolNat x.isSealed) ++ leBytes 4 0 ++ digestBytes x.verify

/-- The parts of a slot that stand in memory: base and bytes. -/
def slotParts (s : State) (l : Loaded) (x : SecureSlot) : List (Nat × Nat) :=
  [(x.snap, snapBytes s l)] ++ (if jobModules s = 1 then [] else [(x.mirror, mirrorBytes s l)]) ++
    (if (heldGroup (jobModules s) (myIndex s)).isNone then [] else [(x.parity, parityBytes s l)])

def slotD : SecureSlot :=
  { genStep := 0, round := 0, isSealed := false, restorable := false, verify := 0, snap := 0, mirror := 0, parity := 0, keptSnap := [],
    keptMirror := [], keptParity := [], keptStains := [] }
def secSlot (s : State) (e : Nat) : SecureSlot := s.secure.slots.getD e slotD
def setSecSlot (s : State) (e : Nat) (x : SecureSlot) : State := { s with secure := { s.secure with slots := s.secure.slots.set e x } }

/-- Writes the headers of a slot's parts. -/
def writeHeaders (s : State) (l : Loaded) (e : Nat) : State :=
  (slotParts s l (secSlot s e)).foldl (fun s p => trainStore s p.1 (partHeader (secSlot s e))) s

/-! ### Setting up at priming (R456, R458) -/

/-- Allocates one part in the training context, HOME SPARE. -/
def allocPart (s : State) (n : Nat) : Option (State × Nat) :=
  match allocate s (trainCtx s) { size := n, tierSet := 0, home := 2, core := 0, flags := 0, count := 0, entry := 0, list := [] } with
  | .ok r => some r
  | .error _ => none

/-- Allocates the parts of a slot and brings back what an earlier training context left in them, with its stains. -/
def allocSlot (s : State) (l : Loaded) (x : SecureSlot) : Option (State × SecureSlot) :=
  let n := jobModules s
  let back := fun (s : State) (part a size : Nat) (m : Mem) => match ctxAt s (trainCtx s) with
    | some c => stainTrain (if m = [] then s else ctxSplice s (trainCtx s) c a size m false) a ((x.keptStains.filter (fun g => g.1 = part)).map (·.2))
    | none => s
  match allocPart s (snapBytes s l) with
  | none => none
  | some (s, a) =>
    match (if n = 1 then some (s, 0) else allocPart s (mirrorBytes s l)) with
    | none => none
    | some (s, b) =>
      match (if (heldGroup n (myIndex s)).isNone then some (s, 0) else allocPart s (parityBytes s l)) with
      | none => none
      | some (s, c) =>
        let s := back (back (back s 0 a (snapBytes s l) x.keptSnap) 1 b (mirrorBytes s l) x.keptMirror) 2 c (parityBytes s l) x.keptParity
        some (s, { x with snap := a, mirror := b, parity := c, keptSnap := [], keptMirror := [], keptParity := [], keptStains := [] })

/-- The slot of the newest sealed round. -/
def newestSealed (s : State) : Option Nat :=
  let a := secSlot s 0
  let b := secSlot s 1
  if a.isSealed && b.isSealed then (if a.round < b.round then some 1 else some 0)
  else if a.isSealed then some 0 else if b.isSealed then some 1 else none

/-- The slot of the next round: the one that does not hold the newest sealed round (R459). -/
def nextSlot (s : State) : Nat := match newestSealed s with | some e => 1 - e | none => 0

/-- Points a receiving window at the round's slot while it is CLOSED, and opens it (R459). -/
def openSecureWindow (s : State) (l : Loaded) (x : SecureSlot) (w sender : Nat) (parity : Bool) : State :=
  match siteOf s 0 with
  | none => s
  | some site =>
    if windowState s site w ≠ 0 then s
    else
      let base := (if parity then x.parity else x.mirror) + 4096
      let size := (if parity then parityBytes s l else mirrorBytes s l) - 4096
      let set := fun (s : State) (o : Nat) (v : Nat) => setRegWord s site 0x18 (windowOff w + o) (BitVec.ofNat 32 v)
      let s := set (set (set s 0x00 (base % 2 ^ 32)) 0x04 (2 ^ 31 + base / 2 ^ 32)) 0x08 ((size + 127) / 128)
      openWindow (set s 0x0C (sender + (trainCtx s) * 2 ^ 16 + 2 ^ 22)) site w

/-- Opens every receiving window over a slot, its parity area zeroed first where the windows over it are CLOSED and the round is full (R459). -/
def openSecureWindows (s : State) (l : Loaded) (x : SecureSlot) (full : Bool) : State :=
  let closed := match siteOf s 0 with | some site => windowState s site (parityWindow 0) = 0 | none => false
  let s := match heldGroup (jobModules s) (myIndex s), ctxAt s (trainCtx s) with
    | some _, some c => if full && closed then ctxSplice s (trainCtx s) c (x.parity + 4096) (parityBytes s l - 4096) [] false else s
    | _, _ => s
  (secureWindows s).foldl (fun s w => openSecureWindow s l x w.1 w.2.1 w.2.2) s

/-- Whether the training context may open the receiving windows: they are CLOSED, and its quota holds them beside those that it has open (R286, R458). -/
def secureRoom (s : State) : Bool :=
  let needed := secureWindows s
  match siteOf s 0, ctxAt s (trainCtx s) with
  | some site, some x =>
    let held := ((List.range 64).filter (fun v => windowState s site v ≠ 0 ∧ windowCtx s site v = trainCtx s)).length
    needed.all (fun w => decide (windowState s site w.1 = 0)) && decide (needed = [] ∨ held + needed.length ≤ x.windows)
  | _, _ => decide (needed = [])

/-- Sets up both slots, the plan and the receiving windows, over the slot of the first round; none where the quotas cannot hold them (R456, R458; log
entry 46). -/
def setUpSecure (s : State) (l : Loaded) : Option State :=
  if !secureRoom s then none
  else match allocSlot s l (secSlot s 0) with
    | none => none
    | some (s, x) =>
      match allocSlot s l (secSlot s 1) with
      | none => none
      | some (s, y) =>
        let s := { s with secure := { s.secure with slots := [x, y], active := none, uncompleted := 0, sent := 0,
                                                    parityTensors := planParity s l false, planned := true, first := true, mark := 0 } }
        some (openSecureWindows s l (secSlot s (nextSlot s)) true)

/-- What the slots hold stays when the training context ends, with its stains, for RESTORE (R276, R462; log entry 46). -/
def keepSecure (s : State) (c : Nat) : State :=
  match ctxAt s c, loadedOf s c with
  | some x, some l =>
    if c ≠ trainCtx s ∨ !s.secure.planned then s
    else
      let stains := fun (part a n : Nat) => (ctxStains s x a n).map (fun g => (part, g))
      let hasMirror := jobModules s ≠ 1
      let hasParity := (heldGroup (jobModules s) (myIndex s)).isSome
      let keep := fun (y : SecureSlot) => { y with
        keptStains := stains 0 y.snap (snapBytes s l) ++ (if hasMirror then stains 1 y.mirror (mirrorBytes s l) else []) ++
          (if hasParity then stains 2 y.parity (parityBytes s l) else [])
        keptSnap := ctxSlice s x y.snap (snapBytes s l)
        keptMirror := if hasMirror then ctxSlice s x y.mirror (mirrorBytes s l) else []
        keptParity := if hasParity then ctxSlice s x y.parity (parityBytes s l) else [] }
      { s with secure := { s.secure with slots := s.secure.slots.map keep, active := none, uncompleted := 0, planned := false } }
  | _, _ => s

/-! ### A round (R459 to R461) -/

/-- PS_SECURE_STATE: the number of the last round, its slot, and the phase (R535, R524). -/
def setSecureState (s : State) (round slot phase : Nat) : State :=
  irqEvent (setRegWord s 76 0x29 0x06C (BitVec.ofNat 32 (round % 2 ^ 24 * 256 + slot * 16 + phase))) 76 0x29 1
def securePhase (s : State) : Nat := fld s 76 0x29 ⟨0x06C, 2, 0⟩

/-- The ring ports of a module in ascending order, and the port of secured block b (R459). -/
def securePort (s : State) (b : Nat) : Nat := (ringPorts s).getD (b % (ringPorts s).length) 0

/-- Sends one piece of a secure write into a window of another module, by the slot of its group on the port (R421, R423). -/
def sendPiece (s : State) (typ dst w groups port offset block genStep : Nat) (data : List Byte) (poison : Bool) : State :=
  let g := bitsOf groups (8 * port + 7) (8 * port)
  if g = 0xFF then s
  else
    let key := dst * 16384 + w
    let seq := tGet 0 (portAt s port).groupSeq key
    let s := sendTowWith poison s port typ dst (BitVec.ofNat 32 genStep) 0 (BitVec.ofNat 32 seq)
      (BitVec.ofNat 64 (w * 2 ^ 8 + offset / 128 * 2 ^ 16)) (leBytes 2 0 ++ leBytes 4 block) data (g * 8 + 768 + seq % 8)
    let s := modPort s port (fun q => { q with groupSeq := tIns q.groupSeq key (seq + 1) })
    { s with secure := { s.secure with uncompleted := s.secure.uncompleted + 1 } }

/-- Sends bytes into a window from an offset, at most 4,096 a message. -/
def sendPieces (s : State) (typ dst w groups port offset block genStep : Nat) (data : List Byte) (poison : Bool) : State :=
  (List.range ((data.length + 4095) / 4096)).foldl (fun s i =>
    sendPiece s typ dst w groups port (offset + i * 4096) block genStep ((data.drop (i * 4096)).take 4096) poison) s

/-- Whether a range of the training context is stained. -/
def trainStained (s : State) (a n : Nat) : Bool := match ctxAt s (trainCtx s) with | some x => ctxStained s x a n | none => false

/-- The blocks of a part, in order: mirrored ones or parity ones; frozen tiles' only in the first round after priming (R455). -/
def partBlocks (s : State) (l : Loaded) (parity : Bool) : List SecBlock :=
  (securedBlocks s l).filter (fun b => s.secure.parityTensors.contains b.param.tensorId = parity && (!b.param.frozen || s.secure.first))

/-- The place of a block in its part's window. -/
def partOffset (s : State) (l : Loaded) (parity : Bool) (b : SecBlock) : Nat :=
  if parity then
    ((securedBlocks s l).filter (fun c => s.secure.parityTensors.contains c.param.tensorId && decide (c.place < b.place))).length * secStride
  else 4096 + b.place * secStride

/-- Sends one secured block and writes it into SNAP (R459). Data formed from a stained block, of the generation or of SNAP, goes out poisoned
(R276). -/
def sendBlock (l : Loaded) (x : SecureSlot) (full parity : Bool) (dst w groups : Nat) (s : State) (b : SecBlock) : State :=
  let a := blockAddr s l (activeGen s) b.u b.chunk b.param.frozen
  let place := x.snap + 8192 + b.place * secStride
  let block := trainBytes s a 8256
  let old := trainBytes s place 8256
  let stain := trainStained s a 8256
  let poison := stain || (parity && !full && trainStained s place 8256)
  let delta := if full then block else (block.zip old).map (fun (y : Byte × Byte) => y.1 ^^^ y.2)
  let data := if parity then delta else block
  let s := if parity && !poison && delta.all (fun y => y = 0) then s
    else sendPieces s (if parity then 0x09 else 0x08) dst w groups (securePort s b.place) (partOffset s l parity b) b.place x.genStep data poison
  match ctxAt s (trainCtx s) with
  | some c => ctxSplice s (trainCtx s) c place 8256 (memOf block) stain
  | none => s

/-- What the sending of a part accesses of the training context: the generation's header and blocks, read, and their places in SNAP, written. -/
def sendRanges (s : State) (l : Loaded) (x : SecureSlot) (parity : Bool) : List (Nat × Nat × Bool) :=
  (if parity then [] else [(genBase s (activeGen s), 4096, false), (x.snap + 4096, 4096, true)]) ++
    (partBlocks s l parity).flatMap (fun b =>
      [(blockAddr s l (activeGen s) b.u b.chunk b.param.frozen, 8256, false), (x.snap + 8192 + b.place * secStride, 8256, true)])

/-- Sends the part of the round whose window has been noticed and that is not sent yet (R459). A part that meets an offline page, or lines that the host
holds, waits whole (R281, R411; log entry 46). -/
def sendPart (s : State) (parity : Bool) : State :=
  let bit := boolNat parity
  match s.secure.active, loadedOf s (trainCtx s) with
  | some (e, full), some l =>
    if bitOf s.secure.sent bit then s
    else
      let n := jobModules s
      let goal : Option (Nat × Nat) :=
        if parity then (parityGroup n (myIndex s)).map (fun j => (parityHolder n j, parityWindow (myIndex s % 8)))
        else some (mirrorPartner n (myIndex s), mirrorWindow)
      let done := fun (s : State) => { s with secure := { s.secure with sent := s.secure.sent + 2 ^ bit } }
      match goal with
      | none => done s
      | some (dst, w) =>
        match s.secure.noticed.find? (fun x => x.1 = dst ∧ x.2.1 = w * 256) with
        | none => s
        | some (_, _, groups) =>
          let x := secSlot s e
          match rangesWait s (sendRanges s l x parity) with
          | some t => t
          | none =>
            let s := if parity then s
              else
                let head := trainBytes s (genBase s (activeGen s)) 4096
                let stain := trainStained s (genBase s (activeGen s)) 4096
                let s := sendPieces s 0x08 dst w groups (securePort s 0) 0 0xFFFFFFFF x.genStep head stain
                match ctxAt s (trainCtx s) with
                | some c => ctxSplice s (trainCtx s) c (x.snap + 4096) 4096 (memOf head) stain
                | none => s
            done ((partBlocks s l parity).foldl (sendBlock l x full parity dst w groups) s)
  | _, _ => s

/-- The parts of the round that are not sent yet, as far as they can go. -/
def sendParts (s : State) : State := sendPart (sendPart s false) true

/-- PS_SECURE (R457, R459, R461); none is accepted after a fault with effect MODULE (R442; log entry 150). The windows opened at priming stand over the
first round's slot already. -/
def secureStart (s : State) (full : Bool) : State :=
  let e := nextSlot s
  if s.head.stopped then s
  else match loadedOf s (trainCtx s) with
  | none => refuseCommit s 4 0x090D
  | some l =>
    if jobModules s = 1 then refuseCommit s 4 0x090C
    else if !s.secure.planned ∨ commitState s = 0 ∨ fld s 76 0x29 (wordFld 0x060) ≠ genStep s ∨ s.secure.active.isSome ∨
        (!full ∧ !(secSlot s e).isSealed) then refuseCommit s 4 0x090D
    else
      let x := { secSlot s e with genStep := genStep s, round := s.secure.rounds + 1, isSealed := false, restorable := false, verify := 0 }
      let s := setSecSlot s e x
      let s := { s with secure := { s.secure with
        active := some (e, full)
        rounds := s.secure.rounds + 1
        uncompleted := 0
        sent := 0
        mark := s.risk.committed
        frozenIn := if s.secure.first then e else s.secure.frozenIn
        parityTensors := if full then planParity s l true else s.secure.parityTensors } }
      let s := writeHeaders s l e
      let s := setSecureState (openSecureWindows s l x full) s.secure.rounds e 1
      setLast (sendParts s) 4 0

/-- Every secure write this module sent is applied: SENT (R460). A part that waited is sent first. -/
def secureSent (s : State) : State :=
  if s.secure.sent ≠ 3 then sendParts s
  else match s.secure.active with
  | some (e, _) =>
    if securePhase s = 1 then
      setSecureState { s with secure := { s.secure with uncompleted := 0, first := false } } s.secure.rounds e 2
    else s
  | none => s

/-- Closes and drains the receiving windows (R460). -/
def closeSecureWindows (s : State) : State :=
  match siteOf s 0 with
  | none => s
  | some site =>
    (secureWindows s).foldl (fun s w =>
      if windowState s site w.1 = 1 ∧ windowCtx s site w.1 = trainCtx s then drainWindow (closeNotices (setWindowState s site w.1 2) site w.1) site w.1 else s) s

/-- PS_SECURE_SEAL (R460): allowed once the module has reported SENT. -/
def secureSeal (s : State) : State :=
  if s.head.stopped then s
  else match s.secure.active, loadedOf s (trainCtx s) with
  | some (e, _), some l =>
    if securePhase s ≠ 2 then refuseCommit s 5 0x090D
    else
      let s := setSecSlot (closeSecureWindows s) e { secSlot s e with isSealed := true }
      let s := writeHeaders s l e
      let s := { s with
        secure := { s.secure with active := none }
        risk := { s.risk with expected := 0, committed := s.risk.committed - s.secure.mark, dueRaised := false } }
      setLast (setSecureState s s.secure.rounds e 3) 5 0
  | _, _ => refuseCommit s 5 0x090D

/-- A round ends without its seal (R461). -/
def abandonRound (s : State) : State :=
  match s.secure.active with
  | none => s
  | some (e, _) =>
    let s := closeSecureWindows { s with secure := { s.secure with active := none, uncompleted := 0 } }
    raise (setSecureState s s.secure.rounds e 4) (plainReport 0x0909 0 76 0x29)

/-- Whether a page of a slot lies on a stack of a reach (R461). -/
def slotOnReach (s : State) (r : Nat) : Bool :=
  match ctxAt s (trainCtx s), loadedOf s (trainCtx s) with
  | some x, some l => s.secure.slots.any (fun y => (slotParts s l y).any (fun p =>
      (pieces x p.1 p.2).any (fun z => !z.1.fabric && z.1.place / 2 = r)))
  | _, _ => false

/-! ### Secure writes and notices from other modules (R423, R424, R437) -/

/-- The window and sender that a secure slot of a port is bound to. -/
def slotGroup (s : State) (m : Tow) : Option (Nat × Nat × Nat) := tFind (portAt s m.port.toNat).groups ((m.slot.toNat - 768) / 8)

/-- MIRROR_WRITE and PARITY_WRITE: checked as window writes, completed when applied; of a core cut off, unreachable (R283, R284, R331, R421,
R428, R437). -/
def secureWrite (s : State) (typ : Nat) (m : Tow) : State :=
  let k := bitsOf m.key.toNat 6 0
  let w := bitsOf m.key.toNat 13 8
  let o := bitsOf m.key.toNat 47 16 * 128
  receiveTow s typ m (fun s => match slotGroup s m with
      | some (site, v, src) => siteOf s k = some site && v = w && src = m.src.toNat
      | none => false) (fun s =>
    match siteOf s k with
    | none => s
    | some site =>
      match dropAt s (72 + m.port.toNat) site with
      | some r => emit (dropPacket s r) (.completion m.tag.toNat 0x0405 [] false)
      | none => match windowFault s site w o m.payload.length (some m.src.toNat) true with
      | some code =>
        refuseAccess (emit (windowDropped s site w) (.completion m.tag.toNat (BitVec.ofNat 16 code) [] false)) m.port.toNat m.tag.toNat code m.mark
          (jobBase s m.port.toNat (myIndex s) + m.slot.toNat * 0x2000)
      | none =>
        acceptWrite s { port := m.port.toNat, site := site, window := w, offset := o, data := m.payload, poison := m.poison, parity := typ = 0x09,
                        signal := if m.flags = 1 then some (leAt m.body 0 1, leAt m.body 1 1) else none, tag := some m.tag.toNat })

/-- WINDOW_OPEN: the window and its groups are known; a part of the round that waited for it is sent (R423, R459). -/
def windowOpenNotice (s : State) (m : Tow) : State :=
  receiveTow s 0x0C m (fun _ => true) (fun s =>
    let key := bitsOf m.key.toNat 13 0
    let x := (m.src.toNat, key, leAt m.body 5 4)
    if s.secure.noticed.contains x then duplicateTow s m
    else
      let s := completeTow s m
      let s := { s with secure := { s.secure with noticed := s.secure.noticed.filter (fun y => !(y.1 = x.1 ∧ y.2.1 = x.2.1)) ++ [x] } }
      sendParts s)

/-- WINDOW_CLOSE (R282). -/
def windowCloseNotice (s : State) (m : Tow) : State :=
  receiveTow s 0x0D m (fun _ => true) (fun s =>
    let key := bitsOf m.key.toNat 13 0
    let mine := fun (y : Nat × Nat × Nat) => decide (y.1 = m.src.toNat) && decide (y.2.1 = key)
    if s.secure.noticed.any mine then
      completeTow { s with secure := { s.secure with noticed := s.secure.noticed.filter (fun y => !mine y) } } m
    else duplicateTow s m)

def execSecureStart (full : Bool) (s : State) : Answer := .next (hostWrite s 76 0x29 (fun s => secureStart s full))
def execSecureSent (s : State) : Answer := .next (secureSent s)
def execSecureSeal (s : State) : Answer := .next (hostWrite s 76 0x29 secureSeal)
def execMirrorWrite (m : Tow) (s : State) : Answer := .next (secureWrite s 0x08 m)
def execParityWrite (m : Tow) (s : State) : Answer := .next (secureWrite s 0x09 m)
def execWindowOpen (m : Tow) (s : State) : Answer := .next (windowOpenNotice s m)
def execWindowClose (m : Tow) (s : State) : Answer := .next (windowCloseNotice s m)

end Sys2Proof.Machine
end

