-- ==== Sys2Proof/Machine/Commit.lean ====
section
/-!
DEFINITION. Commit.lean: priming (R402), the abandoning of a step (R395, R396), the vote and its outcome (R391 to R393, R431, R432), the
resolution of a withheld step (R394, R433, R449, R450), replays and digests (R436, R448, R463), laggards (R465).
-/
namespace Sys2Proof.Machine

/-! ### Recursive doubling (R431) -/

/-- The module whose value module m takes in round r; none where the sibling block does not exist. -/
def voteSource (n m r : Nat) : Option Nat :=
  let p := m ^^^ 2 ^ r
  if p < n then some p else if p / 2 ^ r * 2 ^ r < n then some (p / 2 ^ r * 2 ^ r) else none

/-- The modules that take module m's value in round r. -/
def voteTargets (n m r : Nat) : List Nat := (List.range n).filter (fun k => voteSource n k r = some m)

/-- Two values combined, the block of the lower indices on the left (R392, R431). -/
def combineVotes (a b : Vote) : Vote :=
  { bits := a.bits ||| b.bits, cause := a.cause ||| b.cause, firstSuspect := min a.firstSuspect b.firstSuspect, norm2 := add32 a.norm2 b.norm2 }

def voteKey (step round src : Nat) : Nat := step * 2 ^ 20 + round * 2 ^ 12 + src
def noVote : Vote := { bits := 0, cause := 0, firstSuspect := 0xFFFF, norm2 := 0 }

/-- Sends this module's current value to the modules that take it in its round. -/
def sendVote (s : State) : State :=
  let v := s.step.vote
  (voteTargets (jobModules s) (myIndex s) s.step.round).foldl (fun s k =>
    sendControl s 0x04 k (currentStep s) s.step.round
      (leBytes 1 v.bits ++ leBytes 1 v.cause ++ leBytes 2 v.firstSuspect ++ leBytes 4 v.norm2.toNat)) s

/-! ### Outcomes (R392, R393, R398, R454, R463) -/

/-- The committed step's digest into the VERIFY of the rounds of the generation before it, of those that are sealed or on their way to their seal: with it,
a sealed round becomes restorable (R463). -/
def writeVerify (s : State) (before : Nat) : State :=
  match loadedOf s (trainCtx s) with
  | none => s
  | some l =>
    (List.range s.secure.slots.length).foldl (fun s e =>
      let x := secSlot s e
      let alive := x.isSealed || (match s.secure.active with | some (a, _) => decide (a = e) | none => false)
      if x.round = 0 ∨ x.restorable ∨ x.genStep ≠ before ∨ !alive then s
      else writeHeaders (setSecSlot s e { x with verify := s.step.contribution, restorable := true }) l e) s

/-- After a decided step: IDLE, its record and entry, the next forward schedule, held requests (R368, R369, R398). -/
def decided (s : State) (outcome : Nat) : State :=
  serveHeld (restartFeeders (reportOutcome (setCommitState { s with withheld := none } 1) outcome))

/-- COMMITTED (R393). -/
def commitStep (s : State) : State :=
  let before := genStep s
  let s := writeVerify (flipGeneration s) before
  decided { s with
    step := { s.step with lastChanged := s.step.changed }
    risk := { s.risk with committed := s.risk.committed + 1 } } 0

/-- Takes up the withheld step again after a replay (R394, R399). -/
def takeWithheld (s : State) : State :=
  match s.withheld with
  | none => s
  | some w => { s with step := { w with
      digests := s.step.digests
      markPending := s.step.markPending
      replayReq := s.step.replayReq
      verifyStep := s.step.verifyStep
      verifyDigest := s.step.verifyDigest
      lastChanged := s.step.lastChanged
      resolution := s.step.resolution
      primeWaits := s.step.primeWaits } }

/-- Sends a digest to a module, or takes it into the table on module 0 itself (R436); the tables of other modules hold only what has come to them, to know a
repeat by (R427; log entry 39). -/
def digestTo (s : State) (dst kind subject : Nat) (step : Word) : State :=
  if dst = myIndex s then
    (if dst = 0 then { s with step := { s.step with digests := tIns s.step.digests (kind * 4096 + subject) s.step.contribution } } else s)
  else sendControl s 0x0B dst step (kind + subject * 2 ^ 16) (digestBytes s.step.contribution)

/-- WITHHELD (R392, R436). -/
def withholdStep (s : State) : State :=
  let s := setCommitState { s with withheld := some s.step } 4
  let s := reportOutcome s 2
  if bitOf s.step.ownVote.bits 1 then digestTo s 0 0 (myIndex s) (currentStep s) else s

/-- The outcome of the combined vote (R392). -/
def takeOutcome (s : State) : State :=
  let v := s.step.vote
  let s := { s with step := { s.step with
    norm2 := v.norm2
    votes := s.step.votes.filter (fun x => x.1 / 2 ^ 20 ≠ (currentStep s).toNat) } }
  if bitOf v.bits 2 || bitOf v.bits 0 then decided s 1
  else if bitOf v.bits 1 then withholdStep s
  else commitStep s

/-- The rounds go on as far as the vote table allows (R431). After VOTE_TIMEOUT the module still passes values on, but only a resolution ends the state
(R397). -/
def runVote : Nat → State → State
  | 0, s => s
  | fuel + 1, s =>
    let n := jobModules s
    let r := s.step.round
    if commitState s ≠ 3 then s
    else if roundsOf n ≤ r then (if s.step.timedOut then s else takeOutcome s)
    else
      let next := fun (v : Vote) => runVote fuel (sendVote { s with step := { s.step with vote := v, round := r + 1 } })
      match voteSource n (myIndex s) r with
      | none => next s.step.vote
      | some src =>
        match tFind s.step.votes (voteKey (currentStep s).toNat r src) with
        | none => s
        | some v => next (if src < myIndex s then combineVotes v s.step.vote else combineVotes s.step.vote v)

/-- The module casts its vote, once (R391, R396). -/
def castVote (s : State) (v : Vote) : State :=
  let s := { s with step := { s.step with
    voted := true
    ownVote := v
    vote := v
    round := 0
    contribution := contribution s (currentStep s) } }
  runVote 14 (sendVote (setCommitState s 3))

/-! ### Abandoning a step (R395, R396) -/

/-- A replay that cannot finish: 0x0906, no digest, and the state it came from (R448). -/
def failReplay (s : State) : State :=
  let s := raise { s with step := { s.step with verifyStep := none } } { plainReport 0x0906 0 76 0x29 with ctx := some s.step.ctx }
  restartFeeders (setCommitState s s.step.back)

/-- The module's own risk at the moment it casts its vote: SUSPECT with CAUSE risk (R454). -/
def riskAtVote (s : State) : State :=
  match loadedOf s (trainCtx s) with
  | some l => if flt32 l.policy.rhoSuspect s.risk.rho then raise s (plainReport 0x0904 6 76 0x29) else s
  | none => s

/-- The module abandons its step: queues halted, rings drained, LOST cast where it has not voted; a replay fails; an interlude's queues
halt (R395, R396, R448). -/
def abandonStep (s : State) (mark : Word) : State :=
  let st := commitState s
  if s.step.lost ∨ ¬(st = 2 ∨ st = 3 ∨ st = 5 ∨ st = 6) then s
  else
    let s := raise s { plainReport 0x0B09 7 76 0x29 with ctx := some s.step.ctx, mark := mark }
    let s := haltContext s s.step.ctx
    let s := [0, 1, 2, 3].foldl (fun s p => advanceRing (drainRing s p) p) s
    let s := if st = 2 then riskAtVote s else s
    let v : Vote :=
      { bits := boolNat s.step.foul + 2 * boolNat s.step.suspect + 4
        cause := s.step.cause
        firstSuspect := if s.step.suspect then myIndex s else 0xFFFF
        norm2 := 0 }
    if st = 5 then s
    else if st = 6 then failReplay s
    else
      let s := { s with step := { s.step with lost := true } }
      if st = 2 then castVote s v else s

/-- A fault whose effect is STEP (R442). -/
def raiseStep (s : State) (f : Report) : State := abandonStep (raise s f) f.mark

/-- Whether a LOST vote for the step in progress waits in the vote table. -/
def lostWaits (s : State) : Bool :=
  commitState s = 2 && s.step.votes.any (fun v => v.1 / 2 ^ 20 = (currentStep s).toNat && bitOf v.2.bits 2)
def heedLost (s : State) : State := if lostWaits s then abandonStep s 0 else s

/-! ### COMMIT_VOTE (R427, R431, R432) -/

/-- Whether a vote is for a step that has passed here. -/
def votePassed (s : State) (step : Nat) : Bool :=
  match s.step.record with
  | none => false
  | some r => step < r.step.toNat || (step = r.step.toNat && r.kind = 0 && commitState s ≠ 2 && commitState s ≠ 3)

/-- COMMIT_VOTE: into the vote table, which holds two steps; a LOST vote ends the step here too (R395, R432). -/
def commitVote (s : State) (m : Tow) : State :=
  receiveTow s 0x04 m (fun _ => true) (fun s =>
    let step := m.step.toNat
    let key := voteKey step (m.key.toNat % 256) m.src.toNat
    let others := ((s.step.votes.map (fun v => v.1 / 2 ^ 20)).filter (fun n => n ≠ step)).eraseDups
    if votePassed s step ∨ (tFind s.step.votes key).isSome ∨ 2 ≤ others.length then duplicateTow s m
    else
      let v : Vote := { bits := leAt m.body 0 1 % 8, cause := leAt m.body 1 1, firstSuspect := leAt m.body 2 2, norm2 := BitVec.ofNat 32 (leAt m.body 4 4) }
      let s := completeTow { s with step := { s.step with votes := tIns s.step.votes key v } } m
      runVote 14 (heedLost s))

/-! ### VOTE_CAST, laggards, VOTE_TIMEOUT (R391, R397, R454, R465) -/

/-- The nearest integer to a fraction, ties to even. -/
def nearestNat (n d : Nat) : Nat :=
  let q := n / max 1 d
  let r := n % max 1 d
  if 2 * r < d then q else if d < 2 * r then q + 1 else q + q % 2

/-- A suggested weight: RNE(w / λ) clamped to 1 to 255. -/
def suggestWeight (w : Nat) (lambda : F32) : Nat :=
  match divNum (.fin false w 1) (num32 lambda) with
  | .fin _ n d => min 255 (max 1 (nearestNat n d))
  | .inf _ => 255
  | .nan => 1

/-- One core's λ judged: its run of lagging steps, and the report after every LAG_STEPS of them (R465; DETAIL's places: log entry 47). -/
def judgeCore (s : State) (l : Loaded) (k : Nat) (lambda : F32) : State :=
  match siteOf s k with
  | none => s
  | some site =>
    if !flt32 (add32 0x3F800000 (div32 (nat32 l.policy.lagBand) (nat32 256))) lambda then modCore s site (fun c => { c with lagRun := 0 })
    else
      let run := (coreAt s site).lagRun + 1
      let s := modCore s site (fun c => { c with lagRun := run })
      let worse := s.step.lagCore.isNone || flt32 s.step.lagMost lambda
      let ratio := match num32 lambda with | .fin _ n d => n * 64 / max 1 d | _ => 255
      let s := if worse then { s with step := { s.step with lagCore := some k, lagRatio := ratio, lagMost := lambda } } else s
      if run % max 1 l.policy.lagSteps ≠ 0 then s
      else
        let n := fld s site 0x01 ⟨0x044, 4, 0⟩
        raise s { plainReport 0x090B 0 site 0 with
          core := some k
          site := some site
          detail := lambda.toNat + n * 2 ^ 32 + suggestWeight (l.weights.getD k 1) lambda * 2 ^ 40 }

/-- The laggard detector at the vote. -/
def judgeLag (s : State) (l : Loaded) (busy : List Nat) : State :=
  let bs := (List.range l.width).map (fun k => busy.getD k 0)
  let med := (sortBy (fun a b => decide (a ≤ b)) bs).getD ((l.width + 1) / 2 - 1) 0
  (List.range l.width).foldl (fun s k => judgeCore s l k (div32 (nat32 (bs.getD k 0)) (nat32 med))) s

/-- As owner, every chunk of the non-frozen tiles is applied, every serve image built and every group tested (R391). -/
def ownerDone (s : State) : Bool :=
  match loadedOf s (trainCtx s) with
  | none => true
  | some l => (ownedTiles s l).all (fun (x : Nat × Param × Nat) =>
      x.2.1.frozen || (s.step.tilesDone.contains x.1 && s.step.groupsDone.contains x.2.1.group))

/-- VOTE_CAST (R391, R454, R460). -/
def voteCast (s : State) (busy : List Nat) : State :=
  if commitState s ≠ 2 ∨ s.step.voted ∨ !layoutEnded s ∨ !manglesDone s ∨ !ownerDone s ∨ s.secure.uncompleted ≠ 0 then s
  else match loadedOf s (trainCtx s) with
    | none => s
    | some l =>
      let s := riskAtVote (judgeLag s l busy)
      castVote s
        { bits := boolNat s.step.foul + 2 * boolNat s.step.suspect
          cause := s.step.cause
          firstSuspect := if s.step.suspect then myIndex s else 0xFFFF
          norm2 := s.step.norms.foldl (fun a x => add32 a x.2) 0 }

/-- VOTE_TIMEOUT (R397). -/
def voteTimeout (s : State) : State :=
  if commitState s = 3 ∧ !s.step.timedOut then
    raise { s with step := { s.step with timedOut := true } } (plainReport 0x0B02 0 76 0x29)
  else s

/-! ### Resolution (R394, R395, R433, R450) -/

/-- The module named with a DISCARD is marked (R450). -/
def markModule (s : State) (suspect : Nat) : State :=
  if suspect ≠ myIndex s then s
  else raise { s with
      tally := { s.tally with marks := s.tally.marks + 1, writes := tAdd s.tally.writes 0 1 }
      step := { s.step with markPending := true } } (plainReport 0x090A 0 76 0x29)

/-- A replay that a resolution overtakes does not finish (log entry 48). -/
def stopReplay (s : State) : State := if commitState s = 6 ∧ s.step.back = 4 then abandonStep s 0 else s

/-- A module in VOTING acts as on COMMITTED by a resolution, before its own combined vote or after VOTE_TIMEOUT. S of R389 is that of the combined vote, or
open where that has not come (R394, R397; log entry 48). -/
def commitVoting (s : State) : State :=
  let s := if roundsOf (jobModules s) ≤ s.step.round then { s with step := { s.step with norm2 := s.step.vote.norm2 } }
    else { s with freeCount := s.freeCount + 1, step := { s.step with norm2 := Config.free32 s.freeCount } }
  commitStep { s with step := { s.step with votes := s.step.votes.filter (fun x => x.1 / 2 ^ 20 ≠ (currentStep s).toNat) } }

/-- A resolution acts on this module: as COMMITTED, or DISCARDED. -/
def resolveHere (s : State) (discard : Bool) (suspect : Nat) : State :=
  let s := stopReplay s
  if discard then
    let s := if commitState s = 4 then takeWithheld s else abandonStep s 0
    markModule (if commitState s = 3 ∨ commitState s = 4 then decided s 3 else s) suspect
  else if commitState s = 4 then commitStep (takeWithheld s)
  else if commitState s = 3 then commitVoting s
  else s

/-- The children of a module in the binomial tree, the largest step first (R433). -/
def treeChildren (n m : Nat) : List Nat :=
  (List.range (roundsOf n)).reverse.filterMap (fun r => if m % 2 ^ (r + 1) = 0 ∧ m + 2 ^ r < n then some (m + 2 ^ r) else none)

def sendResolution (s : State) (step : Word) (discard : Bool) (suspect : Nat) : State :=
  (treeChildren (jobModules s) (myIndex s)).foldl (fun s k => sendControl s 0x05 k step (boolNat discard) (leBytes 2 (if discard then suspect else 0))) s

/-- PS_RESOLVE (R394). -/
def resolve (s : State) (discard : Bool) (suspect : Nat) : State :=
  let st := commitState s
  if s.head.stopped then s
  else if myIndex s ≠ 0 ∨ ¬(st = 4 ∨ (st = 3 ∧ discard)) then refuseCommit s 2 0x0B06
  else setLast (resolveHere (sendResolution s (currentStep s) discard suspect) discard suspect) 2 0

/-- Whether a resolution can act here: the step it names is not decided. -/
def resolvable (s : State) (discard : Bool) : Bool :=
  let st := commitState s
  st = 4 || (st = 6 && s.step.back = 4) || st = 3 || (st = 2 && discard)

/-- COMMIT: a resolution not taken yet is passed on down the tree, and acts here where its step is not decided; a DISCARD of a step that has not begun here
waits for its STEP_BEGIN (R395, R427, R433; log entry 48). -/
def commitMessage (s : State) (m : Tow) : State :=
  receiveTow s 0x05 m (fun _ => true) (fun s =>
    let res := m.key.toNat % 256
    let suspect := leAt m.body 0 2
    if 1 < res then dropTow s m 0x0501
    else if s.step.resolution.map (·.1) = some m.step then duplicateTow s m
    else
      let early := decide (res = 1) && decide ((currentStep s).toNat < m.step.toNat)
      let s := sendResolution (completeTow s m) m.step (res = 1) suspect
      let s := { s with step := { s.step with resolution := some (m.step, suspect, early) } }
      if m.step = currentStep s ∧ resolvable s (res = 1) then resolveHere s (res = 1) suspect else s)

/-- A DISCARD that came before the step it names acts as the step begins here. -/
def heedDiscard (s : State) : State :=
  match s.step.resolution with
  | some (n, suspect, true) =>
    if commitState s = 2 ∧ n = currentStep s then
      resolveHere { s with step := { s.step with resolution := some (n, suspect, false) } } true suspect
    else s
  | _ => s

/-! ### Replays and digests (R436, R448, R449, R463) -/

/-- REPLAY_REQUEST. -/
def replayRequest (s : State) (m : Tow) : State :=
  receiveTow s 0x0A m (fun _ => true) (fun s =>
    let x := (m.step, m.key.toNat % 2 ^ 12)
    if s.step.replayReq = some x then duplicateTow s m
    else completeTow { s with step := { s.step with replayReq := some x } } m)

/-- The verification of a restore failed (R463). -/
def compareVerify (s : State) (d : BitVec 256) : State :=
  if d = s.step.verifyDigest then s else raise s { plainReport 0x0907 2 76 0x29 with ctx := some (trainCtx s) }

/-- Module 0 compares a pair once both are there (R449). -/
def comparePair (s : State) (subject : Nat) : State :=
  match tFind s.step.digests subject, tFind s.step.digests (4096 + subject) with
  | some a, some b => if a = b then s else raise s (plainReport 0x0905 0 76 0x29)
  | _, _ => s

/-- DIGEST (R427, R436, R448, R449). -/
def digestMessage (s : State) (m : Tow) : State :=
  receiveTow s 0x0B m (fun _ => true) (fun s =>
    let kind := m.key.toNat % 256
    let subject := bitsOf m.key.toNat 27 16
    let d := digestOf m.body
    if 1 < kind then dropTow s m 0x0501
    else if tFind s.step.digests (kind * 4096 + subject) = some d then duplicateTow s m
    else
      let s := completeTow s m
      let s := { s with step := { s.step with digests := tIns s.step.digests (kind * 4096 + subject) d } }
      let s := if myIndex s = 0 then comparePair s subject else s
      if kind = 1 ∧ subject = myIndex s ∧ s.step.verifyStep = some m.step then compareVerify s d else s)

/-- The replay's own outcome: its contribution kept, its step record written, the state the replay was asked in taken up again (R398, R436). -/
def replayed (s : State) (r : StepRec) : State :=
  let s := { s with step := { s.step with contribution := contribution s r.step } }
  restartFeeders (setCommitState (reportOutcome s 5) s.step.back)

/-- REPLAY_DONE: its record, its digest sent or compared, and the state it came from (R398, R401, R436, R448). -/
def replayDone (s : State) : State :=
  match s.step.record with
  | none => s
  | some r =>
    if commitState s ≠ 6 ∨ !layoutEnded s ∨ !manglesDone s then s
    else
      let s := replayed s r
      match s.step.replayReq with
      | some (n, suspect) =>
        if n = r.step then
          let s := digestTo s 0 1 suspect r.step
          let s := if myIndex s = 0 then comparePair s suspect else s
          if suspect = 0 then s else digestTo s suspect 1 suspect r.step
        else verifyHere s
      | none => verifyHere s
where
  verifyHere (s : State) : State := compareVerify { s with step := { s.step with verifyStep := none } } s.step.contribution

/-! ### Priming (R402, R453, R458) -/

/-- Whether a generation header keeps R383. -/
def headerOk (b : List Byte) : Bool :=
  let h := parseHeader b
  let unit := fun (x : F32) => !isNan32 x && (decide (x.toNat < 2 ^ 31) || isZero32 x) && !flt32 0x3F800000 x
  h.flags = 1 && unit h.p1 && unit h.p2 && unit h.clip && !isZero32 h.clip && (b.drop 28).all (fun x => x = 0)

/-- The ports of a primed module: sequence numbers begin again, nothing stands in them (R421). -/
def primePort (q : Port) : Port :=
  { q with
    arrival := []
    nextSeq := 0
    released := 0
    sent := 0
    credit := 0
    nodes := []
    own := []
    press := []
    digest := 0 }

/-- The primed module: IDLE, generation A, the feeders' forward schedule, the risk monitor at its prior (R369, R402, R453). -/
def primed (s : State) (l : Loaded) : State :=
  let s := (ownedTiles s l).foldl (fun s (x : Nat × Param × Nat) => buildServe s l 0 x.1 x.2.1) s
  let s := { s with
    ports := s.ports.map (fun x => (x.1, primePort x.2))
    risk := { s.risk with rho := l.policy.rhoPrior, expected := 0, committed := 0, dueRaised := false }
    withheld := none
    step := { s.step with record := none, votes := [], digests := [], warmup := 0, lastChanged := [], replayReq := none, lost := false, resolution := none, primeWaits := false } }
  serveHeld (restartFeeders (setFld (setCommitState s 1) 76 0x29 ⟨0x04C, 0, 0⟩ 0))

/-- What priming accesses of the training context: the header and the blocks of generation A, read, and its serve images, written (R402). -/
def primeRanges (s : State) (l : Loaded) : List (Nat × Nat × Bool) :=
  (genBase s 0, 4096, false) :: (ownedTiles s l).flatMap (fun (y : Nat × Param × Nat) =>
    [(blockAddr s l 0 y.1 0 y.2.1.frozen, tileChunks y.2.1.format * 8256, false), (serveAddr s l 0 y.1 y.2.1.frozen, imageBytes y.2.1.format, true)])

/-- PS_PRIME. Outside UNPRIMED it has no effect (log entry 49). It waits for offline pages and for lines that the host holds (R281, R411). -/
def prime (s : State) : State :=
  if commitState s ≠ 0 ∨ s.head.stopped then s
  else match loadedOf s (trainCtx s), ctxAt s (trainCtx s) with
    | some l, some x =>
      let g := genBase s 0
      let stained := ctxStained s x g 4096 || (ownedTiles s l).any (fun (y : Nat × Param × Nat) =>
        ctxStained s x (blockAddr s l 0 y.1 0 y.2.1.frozen) (tileChunks y.2.1.format * 8256))
      if x.ending.isSome ∨ s.head.shard.isNone then refuseCommit s 3 0x0B0A
      else match rangesWait s (primeRanges s l) with
      | some t => { t with step := { t.step with primeWaits := true } }
      | none =>
      if stained then consumeStain s { plainReport 0x0303 4 76 0x29 with ctx := some (trainCtx s) }
      else if !headerOk (trainBytes s g 4096) then refuseCommit s 3 0x0B0A
      else match setUpSecure s l with
        | none => refuseCommit s 3 0x090C
        | some s => setLast (primed s l) 3 0
    | _, _ => refuseCommit s 3 0x0B0A

/-- The module's own work that waited for a page or a line goes on: a priming, then the parts of a securing round (R281, R411). -/
def resumeWork (s : State) : State :=
  sendParts (if s.step.primeWaits then prime { s with step := { s.step with primeWaits := false } } else s)

/-! ### The rows -/

def execStepBegin (h : Hdr) (s : State) : Answer := .next (heedDiscard (heedLost (threadCmd (.stepBegin h) h false stepBeginBody s)))
def execResolveCommit (s : State) : Answer := .next (hostWrite s 76 0x29 (fun s => resolve s false 0))
def execResolveDiscard (suspect : BitVec 12) (s : State) : Answer := .next (hostWrite s 76 0x29 (fun s => resolve s true suspect.toNat))
def execPrime (s : State) : Answer := .next (hostWrite s 76 0x29 prime)
def execCommitVote (m : Tow) (s : State) : Answer := .next (commitVote s m)
def execCommit (m : Tow) (s : State) : Answer := .next (commitMessage s m)
def execReplayRequest (m : Tow) (s : State) : Answer := .next (replayRequest s m)
def execDigest (m : Tow) (s : State) : Answer := .next (digestMessage s m)
def execVoteCast (busy : List Nat) (s : State) : Answer := .next (voteCast s busy)
def execVoteTimeout (s : State) : Answer := .next (voteTimeout s)
def execReplayDone (s : State) : Answer := .next (replayDone s)

end Sys2Proof.Machine
end

