-- ==== Sys2Proof/Machine/Peg.lean ====
section
/-!
DEFINITION. Peg.lean: pegs and their snapshots (R435, R504 to R507, R526).
-/
namespace Sys2Proof.Machine

/-- Whether a source of PG_CTRL is enabled: 0 pin, 1 host, 2 fault, 3 tow message, 4 keeper. -/
def pegEnabled (s : State) (source : Nat) : Bool := bitOf (fld s 76 0x2B ⟨0x040, 4, 0⟩) source

/-- Snapshots are held. -/
def pegHeld (s : State) : Bool := fld s 76 0x2B ⟨0x050, 31, 31⟩ = 1

/-- The PEG_ID of a peg: its origin's, or the module's next (R505; log entry 50). -/
def takePegId (s : State) (r : PegReq) : Nat × State :=
  match r.remote with
  | some (_, id, _, _) => (id, s)
  | none => ((s.pegCount + 1) % 2 ^ 32, { s with pegCount := (s.pegCount + 1) % 2 ^ 32 })

/-- A peg raised while snapshots are held: counted, its sources and PEG_ID kept (R506). -/
def missPeg (s : State) (r : PegReq) : State :=
  let x := takePegId s r
  setRegWord (bump x.2 76 0x2B (wordFld 0x05C) 1) 76 0x2B 0x060 (BitVec.ofNat 32 (r.sources * 2 ^ 27 + x.1 % 2 ^ 27))

/-- A peg is raised by an enabled source: on its way, or missed (R504, R506). -/
def raisePeg (s : State) (source : Nat) (remote : Option (Nat × Nat × Dword × Nat)) : State :=
  if !pegEnabled s source then s
  else
    let r : PegReq := { sources := 2 ^ source, remote := remote }
    if pegHeld s then missPeg s r else { s with pegs := s.pegs ++ [r] }

/-- The snapshot of one page (R526): every block register, RWS fields in force, nothing cleared. -/
def snapshotPage (s : State) (id : Nat) (r p : Nat) : State :=
  let put := fun (s : State) (o : Nat) (w : Word) => setRegWord s r p o w
  let head := put (put (put (put s 0xC00 (s.now.setWidth 32)) 0xC04 ((s.now >>> (32 : Nat)).setWidth 32)) 0xC08 (BitVec.ofNat 32 s.fine)) 0xC0C
    (BitVec.ofNat 32 id)
  let copy := fun (t : State) (o : Nat) => put t (0xC10 + o) (valueWord s r p o)
  (List.range 252).foldl (fun t i => copy t (4 * i)) head

/-- Every powered reach latches its pages (R505). -/
def snapshotAll (s : State) (id : Nat) : State :=
  ((List.range 77).filter (fun r => reachUp s r)).foldl (fun t r =>
    (pageIndexes.filter (fun p => (blockOf r p).isSome)).foldl (fun t p => snapshotPage t id r p) t) (snapshotPage s id headPage 0)

/-- PEG_LATCH: the oldest raised peg reaches the reaches (R435, R505, R506). -/
def pegLatch (s : State) : State :=
  match s.pegs with
  | [] => s
  | r :: rest =>
    let s := { s with pegs := rest }
    if pegHeld s then missPeg s r
    else
      let x := takePegId s r
      let s := snapshotAll x.2 x.1
      let s := setRegWord (setRegWord s 76 0x2B 0x050 (BitVec.ofNat 32 (2 ^ 31 + r.sources))) 76 0x2B 0x054 (BitVec.ofNat 32 x.1)
      let s := setRegWord s 76 0x2B 0x058 (match r.remote with
        | some (m, _, _, _) => BitVec.ofNat 32 (2 ^ 15 + m % 2 ^ 12)
        | none => BitVec.ofNat 32 (myIndex s % 2 ^ 12))
      let s := emit (irqEvent s 76 0x2B 0) .pegOut
      match r.remote with
      | some (_, _, t, f) => { s with pegOrigin := some (t, f) }
      | none =>
        let s := { s with pegOrigin := none }
        (otherModules s).foldl (fun s k =>
          sendControl s 0x07 k (currentStep s) (x.1 + myIndex s % 2 ^ 12 * 2 ^ 32) (leBytes 8 s.now.toNat ++ leBytes 4 s.fine)) s

/-- Held snapshots are released (R506). -/
def releasePegs (s : State) : State := setRegWord s 76 0x2B 0x050 0

/-- PEG (R427, R435). -/
def pegMessage (s : State) (m : Tow) : State :=
  receiveTow s 0x07 m (fun _ => true) (fun s =>
    let id := m.key.toNat % 2 ^ 32
    let origin := bitsOf m.key.toNat 43 32
    let here := pegHeld s && (regWord s 76 0x2B 0x054).toNat = id && (regWord s 76 0x2B 0x058).toNat = 2 ^ 15 + origin
    let coming := s.pegs.any (fun r => match r.remote with | some (o, i, _, _) => o = origin && i = id | none => false)
    if here || coming then duplicateTow s m
    else raisePeg (completeTow s m) 3 (some (origin, id, BitVec.ofNat 64 (leAt m.body 0 8), leAt m.body 8 4)))

def execPgTrigger (s : State) : Answer := .next (hostWrite s 76 0x2B (fun s => raisePeg s 1 none))
def execPegInEdge (s : State) : Answer := .next (if reachUp s 76 then raisePeg s 0 none else s)
def execPegLatch (s : State) : Answer := .next (pegLatch s)
def execPgRelease (s : State) : Answer := .next (hostWrite s 76 0x2B releasePegs)
def execAutoRelease (s : State) : Answer :=
  .next (if pegHeld s ∧ fld s 76 0x2B ⟨0x040, 31, 16⟩ ≠ 0 then releasePegs s else s)
def execPegMessage (m : Tow) (s : State) : Answer := .next (pegMessage s m)

end Sys2Proof.Machine
end

