-- ==== Sys2Proof/Machine/Fabric.lean ====
section
/-!
DEFINITION. Fabric.lean: the fabric ports' links and service (R405 to R407, R413), job barriers (R434), refusals that come back (R425).
-/
namespace Sys2Proof.Machine

/-! ### Links and service (R407, R413) -/

/-- Whether a trained link keeps MIN_WIDTH and MIN_64GT (R407). -/
def linkKept (s : State) (p : Nat) : Bool :=
  let r := 72 + p
  fld s r 0x20 ⟨0x040, 3, 2⟩ ≤ fld s r 0x20 ⟨0x044, 7, 6⟩ && (fld s r 0x20 ⟨0x040, 1, 1⟩ = 0 || fld s r 0x20 ⟨0x044, 5, 5⟩ = 1)

/-- Whether port p may be in service: its reach answers and is joined to the mesh, link up, IDE active, a PBR ID from the job record, and no
minimum missed (R358, R407, R413). -/
def mayServe (s : State) (p : Nat) : Bool :=
  portPresent s p && reachUp s (72 + p) && reachUp s (attachSite (72 + p)) && fld s (72 + p) 0x20 ⟨0x044, 31, 31⟩ = 1 &&
    fld s (72 + p) 0x20 ⟨0x044, 30, 30⟩ = 1 && (jobPbr s p (myIndex s)).isSome && linkKept s p

/-- A round in progress ends without its seal when a fabric port leaves (R461). -/
def portLeaves (s : State) (p : Nat) : State :=
  abandonRound (raiseStep s (plainReport 0x050A 7 (72 + p) 0x20))

/-- IN_SERVICE follows what it needs; leaving is PORT_DOWN (R413, R524). -/
def updateService (s : State) (p : Nat) : State :=
  let was := inService s p
  let is := mayServe s p
  if was = is then s
  else
    let s := irqEvent (setFld s (72 + p) 0x20 ⟨0x044, 29, 29⟩ (boolNat is)) (72 + p) 0x20 0
    if is then serveHeld (retryWaits s) else portLeaves s p

/-- FABRIC_LINK_TRAINED (R405, R407, R413). -/
def linkTrained (s : State) (p width : Nat) (speed64 ide : Bool) (pbr : Nat) (base : Dword) : State :=
  let r := 72 + p
  if !portPresent s p ∨ !reachUp s r ∨ fld s r 0x20 ⟨0x040, 0, 0⟩ = 0 ∨ 2 < width then s
  else
    let s := setRegWord s r 0x20 0x044 (BitVec.ofNat 32 (2 ^ 31 + boolNat ide * 2 ^ 30 + boolNat (inService s p) * 2 ^ 29 + width * 2 ^ 6 + boolNat speed64 * 2 ^ 5))
    let s := setRegWord s r 0x20 0x048 (BitVec.ofNat 32 (pbr % 2 ^ 12))
    let s := modPort s p (fun q => { q with base := base, untrusted := false })
    let s := if width = 2 ∧ speed64 then s
      else if linkKept s p then raise s (plainReport 0x0509 0 r 0x20)
      else if inService s p then s else raiseStep s (plainReport 0x050A 7 r 0x20)
    updateService s p

/-- A fabric link goes down. -/
def linkDown (s : State) (p : Nat) : State :=
  let r := 72 + p
  if fld s r 0x20 ⟨0x044, 31, 31⟩ = 0 then s
  else updateService (setFld (setFld s r 0x20 ⟨0x044, 31, 31⟩ 0) r 0x20 ⟨0x044, 30, 30⟩ 0) p

/-- An IDE integrity failure on a fabric port: out of service until it retrains and is rekeyed (R413). -/
def ideFailFabric (s : State) (p : Nat) : State :=
  if fld s (72 + p) 0x20 ⟨0x044, 30, 30⟩ = 0 then s
  else updateService (raiseStep (setFld (modPort s p (fun q => { q with untrusted := true })) (72 + p) 0x20 ⟨0x044, 30, 30⟩ 0)
    (plainReport 0x050B 7 (72 + p) 0x20)) p

/-- FP_CTRL.ENABLE written 1: the link trains (R438). -/
def enablePort (s : State) (p : Nat) : State := setFld s (72 + p) 0x20 ⟨0x040, 0, 0⟩ 1

/-! ### Job barriers (R434) -/

/-- BARRIER of a round to (m + 2^r) mod N, from the port of the barrier. -/
def sendBarrier (s : State) (p id r : Nat) : State :=
  sendTow s p 0x06 ((myIndex s + 2 ^ r) % jobModules s) (currentStep s) 0 0 (BitVec.ofNat 64 (id + r * 2 ^ 32)) [] [] 0xFFFF

/-- The rounds of a port's barrier go on: each is sent once the one before it has been received, and the last ends it. -/
def runBarrier (p id : Nat) : Nat → Nat → State → State
  | 0, _, s => s
  | fuel + 1, r, s =>
    if roundsOf (jobModules s) ≤ r then
      msix (modPort s p (fun q => { q with barrierId := none, barrierRounds := q.barrierRounds.filter (fun x => x / 256 ≠ id) })) 64
    else if (portAt s p).barrierRounds.contains (id * 256 + r) then
      runBarrier p id fuel (r + 1) (if r + 1 < roundsOf (jobModules s) then sendBarrier s p id (r + 1) else s)
    else s

/-- A write to FP_BARRIER (R434; log entry 51). -/
def startBarrier (s : State) (p id : Nat) : State :=
  if s.head.stopped then s
  else
  let s := modPort s p (fun q => { q with barrierId := some (BitVec.ofNat 32 id) })
  runBarrier p id 14 0 (if 1 < jobModules s then sendBarrier s p id 0 else s)

/-- The first round of a barrier that has not been received. -/
def barrierAt (s : State) (p id : Nat) : Nat :=
  ((List.range 13).find? (fun r => !(portAt s p).barrierRounds.contains (id * 256 + r))).getD 13

/-- BARRIER: a round of a barrier is received; one that has not started here waits; one taken already, by its step, round and identifier, is a duplicate
(R427, R434; log entry 51). -/
def barrierMessage (s : State) (m : Tow) : State :=
  receiveTow s 0x06 m (fun _ => true) (fun s =>
    let p := m.port.toNat
    let id := m.key.toNat % 2 ^ 32
    let r := bitsOf m.key.toNat 39 32
    let here := barrierAt s p id
    let taken := m.step.toNat * 2 ^ 40 + id * 2 ^ 8 + r
    if (portAt s p).barrierPast.contains taken ∨ (portAt s p).barrierRounds.contains (id * 256 + r) then duplicateTow s m
    else
      let s := modPort (completeTow s m) p (fun q => { q with
        barrierRounds := q.barrierRounds ++ [id * 256 + r]
        barrierPast := q.barrierPast ++ [taken] })
      if (portAt s p).barrierId = some (BitVec.ofNat 32 id) ∧ here = r then
        runBarrier p id 14 r s
      else s)

/-! ### Refusals at the sender (R368, R425) -/

/-- The effect of a refusal at the sender (R446). -/
def refusalEffect (code : Nat) : Nat := if code = 0x0503 ∨ code = 0x0504 ∨ code = 0x0505 then 1 else 0

/-- Whether a unit under way reads or writes the fabric-tier address of a target on a port (R258). -/
def unitCovers (s : State) (p addr : Nat) (x : Ctx) (d : DescImage) (n : Nat) : Bool :=
  d.farKind = 0 && (unitPieces d n).any (fun y => (pieces x (farOf d n + (y.1 : Int)).toNat y.2.2).any (fun z =>
    z.1.fabric && pagePort s z.1 = p && decide ((pteKey z.1 z.2.1) % 2 ^ 64 ≤ addr) && decide (addr < (pteKey z.1 z.2.1) % 2 ^ 64 + z.2.2.2)))

/-- The mark of the command whose access to an address was refused: of the stream unit under way that makes it; 0 where none does (R425; log
entry 153). -/
def issuerMark (s : State) (p addr : Nat) : Word :=
  ((s.cores.flatMap (fun c => c.2.descs.flatMap (fun d => match d.2.image, ctxAt s d.2.ctx with
    | some i, some x => (d.2.flight.filter (fun f => unitCovers s p addr x i f.1)).map (fun f => f.2.1.mark)
    | _, _ => []))).head?).getD 0

/-- A refusal record in the refusal cell of a port: the fault against its mark, or for a plain access against that of the command that issued it; under
GEN_MISMATCH the feeder whose request has the record's tag stops (R368, R425; log entry 151). -/
def refusalRecord (s : State) (p code tag : Nat) (mark : Word) (addr : Nat) : State :=
  if !portPresent s p then s
  else
    let s := bump s (72 + p) 0x20 (wordFld 0x060) 1
    let s := raise s { plainReport code (refusalEffect code) (72 + p) 0x20 with mark := if mark = 0 then issuerMark s p addr else mark }
    if code ≠ 0x0B08 then s
    else (portFeeders s p).foldl (fun s k =>
      if (portAt s k).fetches.any (fun f => !f.ready && f.parts ≠ 0 && f.first = tag) then modPort s k (fun q => { q with feedStopped := true }) else s) s

/-- A Completer Abort with no refusal record (R425). -/
def peerAbort (s : State) (p : Nat) (mark : Word) : State :=
  if !portPresent s p then s
  else raise (bump s (72 + p) 0x20 (wordFld 0x060) 1) { plainReport 0x0507 0 (72 + p) 0x20 with mark := mark }

def execFpBarrier (port : BitVec 2) (id : Word) (s : State) : Answer :=
  .next (hostWrite s (72 + port.toNat) 0x20 (fun s => startBarrier s port.toNat id.toNat))
def execBarrierMessage (m : Tow) (s : State) : Answer := .next (barrierMessage s m)
def execFabricPortEnable (port : BitVec 2) (s : State) : Answer :=
  .next (hostWrite s (72 + port.toNat) 0x20 (fun s => enablePort s port.toNat))
def execFabricLinkTrained (port width : BitVec 2) (speed64 ide : Bool) (pbr : BitVec 12) (base : Dword) (s : State) : Answer :=
  .next (linkTrained s port.toNat width.toNat speed64 ide pbr.toNat base)
def execFabricLinkDown (port : BitVec 2) (s : State) : Answer := .next (linkDown s port.toNat)
def execRefusalRecord (port : BitVec 2) (code : BitVec 16) (tag : BitVec 16) (mark : Word) (addr : Dword) (s : State) : Answer :=
  .next (refusalRecord s port.toNat code.toNat tag.toNat mark addr.toNat)
def execPeerAbort (port : BitVec 2) (_tag : BitVec 16) (mark : Word) (s : State) : Answer := .next (peerAbort s port.toNat mark)

end Sys2Proof.Machine
end

