-- ==== Sys2Proof/Machine/Faults.lean ====
section
/-!
DEFINITION. Faults.lean: the head keeper's handling of fault records (R441 to R445, R470, R471, R473, R492), and the risk monitor (R453).
-/
namespace Sys2Proof.Machine

/-- The 64 bytes of a fault record (R441). -/
def faultBytes (f : FaultRec) : List Byte :=
  let body := leBytes 2 f.code.toNat ++ leBytes 1 f.effect ++ leBytes 1 (f.context.getD 0xFF) ++ leBytes 4 f.mark.toNat ++
    leBytes 4 (f.queue.getD 0xFFFFFFFF) ++ leBytes 1 (f.core.getD 0xFF) ++ leBytes 1 (f.site.getD 0xFF) ++ leBytes 1 f.reach ++
    leBytes 1 f.block ++ leBytes 8 f.timestamp.toNat ++ leBytes 2 f.fine ++ leBytes 2 f.count ++ leBytes 4 f.step.toNat ++
    leBytes 16 f.detail.toNat ++ leBytes 8 f.seq ++ leBytes 4 0
  body ++ leBytes 4 (crc32 body).toNat

/-! ### The tally (R470, R471) -/

def stickySize : Nat := 16384
def faultLogSize : Nat := 851968

/-- Whether a record goes to STICKY too (R471). -/
def isSticky (f : FaultRec) : Bool :=
  f.effect = 4 || f.effect = 7 || f.effect = 8 || [0x0305, 0x0306, 0x0903, 0x0905, 0x0907, 0x090A].contains f.code.toNat

/-- A numbered record enters the tally, and the header takes its SEQ (R443, R471, R473). -/
def logFault (s : State) (f : FaultRec) : State :=
  let t := s.tally
  let l := t.faultLog ++ [f]
  let t := { t with
    faultLog := l.drop (l.length - faultLogSize)
    writes := tAdd (tAdd t.writes 4 1) 0 1 }
  let t := if !isSticky f then t
    else if t.sticky.length < stickySize then { t with sticky := t.sticky ++ [f], writes := tAdd t.writes 2 1 }
    else { t with stickyFull := true }
  { s with tally := t }

/-! ### Host rings (R443, R492) -/

/-- The address of the next record of a ring, its count's address, and its new count. -/
def ringSlot (base log2 written : Nat) : Nat × Nat := (base + 64 * (written % 2 ^ log2), base - 64)

/-- Writes a record to the ring of its context, or to the module ring, and raises its vector (R443; log entry 52). -/
def writeRing (s : State) (f : FaultRec) : State :=
  match f.context.bind (fun c => (ctxAt s c).map (fun x => (c, x))) with
  | some (c, x) =>
    let a := ringSlot x.faultRing x.faultLog2 x.faultWritten
    let s := hostStore (hostStore s a.1 (faultBytes f)) a.2 (leBytes 8 (x.faultWritten + 1))
    msix (setCtx s c { x with faultWritten := x.faultWritten + 1 }) c
  | none =>
    let s := match s.head.ringAddr with
      | some (base, log2) =>
        let a := ringSlot base log2 s.head.ringWritten
        let s := hostStore (hostStore s a.1 (faultBytes f)) a.2 (leBytes 8 (s.head.ringWritten + 1))
        { s with head := { s.head with ringWritten := s.head.ringWritten + 1 } }
      | none => s
    msix s 64

/-- The queues whose halt a record announces: its own under HALT, its context's under CONTEXT (R444, R491). -/
def announced (s : State) (f : FaultRec) : List Nat :=
  match f.effect with
  | 3 => f.queue.toList
  | 4 => (match f.context with | some c => ctxQueues s c | none => [])
  | _ => []

/-- Records held while H0 is down, and how many (R492). -/
def heldMax : Nat := 4096

/-- A record for which there is no more room folds into the aggregate of its code and reach, or opens one (R492). -/
def foldRecord (f : FaultRec) : List FaultRec → List FaultRec
  | [] => [f]
  | g :: r =>
    if g.code = f.code ∧ g.reach = f.reach ∧ g.count < 65535 then
      r ++ [{ f with count := min 65535 (g.count + f.count) }]
    else g :: foldRecord f r

/-- Whether a record can go to its ring: H0 is up, and the ring is named; module records wait for MODULE_RING (R492, R503; log entry 52). -/
def hostRingReady (s : State) (f : FaultRec) : Bool :=
  s.hdm.h0Up && ((f.context.bind (ctxAt s)).isSome || s.head.ringAddr.isSome)

/-- A numbered record on its way to the host. -/
def deliver (s : State) (f : FaultRec) : State :=
  if hostRingReady s f then (announced (writeRing s f) f).foldl showHalt (writeRing s f)
  else
    let w := s.head.waiting
    { s with head := { s.head with waiting := if w.length < heldMax then w ++ [f] else w.take heldMax ++ foldRecord f (w.drop heldMax) } }

/-- Every held record whose ring can take it is written in SEQ order, and halts that no record on its way announces are shown (R444,
R492, R503). -/
def deliverHeld (s : State) : State :=
  let go := sortBy (fun a b => decide (a.seq ≤ b.seq)) (s.head.waiting.filter (hostRingReady s))
  let s := go.foldl writeRing { s with head := { s.head with waiting := s.head.waiting.filter (fun f => !hostRingReady s f) } }
  let coming := ((s.head.inbox ++ s.head.waiting).map (announced s)).flatten
  ((s.queues.filter (fun x => x.2.stopping.isSome && !coming.contains x.1)).map (·.1)).foldl showHalt s

/-- The head keeper numbers a record, logs it, and sends it to the host (R443). -/
def acceptRecord (s : State) (f : FaultRec) : State :=
  let n := s.head.seq + 1
  let s := { s with head := { s.head with seq := n, lastSeq := n } }
  deliver (logFault s { f with seq := n }) { f with seq := n }

/-! ### Counts by second and the risk monitor (R445, R453) -/

/-- The event kind of a code (R453). -/
def riskKind (code : Nat) : Option Nat :=
  match code with
  | 0x0304 => some 0 | 0x0305 => some 1 | 0x0401 => some 2 | 0x0402 => some 3 | 0x0604 => some 3 | 0x0901 => some 4 | 0x0902 => some 4
  | 0x0210 => some 5 | 0x0211 => some 5 | 0x090B => some 6 | 0x0406 => some 8 | 0x0601 => some 8 | 0x0606 => some 8 | 0x0607 => some 8
  | 0x0903 => some 9 | _ => none

def countRisk (s : State) (code : Nat) : State :=
  match riskKind code with
  | some k => { s with risk := { s.risk with counts := tAdd s.risk.counts k 1 } }
  | none => s

/-- The key of a code and reach in the second's counts. -/
def secondKey (f : FaultRec) : Nat := f.code.toNat * 128 + f.reach
def keptPerSecond : Nat := 16

/-- FAULT_RECORD: the oldest record on its way reaches the head keeper, over the towpath from its reach (R443 to R445, R453, R478, R504). -/
def faultRecord (s : State) : State :=
  match s.head.inbox with
  | [] => s
  | f :: rest =>
    let s := countRisk (towpath { s with head := { s.head with inbox := rest } } f.reach) f.code.toNat
    let s := if bitOf (fld s 76 0x2B ⟨0x044, 11, 0⟩) (f.code.toNat / 256) ∧ f.code.toNat / 256 ≠ 0 then raisePeg s 2 none else s
    if f.effect ≠ 0 then acceptRecord s f
    else
      let k := secondKey f
      let n := tGet 0 s.head.secondCount k
      let s := { s with head := { s.head with secondCount := tAdd s.head.secondCount k 1 } }
      if n < keptPerSecond then acceptRecord s f
      else { s with head := { s.head with secondLast := tIns s.head.secondLast k f } }

/-- FAULT_AGGREGATE: one aggregate record for each code and reach with further occurrences (R445). -/
def faultAggregate (s : State) : State :=
  let counts := s.head.secondCount
  let lasts := s.head.secondLast
  let s := { s with head := { s.head with secondCount := [], secondLast := [] } }
  lasts.foldl (fun s x => acceptRecord s { x.2 with count := min 65535 (tGet 0 counts x.1 - keptPerSecond) }) s

/-- Reaches throttled below 16/16 (R453). -/
def throttled (s : State) : Nat := ((List.range 77).filter (fun r => reachUp s r && decide (fld s r 0x01 ⟨0x044, 4, 0⟩ < 16))).length

/-- Σ W[i]·n[i], in ascending i. -/
def weighted (ws : List F32) (n : Nat → Nat) : F32 :=
  ((List.range 10).map (fun i => mul32 (ws.getD i 0) (nat32 (n i)))).tail.foldl add32 (mul32 (ws.getD 0 0) (nat32 (n 0)))

/-- RISK_TICK (R453): every operation rounded under RNE in FP32. Nothing is kept before priming. -/
def riskTick (s : State) : State :=
  let counts := s.risk.counts
  let s := { s with risk := { s.risk with counts := [] } }
  match loadedOf s (trainCtx s) with
  | none => s
  | some l =>
    if commitState s = 0 then s
    else
      let o := l.policy
      let sum := weighted o.weights (fun i => if i = 7 then throttled s else tGet 0 counts i)
      let x := add32 o.rhoFloor (mul32 (nat32 3600) sum)
      let k := sub32 0x3F800000 (exp2Rne (div32 0xBF800000 (nat32 o.halfLife)))
      { s with risk := { s.risk with
          rho := add32 s.risk.rho (mul32 (sub32 x s.risk.rho) k)
          expected := add32 (add32 s.risk.expected (div32 o.rhoFloor (nat32 3600))) sum } }

def execFaultRecord (s : State) : Answer := .next (faultRecord s)
def execFaultAggregate (s : State) : Answer := .next (faultAggregate s)
def execRiskTick (s : State) : Answer := .next (riskTick s)

end Sys2Proof.Machine
end

