-- ==== Sys2Proof/Machine/Hdm.lean ====
section
/-!
DEFINITION. Hdm.lean: the host port: MSI-X (R408), the HDM window (R410 to R412), the H0 link (R405, R407, R413, R492).
-/
namespace Sys2Proof.Machine

/-- The messages of the pending vectors that nothing masks, while H0 is up (R408). -/
def sendPending (s : State) : State :=
  if s.hdm.functionMask ∨ !s.hdm.h0Up then s
  else
    let go := s.hdm.msixPending.filter (fun v => !s.hdm.msixMasked.contains v)
    let s := { s with hdm := { s.hdm with msixPending := s.hdm.msixPending.filter (fun v => s.hdm.msixMasked.contains v) } }
    go.foldl (fun s v => emit s (.msix v)) s

/-- MSIX_UNMASK: the host sets or clears a vector's mask, or the function's; one message goes for any number of events while a vector was masked
(R408; log entry 22). The waiting ROM serves no MSI-X table (R484). -/
def unmask (s : State) (w : MsixWrite) : State :=
  if !s.hdm.h0Up ∨ romWaits s then s
  else match w.vector with
    | none => sendPending { s with hdm := { s.hdm with functionMask := w.mask } }
    | some v =>
      if 64 < v.toNat then s
      else if w.mask then { s with hdm := { s.hdm with msixMasked := addOnce s.hdm.msixMasked v.toNat } }
      else sendPending { s with hdm := { s.hdm with msixMasked := s.hdm.msixMasked.filter (fun x => x ≠ v.toNat) } }

/-! ### The HDM window -/

/-- HP_HDM_CTRL.ENABLE written 1; ignored while HP_HDM_PAGES is 0 (R410, R439). While lines of the window before are still out, decoding by the new
fields begins when they are back (R412). -/
def hdmEnable (s : State) : State :=
  if hdmEnabled s ∨ (hdmFields s).2.2 = 0 ∨ s.head.stopped then s
  else
    let s := setFld s 76 0x20 ⟨0x040, 6, 6⟩ 1
    if s.hdm.draining then s
    else setFld { s with hdm := { s.hdm with window := some (hdmFields s) } } 76 0x20 ⟨0x050, 0, 0⟩ 1

/-- HP_HDM_CTRL.ENABLE written 0 (R412). -/
def hdmDisable (s : State) : State := if hdmEnabled s then hdmStop s else s

/-- The 64 bytes of a line the host gives back are written to the HDM's window (R411). -/
def lineReturned (s : State) (line : Nat) (data : List Byte) : State :=
  match ctxAt s (hdmCtx s) with
  | some x => if data.length = 64 then ctxSplice s (hdmCtx s) x (hdmBase s + line * 64) 64 (memOf data) false else s
  | none => s

/-- A line's answer has come: the filter drops the line, or keeps it as a clean copy (R411, R412). -/
def lineAnswered (s : State) (line : Nat) (inv : Bool) : State :=
  { s with hdm := { s.hdm with
    asked := s.hdm.asked.filter (fun x => x.1 ≠ line)
    filter := if inv then s.hdm.filter.filter (fun x => x.1 ≠ line) else s.hdm.filter.map (fun x => if x.1 = line then (line, false) else x) } }

/-- BACK_INVALIDATE_RESPONSE: the host's data, if it held the line modified; the line leaves the filter, or stays as a clean copy (R411,
R412). -/
def backInvalidate (s : State) (line : Nat) (data : List Byte) : State :=
  match s.hdm.asked.find? (fun x => x.1 = line) with
  | none => s
  | some (_, inv) =>
    let s := lineAnswered (lineReturned s line data) line inv
    resumeWork (retryWaits (if s.hdm.draining ∧ s.hdm.filter = [] then hdmDrained s else s))

/-! ### The H0 link (R492) -/

/-- The H0 link goes down: decoding stops, the filter is cleared with no snoop, and the SPDM connection ends (R492, R499). -/
def h0Down (s : State) : State :=
  if !s.hdm.h0Up then s
  else
    let s := setFld (setRegWord s 76 0x20 0x050 0) 76 0x20 ⟨0x040, 6, 6⟩ 0
    { s with hdm := { s.hdm with
                        filter := []
                        asked := []
                        waiting := []
                        window := none
                        draining := false
                        h0Up := false
                        everIde := false },
                      mgmt := { s.mgmt with signed := none } }

/-- The H0 link trains: x4 or x8, 68-byte flits at 32 GT/s only; held records go to their rings (R405, R407, R484,
R492). -/
def h0Trained (s : State) (width : Nat) (speed64 flit256 ide : Bool) : State :=
  if s.hdm.h0Up ∨ 1 < width ∨ (speed64 ∧ !flit256) ∨ !reachUp s 76 ∨ bootPhase s < 2 then s
  else
    let s := { s with hdm := { s.hdm with h0Up := true, everIde := ide } }
    let s := setRegWord s 76 0x20 0x050 (BitVec.ofNat 32 (2 ^ 31 + boolNat ide * 2 ^ 30 + boolNat flit256 * 2 ^ 29 + width * 2 ^ 6 + boolNat speed64 * 2 ^ 5))
    let s := if width = 1 ∧ speed64 then s else raise s (plainReport 0x0509 0 76 0x20)
    deliverHeld (sendPending s)

/-- IDE_FAIL: a fabric port (0 to 3), or H0 (4), where the host has made IDE active (R413). -/
def ideFail (s : State) (p : Nat) : State :=
  if p < 4 then ideFailFabric s p
  else if p = 4 ∧ s.hdm.everIde ∧ s.hdm.h0Up then h0Down (raise s (plainReport 0x050B 0 76 0x20))
  else s

def execMsixUnmask (w : MsixWrite) (s : State) : Answer := .next (unmask s w)
def execHdmEnable (s : State) : Answer := .next (hostWrite s 76 0x20 hdmEnable)
def execHdmDisable (s : State) : Answer := .next (hostWrite s 76 0x20 hdmDisable)
def execHdmAccess (offset : Nat) (write : Bool) (data : List Byte) (s : State) : Answer := .next (hdmAccess s offset write data)
def execBackInvalidateResponse (line : Nat) (data : List Byte) (s : State) : Answer := .next (backInvalidate s line data)
def execIdeFail (port : BitVec 3) (s : State) : Answer := .next (ideFail s port.toNat)
def execH0LinkDown (s : State) : Answer := .next (h0Down s)
def execH0LinkUp (width : BitVec 2) (speed64 flit256 ide : Bool) (s : State) : Answer := .next (h0Trained s width.toNat speed64 flit256 ide)

end Sys2Proof.Machine
end

