-- ==== Sys2Proof/Machine/Arbiter.lean ====
section
/-!
DEFINITION. Arbiter.lean: the lock arbiters (R346 to R352, R361).
-/
namespace Sys2Proof.Machine

/-- Whether a page is a lock arbiter that is there and runs. -/
def arbThere (s : State) (r p : Nat) : Bool := decide (blockOf r p = some .ab) && blockPresent s r p && reachUp s r

/-- An arbiter at reach reset (R352). -/
def freshArb : Arb := { last := 15, granted := none, counted := [] }
def arbAt (s : State) (r p : Nat) : Arb := tGet freshArb s.mesh.arbs (r * 64 + p)
def setArb (s : State) (r p : Nat) (a : Arb) : State := { s with mesh := { s.mesh with arbs := tIns s.mesh.arbs (r * 64 + p) a } }

def arbPrio (s : State) (r p n : Nat) : Nat := fld s r p ⟨0x400 + 16 * n, 1, 0⟩

/-- The requester granted: the highest PRIO that requests and is not masked, the first after the round-robin point among equals (R347,
R350). -/
def arbWinner (s : State) (r p requests : Nat) : Option Nat :=
  let last := (arbAt s r p).last
  let want := (List.range (arbRequesters p)).filter (fun n => bitOf requests n && !overQuota s r p n)
  let top := (want.map (arbPrio s r p)).foldl max 0
  ((List.range 16).map (fun i => (last + 1 + i) % 16)).find? (fun n => want.contains n && arbPrio s r p n = top)

/-- Inputs and virtual channels that feed a class of a router output: five inputs, two channels each (R328, R346). -/
def classFeeds : Nat := 10

/-- The round-robin pre-selection of a class: of the inputs and channels that want it, the first after the last that transferred (R346). -/
def preSelect (a : Arb) (w : Nat) (feeds : List (Nat × Nat)) : Option Nat :=
  ((List.range classFeeds).map (fun i => (tGet (classFeeds - 1) a.pre w + 1 + i) % classFeeds)).find? (fun n => feeds.contains (w, n))

/-- A grant to requester w and its first transfer: USED, GRANTS, the round-robin points and the masks move with it (R346, R348). -/
def arbTransfer (s : State) (r p w : Nat) (feeds : List (Nat × Nat)) : State :=
  let a := arbAt s r p
  let used := arbUsed s r p w
  let grants := fld s r p (wordFld (0x408 + 16 * w))
  let s := setRegWord s r p 0x048 (BitVec.ofNat 32 (2 ^ 31 + w))
  let s := bump (bump s r p ⟨0x404 + 16 * w, 15, 0⟩ 1) r p (wordFld (0x408 + 16 * w)) 1
  let s := remask s r p
  let fresh := !a.counted.contains w && (arbAt s r p).counted.contains w
  let chosen := preSelect a w feeds
  setArb s r p { arbAt s r p with last := w, granted := some (w, a.last, used, grants, fresh), chosen := chosen, pre := match chosen with | some n => tIns a.pre w n | none => a.pre, preBefore := a.pre }

/-- The masks that stand by quota and use. -/
def showMasks (s : State) (r p : Nat) : State :=
  setFld s r p ⟨0x050, 15, 0⟩ (((List.range (arbRequesters p)).filter (overQuota s r p)).foldl (fun m n => m + 2 ^ n) 0)

/-- ARBITER_WITHDRAWAL: USED, the round-robin point and every mask are as they were; only AB_WITHDRAWALS counts it (R349). -/
def arbiterWithdrawal (s : State) (r p : Nat) : State :=
  if !arbThere s r p then s
  else match (arbAt s r p).granted with
    | none => s
    | some (w, last, used, grants, fresh) =>
      let a := arbAt s r p
      let s := setRegWord (bump s r p (wordFld 0x04C) 1) r p 0x048 0
      let s := setFld s r p ⟨0x404 + 16 * w, 15, 0⟩ used
      let s := setFld s r p (wordFld (0x408 + 16 * w)) (min grants (fld s r p (wordFld (0x408 + 16 * w))))
      let s := if fresh then setFld s r p (wordFld (0x40C + 16 * w)) (fld s r p (wordFld (0x40C + 16 * w)) - 1) else s
      showMasks (setArb s r p { a with
        last := last
        granted := none
        pre := a.preBefore
        chosen := none
        counted := if fresh then a.counted.filter (fun n => n ≠ w) else a.counted }) r p

/-- LOCK_WINDOW_WRAP: every USED is cleared, every mask lifted, and a committed WINDOW takes effect (R350, R351). -/
def windowWrap (s : State) (r p : Nat) : State :=
  if !arbThere s r p then s
  else
    let s := match capturedSet s (windowKey r p) with
      | some set => takeCaptured (uncapture s (windowKey r p)) r p set (fun o => o = 0x040)
      | none => s
    let s := (List.range (arbRequesters p)).foldl (fun s n => setFld s r p ⟨0x404 + 16 * n, 15, 0⟩ 0) s
    let a := arbAt s r p
    showMasks (setArb s r p { a with
      counted := []
      granted := a.granted.map (fun (g : Nat × Nat × Nat × Nat × Bool) => (g.1, g.2.1, 0, g.2.2.2.1, g.2.2.2.2)) }) r p

/-- ARBITER_GRANT: the output is free in this cycle. The grant is by the masks of this cycle; its first transfer, in the next one, counts in the window
of that cycle. A grant covers one packet, or one command of at most 4 KiB (R346 to R348, R350). A withdrawal takes the transfer back. -/
def arbiterGrant (s : State) (r p : Nat) (a : ArbIn) : State :=
  if !arbThere s r p then s
  else
    let wrap := fun (s : State) => if a.wraps then windowWrap s r p else s
    match arbWinner s r p a.requests.toNat with
    | none => wrap (setArb (setRegWord s r p 0x048 0) r p { arbAt s r p with granted := none, chosen := none })
    | some w => arbTransfer (wrap s) r p w a.feeds

def execArbiterGrant (reach : BitVec 7) (page : BitVec 6) (a : ArbIn) (s : State) : Answer :=
  .next (arbiterGrant s reach.toNat page.toNat a)
def execArbiterWithdrawal (reach : BitVec 7) (page : BitVec 6) (s : State) : Answer := .next (arbiterWithdrawal s reach.toNat page.toNat)
def execLockWindowWrap (reach : BitVec 7) (page : BitVec 6) (s : State) : Answer := .next (windowWrap s reach.toNat page.toNat)

end Sys2Proof.Machine
end

