-- ==== Sys2Proof/Machine/Reach.lean ====
section
/-!
DEFINITION. Reach.lean: mesh links and route rebuilds (R327, R329 to R332, R342, R569), reaches that are switched off, lost or back (R280, R281,
R345, R355 to R358, R489), and the keepers (R477, R479).
-/
namespace Sys2Proof.Machine

/-! ### Links (R327, R342, R360) -/

/-- Links or reaches have changed: the keepers rebuild the routes (R332). -/
def markDirty (s : State) : State := { s with mesh := { s.mesh with dirty := true } }

/-- Failed replays of one flit that take a link down (R327). -/
def maxReplays : Nat := 8

/-- Whether a packet's way from a to b by the routes in force goes from router x to router y. -/
def passes (s : State) (x y b : Nat) : Nat → Nat → Bool
  | 0, _ => false
  | n + 1, a =>
    if a = b then false
    else match neighbour a (fld s a 0x03 ⟨0x400 + 4 * b, 2, 0⟩) with
      | some c => (a = x && c = y) || passes s x y b n c
      | none => false

/-- Router r loses its input from direction d. Where that is in the middle of a packet, which is open, it forwards a TAIL with ABORT, and the
destination writes none of the packet: of the window writes on their way, the first that comes over the link (R331, R356; log entry 147). -/
def abortPartial (s : State) (r d : Nat) : State :=
  let x := drawFree s
  if x.1.toNat % 2 = 0 ∨ !reachUp s r then x.2
  else
    let s := raise (bump x.2 r 0x03 (wordFld 0x050) 1) (plainReport 0x0407 0 r 0x03)
    match neighbour r d with
    | none => s
    | some c => match s.mesh.landings.find? (fun l => passes s c r l.site 160 (72 + l.port)) with
      | none => s
      | some l =>
        let s := { s with mesh := { s.mesh with landings := s.mesh.landings.erase l } }
        let s := landingGone s l.site l.window
        match l.tag with | some t => emit s (.completion t 0x0407 [] false) | none => s

/-- A mesh link goes down on both ends (R327). -/
def meshLinkDown (s : State) (r d : Nat) : State :=
  let s := abortPartial (setLink s r d 4) r d
  let s := match neighbour r d with | some c => abortPartial (setLink s c (opposite d) 4) c (opposite d) | none => s
  markDirty (tallyCount { s with mesh := { s.mesh with retries := tDel s.mesh.retries (r * 8 + d) } } 6 (r * 8 + d))

/-- LINK_RETRY: a flit of a link fails its CRC. The sender replays it, or the link goes down after eight failed replays (R327; one flit:
log entry 56). -/
def linkRetry (s : State) (r d seq : Nat) : State :=
  if 76 < r ∨ !reachUp s r ∨ linkState s r d ≠ 1 then s
  else
    let n := match tFind s.mesh.retries (r * 8 + d) with | some (q, n) => if q = seq then n else 0 | none => 0
    if n = maxReplays then raise (meshLinkDown s r d) (plainReport 0x0402 0 r 0x03)
    else
      let s := bump { s with mesh := { s.mesh with retries := tIns s.mesh.retries (r * 8 + d) (seq, n + 1) } } r 0x03 (wordFld 0x048) 1
      raise (tallyCount s 5 (r * 8 + d)) (plainReport 0x0401 0 r 0x03)

/-- ELASTIC_SLIP: the link retrains on both ends, what comes over it waits, and it replays with no loss (R342; `finishTraining`). -/
def elasticSlip (s : State) (r d : Nat) : State :=
  if 76 < r ∨ !reachUp s r ∨ linkState s r d ≠ 1 then s
  else
    let s := raise (setLink s r d 2) (plainReport 0x0604 0 r 0x03)
    match neighbour r d with | some c => if linkState s c (opposite d) = 1 then setLink s c (opposite d) 2 else s | none => s

/-! ### Route rebuilds (R307, R332, R569) -/

/-- HOLD in every router that answers. -/
def setHold (s : State) (v : Nat) : State := (reachesUp s).foldl (fun s r => setFld s r 0x03 ⟨0x040, 0, 0⟩ v) s

/-- ROUTE_REBUILD_START: phases 1 and 2 (R332). -/
def rebuildStart (s : State) : State :=
  if s.mesh.rebuilding ∨ (!s.mesh.dirty ∧ s.mesh.hostCommits = []) then s
  else setHold { s with mesh := { s.mesh with rebuilding := true } } 1

/-- Whether every reach answers and every link is up. -/
def meshWhole (s : State) : Bool :=
  (List.range 77).all (fun r => reachUp s r && (linksOf r).all (fun l => decide (linkState s r l.1 = 1)))

/-! The tables of R330. A way is taken backwards from its destination in four stretches: along the destination's column, along a row to it, along a
column to that row, along a row to that column. The last turn from a column to a row, where the third stretch meets the second, is the one at a
router with VC_SWITCH. -/

/-- The usable links of a core site along its column, or along its row: direction and neighbour, both core sites (R326). -/
def wayOut (s : State) (up : List Nat) (r : Nat) (column : Bool) : List (Nat × Nat) :=
  (linksOf r).filter (fun l => decide (l.2 < 72) && up.contains l.2 && decide (linkState s r l.1 = 1) && (decide (l.1 % 2 = 1) == column))

/-- Adds the sites that reach those already placed by one more link of a stretch, again and again: site, entry. -/
def stretch (s : State) (up : List Nat) (column : Bool) : Nat → List (Nat × Nat) → List (Nat × Nat) → List (Nat × Nat)
  | 0, _, placed => placed
  | n + 1, last, placed =>
    let next := (up.filter (fun r => decide (r < 72) && (placed.all (fun x => x.1 ≠ r)))).filterMap (fun r =>
      ((wayOut s up r column).find? (fun l => last.any (fun x => x.1 = l.2))).map (fun l => (r, l.1)))
    if next = [] then placed else stretch s up column n next (placed ++ next)

/-- The entries toward site t (R330): of each site that has a way, its output, with VC_SWITCH where ways turn from a column into its row. -/
def siteTable (s : State) (up : List Nat) (t : Nat) : List (Nat × Nat) :=
  if !up.contains t then []
  else
    let a := stretch s up true 8 [(t, 0)] [(t, 0)]
    let b := stretch s up false 9 a a
    let c := stretch s up true 8 b b
    let d := stretch s up false 9 c c
    let turns := (c.drop b.length).filterMap (fun x => neighbour x.1 x.2)
    d.map (fun x => (x.1, if (b.drop a.length).any (fun y => y.1 = x.1) ∧ turns.contains x.1 then x.2 + 8 else x.2))

/-- Whether a table's way from a to site t arrives over usable links, its turns as R330 wants them: axis 0 none yet, 1 a row, 2 a column. -/
def wayOk (s : State) (up : List Nat) (table : Nat → Nat) (t : Nat) : Nat → Nat → Nat → Bool → Bool
  | 0, _, _, _ => false
  | n + 1, a, axis, turned =>
    if a = t then true
    else
      let e := table a
      match (wayOut s up a (decide (e % 8 % 2 = 1))).find? (fun l => l.1 = e % 8) with
      | none => false
      | some (d, c) =>
        let now := if d % 2 = 1 then 2 else 1
        let back := decide (axis = 2) && decide (now = 1)
        let down := decide (axis = 1) && decide (now = 2)
        if (back && (turned || e < 8)) || (down && decide (8 ≤ e)) then false else wayOk s up table t n c now (turned || back)

/-- The entries of the core sites toward site t: those that the keepers choose, where each site that has a way has one by them, or else those of
`siteTable` (R330, R332; log entry 54). -/
def chosenTable (s : State) (up : List Nat) (t : Nat) : List (Nat × Nat) :=
  let own := siteTable s up t
  let choice := fun (r : Nat) => if r = t then 0 else Config.keeperRoute up r t % 16
  if own.all (fun x => wayOk s up choice t 160 x.1 0 false) then own.map (fun x => (x.1, choice x.1)) else own

/-- The route entry of router r to destination d: VC_SWITCH · 8 + OUT (R329, R330, R564), from the entries toward d's site. An edge reach is entered
and left through its attachment site alone. -/
def routeEntry (s : State) (up : List Nat) (table : List (Nat × Nat)) (r d : Nat) : Nat :=
  let linked := fun (e : Nat) => up.contains e && up.contains (attachSite e) && decide (linkState s (attachSite e) (attachPort e) = 1)
  let site := if 72 ≤ r then attachSite r else r
  if r = d then 0
  else if !up.contains d ∨ (72 ≤ d ∧ !linked d) ∨ (72 ≤ r ∧ !linked r) ∨ table.all (fun x => x.1 ≠ site) then 7
  else if 72 ≤ r then opposite (attachPort r)
  else if 72 ≤ d ∧ r = attachSite d then attachPort d
  else ((table.find? (fun x => x.1 = r)).map (fun x => x.2)).getD 7

/-- The multicast groups that sources hold: the feeders of reaches 72 to 75, barrier release, reduction results, keeper broadcasts (R336; which
number each has: log entry 54). -/
def groupSource (s : State) (g : Nat) : Option Nat := if g < 4 then some (72 + g) else if g < 6 then barrierRoot s else if g = 6 then some 76 else none

/-- Whether a group has a copy for a reach: every good core's; for keeper broadcasts every reach's. -/
def groupTarget (s : State) (g r : Nat) : Bool := if g = 6 then decide (r ≠ 76) else decide (r < 72) && siteGood s r

/-- The reaches that a group's tree may join, by their distance from its source, nearest first. -/
def layersFrom (s : State) (up : List Nat) : Nat → List (List Nat) → List (List Nat)
  | 0, ls => ls
  | n + 1, ls =>
    let seen := ls.flatten
    let last := ls.getLastD []
    let next := up.filter (fun r => !seen.contains r && last.any (fun q => (linksOf q).any (fun l => l.2 = r && decide (linkState s q l.1 = 1))))
    if next = [] then ls else layersFrom s up n (ls ++ [next])

/-- The branches of a group's tree: reach, the router it takes its copy from, and that router's direction to it. Which of several nearer routers that
is, the keepers choose (R336; log entry 54). -/
def groupTree (s : State) (up : List Nat) (g src : Nat) : List (Nat × Nat × Nat) :=
  let layers := layersFrom s (up.filter (fun r => decide (r < 72) || r = src || g = 6)) 80 [[src]]
  (layers.zip layers.tail).flatMap (fun x => x.2.filterMap (fun r =>
    let from' := x.1.flatMap (fun q => (linksOf q).filterMap (fun l => if l.2 = r ∧ linkState s q l.1 = 1 then some (q, l.1) else none))
    (from'[Config.groupParent up g r % from'.length]?).map (fun y => (r, y.1, y.2))))

/-- OUT_MASK of a router: a copy for itself where it is a target, and one for each branch that takes its copy from it. -/
def groupMask (s : State) (g : Nat) (tree : List (Nat × Nat × Nat)) (r : Nat) : Nat :=
  boolNat (groupTarget s g r && tree.any (fun x => x.1 = r)) + ((tree.filter (fun x => x.2.1 = r)).map (fun x => 2 ^ x.2.2)).foldl (· + ·) 0

/-- A committed mesh word: its shadow and the word in force (R332). -/
def commitMesh (s : State) (r o v : Nat) : State := setRegWord (setShadowWord s r 0x03 o (BitVec.ofNat 32 v)) r 0x03 o (BitVec.ofNat 32 v)

/-- The keepers' new tables and multicast masks, loaded over the towpath into the shadow of every router that answers, and committed: X-then-Y while
nothing is down (R329, R332, R478; log entry 54). -/
def keeperTables (s : State) : State :=
  let whole := meshWhole s
  let up := reachesUp s
  let tables := (List.range 72).map (fun t => if whole then [] else chosenTable s up t)
  let trees := (List.range 16).map (fun g => match groupSource s g with | some src => groupTree s up g src | none => [])
  up.foldl (fun a r =>
    let a := (List.range 77).foldl (fun a d =>
      commitMesh a r (0x400 + 4 * d) (if whole then xyRoute r d else routeEntry s up (tables.getD (if 72 ≤ d then attachSite d else d) []) r d)) (towpath a r)
    (List.range 16).foldl (fun a g => commitMesh a r (0x600 + 4 * g) (groupMask s g (trees.getD g []) r)) a) s

/-- A stream is revoked, once: from then on it is best effort (R307). -/
def revokeStream (s : State) (site d : Nat) : State :=
  let x := tGet freshDesc (coreAt s site).descs d
  let s := modCore s site (fun c => { c with descs := tIns c.descs d { x with revoked := true } })
  raise s { plainReport 0x0A05 0 site 0x16 with ctx := some x.ctx, core := logicalOf s site, site := some site }

/-- The admitted streams that no rule has revoked, as site and descriptor. -/
def admitted (s : State) : List (Nat × Nat) :=
  (s.cores.map (fun k => (k.2.descs.filter (fun d => decide (d.2.state = 2) && !d.2.revoked)).map (fun d => (k.1, d.1)))).flatten

/-- Whether the reservations of an admitted stream can be made on the routes in force. -/
def reservable (s : State) (site d : Nat) : Bool :=
  let x := tGet freshDesc (coreAt s site).descs d
  match x.image with
  | none => true
  | some i =>
    let u : Issue := { q := 0, ctx := x.ctx, core := (logicalOf s site).getD 0, site := site, t := 0, home := site }
    routed s u i && (admissionTest s u (regWord s site 0x17 0x044).toNat d i i.bufCount).1 = 0

/-- The reservations of every admitted stream are remade (R307). -/
def remakeStreams (s : State) : State :=
  (admitted s).foldl (fun s x => if reservable s x.1 x.2 then s else revokeStream s x.1 x.2) s

/-- The route entries and masks that the host committed to a mesh page (R569). -/
def hostTable (s : State) (r : Nat) : State :=
  match capturedSet s (r * 64 + 3) with
  | some set => setFld (takeCaptured (uncapture s (r * 64 + 3)) r 0x03 set (fun _ => true)) r 0x03 ⟨0x024, 1, 1⟩ 0
  | none => s

/-- ROUTE_DRAIN_DONE: phases 3 and 4, after which what the hold kept back goes on. The host's tables alone leave no record; the keepers' replace them (R332, R569). -/
def drainDone (s : State) : State :=
  if !s.mesh.rebuilding then s
  else
    let keepers := s.mesh.dirty
    let s := s.mesh.hostCommits.foldl hostTable s
    let s := { s with mesh := { s.mesh with rebuilding := false, dirty := false, hostCommits := [] } }
    let s := if keepers then raise (keeperTables s) (plainReport 0x0403 0 76 0) else s
    retryWaits (setHold (remakeStreams s) 0)

/-! ### A reach goes (R280, R281, R355, R356, R358) -/

/-- What a reach loses with its power: its core, its scratchpad, its port (R489). What is on its way into its windows has drained into them before a
planned switch-off; else it is dropped, counted, and its source told; a multicast under way names the reach in its mask (R331, R338, R355,
R356). -/
def dropReach (s : State) (r : Nat) (planned : Bool) : State :=
  let core := coreAt s r
  let s := if r < 72 then setCore s r { freshCore with passed := core.passed } else s
  let gone := s.mesh.landings.filter (fun l => l.site = r)
  let s := if planned then s else gone.foldl (fun s l => match dropAt s (72 + l.port) r with | some x => dropPacket s x | none => s) s
  let s := { s with
    store := { s.store with
      scratch := s.store.scratch.filter (fun c => c.1 / 2 ^ 28 ≠ r)
      stainScratch := s.store.stainScratch.filter (fun g => g * 128 / 2 ^ 28 ≠ r) }
    mesh := { s.mesh with
      landings := s.mesh.landings.filter (fun l => l.site ≠ r)
      mcasts := s.mesh.mcasts.map (fun m => if !planned ∧ m.targets.contains r then { m with lost := addOnce m.lost r } else m) }
    ports := if 72 ≤ r then tDel s.ports (r - 72) else s.ports }
  gone.foldl (fun s l => match l.tag with | some t => emit s (.completion t (if planned then 0 else 0x0405) [] false) | none => s) s

/-- The fabric ports that a reach takes with it: its own leaves service; one whose attachment site it is is cut off (R358, R413). -/
def cutPorts (s : State) (r : Nat) : State :=
  [0, 1, 2, 3].foldl (fun s p =>
    if 72 + p = r then updateService s p
    else if attachSite (72 + p) = r ∧ reachUp s (72 + p) then
      updateService (raiseStep s { plainReport 0x0406 7 76 0 with site := some r }) p
    else s) s

/-- What a reach is off for, with PW_STATE (R538): 1 heat, 2 PLL, 3 its keeper, 4 supply, 5 the reference clock. A keeper's sake has no code (log entry 57). -/
def markOff (s : State) (r cause : Nat) : State :=
  let was := fld s r 0x02 ⟨0x048, 2, 0⟩
  let code := if cause = 1 then 2 else if cause = 2 ∨ cause = 5 then 3 else if cause = 4 then 4 else was
  let s := setFld s r 0x02 ⟨0x048, 2, 0⟩ code
  let s := if code = was then s else irqEvent s r 0x02 0
  { s with power := { s.power with
      up := if r = 76 then s.power.up else s.power.up.filter (fun x => x ≠ r)
      off := tIns s.power.off r cause } }

/-- The neighbours see a planned switch-off (R355). -/
def plannedNotices (s : State) (r : Nat) : State :=
  (linksOf r).foldl (fun s l =>
    if reachUp s l.2 then raise (setLink s l.2 (opposite l.1) 3) (plainReport 0x0603 0 l.2 0x03) else s) (towpath s r)

/-- The streams of pages that have gone offline are revoked (R281, R307). -/
def revokeOffline (s : State) : State :=
  (admitted s).foldl (fun s y =>
    let x := tGet freshDesc (coreAt s y.1).descs y.2
    let dead := match ctxAt s x.ctx with
      | some c => x.pins.any (fun p => match tFind c.pt p with | some e => decide (e.state = 3) | none => false)
      | none => false
    if dead then revokeStream s y.1 y.2 else s) s

/-- A reach is switched off under R355; notice is false where its own logic stops it (R554). The head reach keeps its keeper and towpath,
and its H0 link goes down. The fault that switches it off is raised by the caller. -/
def switchOff (s : State) (r cause : Nat) (notice : Bool) : State :=
  let s := if notice then plannedNotices s r else s
  let s := offlinePages s r
  let s := markOff (tallyCount s 7 r) r cause
  let s := revokeOffline s
  let s := if r = 76 then h0Down s else cutPorts (dropReach s r true) r
  let s := if slotOnReach s r then abandonRound s else s
  abandonStep (markDirty s) 0

/-- PLANNED_OFF: a planned-off notice, for heat, for a lost PLL lock, or at the keeper's request, which raises no fault (R345, R355, R489, R552; log
entry 57). -/
def plannedOff (s : State) (r : Nat) (why : OffCause) : State :=
  if 75 < r ∨ !reachUp s r then s
  else match why with
    | .heat => switchOff (raise (tallyCount s 3 r) (plainReport 0x0606 7 r 0x02)) r 1 true
    | .pll => switchOff (raise s (plainReport 0x0601 7 r 0x01)) r 2 true
    | .request => switchOff s r 3 true

/-- PLL_UNLOCK: the reach is taken off as for heat (R345). -/
def pllUnlock (s : State) (r : Nat) : State :=
  if 76 < r ∨ !reachUp s r ∨ tFind s.power.off r ≠ none then s
  else
    let s := setFld (bump s r 0x01 (wordFld 0x058) 1) r 0x01 ⟨0x044, 31, 31⟩ 0
    switchOff (raise s (plainReport 0x0601 7 r 0x01)) r 2 true

/-- CLOCK_LOSS: a neighbour sees the forwarded clock lost with no notice (R356). -/
def clockLoss (s : State) (r d : Nat) : State :=
  if 76 < r ∨ !reachUp s r ∨ (linkState s r d ≠ 1 ∧ linkState s r d ≠ 2) then s
  else
    let s := raise (raise (setLink s r d 4) (plainReport 0x0602 0 r 0x03)) (plainReport 0x0402 0 r 0x03)
    let s := abortPartial s r d
    markDirty (tallyCount s 6 (r * 8 + d))

/-- The head reach is cut off: the loss is reported over the management interface, and no further work is accepted (R358). -/
def headCutOff (s : State) : State :=
  let s := raise s (plainReport 0x0406 8 76 0)
  if s.mgmt.i3c.isSome then emit s (.pldm (leBytes 2 0x0406)) else s

/-- SUPPLY_TRIP: the reach is lost to a short, its pages with it (R280, R356). Its neighbours record the lost clocks as they see them. The
loss of site 0 cuts off the head reach (R358; log entry 58). -/
def supplyTrip (s : State) (r : Nat) : State :=
  if 75 < r ∨ !reachUp s r then s
  else
    let s := raise s { plainReport 0x0607 7 76 0 with site := if r < 72 then some r else none }
    let secured := slotOnReach s r
    let s := markOff (tallyCount (losePages s r) 7 r) r 4
    let s := retryWaits (cutPorts (dropReach s r false) r)
    let s := if secured then abandonRound s else s
    let s := abandonStep (markDirty s) 0
    if r = 0 then headCutOff s else s

/-! ### A reach returns (R357) -/

/-- Every register page of a reach at its reset values; those of the head reach stay (R352, R489). -/
def resetPages (s : State) (r : Nat) : State :=
  if r = 76 then s
  else { s with
    pages := { s.pages with
      live := s.pages.live.filter (fun x => x.1 / 2 ^ 18 ≠ r)
      shadow := s.pages.shadow.filter (fun x => x.1 / 2 ^ 18 ≠ r)
      captured := s.pages.captured.filter (fun x => x.1 % 2 ^ 20 / 64 ≠ r) }
    mesh := { s.mesh with
      arbs := s.mesh.arbs.filter (fun x => x.1 / 64 ≠ r)
      retries := s.mesh.retries.filter (fun x => x.1 / 8 ≠ r)
      hostCommits := s.mesh.hostCommits.filter (fun x => x ≠ r) } }

/-- A reach's links train with every neighbour that is up (R342, R487). -/
def trainLinks (s : State) (r : Nat) : State :=
  (linksOf r).foldl (fun s l =>
    if reachUp s l.2 ∧ (l.2 ≠ 76 ∨ tFind s.power.off 76 = none) then setLink (setLink s r l.1 1) l.2 (opposite l.1) 1
    else setLink s r l.1 (match tFind s.power.off l.2 with | some c => if c = 4 then 4 else 3 | none => 0)) s

/-- A reach comes up: PLL, reference, pages at reset, links (R487 steps 1 to 6). -/
def bringUp (s : State) (r : Nat) : State :=
  let s := resetPages s r
  let s := { s with power := { s.power with up := addOnce s.power.up r, off := tDel s.power.off r } }
  let s := setFld (setFld s r 0x01 ⟨0x044, 31, 31⟩ 1) r 0x01 ⟨0x044, 30, 30⟩ 1
  trainLinks s r

/-- A reach returns after a planned switch-off: what waits for its pages may go on (R281, R357). -/
def returnReach (s : State) (r : Nat) : State :=
  let s := if r = 76 then setFld s 76 0x02 ⟨0x048, 2, 0⟩ 0 else s
  serveHeld <| resumeWork <| retryWaits (residentPages (markDirty (bringUp s r)) r)

/-- REACH_RETURN: a reach that is off for its PLL or its keeper reports ready (R357, R489). -/
def reachReturn (s : State) (r : Nat) : State :=
  match tFind s.power.off r with
  | some c => if (c = 2 ∨ c = 3) ∧ s.power.refclk then returnReach s r else s
  | none => s

/-! ### Keepers (R477, R479) -/

/-- KEEPER_RESTART: a keeper that missed three checks is restarted; after two failures in a row its reach is taken off (R479, R528). -/
def keeperRestart (s : State) (r : Nat) (ok : Bool) : State :=
  if 75 < r ∨ !reachUp s r then s
  else
    let s := bump s r 0 ⟨0x040, 15, 8⟩ 1
    if ok then
      setFld { s with head := { s.head with keeperFails := tDel s.head.keeperFails r } } r 0 ⟨0x040, 1, 0⟩ 0
    else if tGet 0 s.head.keeperFails r = 0 then
      setFld { s with head := { s.head with keeperFails := tIns s.head.keeperFails r 1 } } r 0 ⟨0x040, 1, 0⟩ 1
    else
      let s := setFld { s with head := { s.head with keeperFails := tDel s.head.keeperFails r } } r 0 ⟨0x040, 1, 0⟩ 2
      switchOff (raise s { plainReport 0x0704 0 76 0 with site := if r < 72 then some r else none }) r 3 true

def execLinkRetry (reach : BitVec 7) (dir : BitVec 2) (seq : Byte) (s : State) : Answer :=
  .next (linkRetry s reach.toNat (dir.toNat + 1) seq.toNat)
def execElasticSlip (reach : BitVec 7) (dir : BitVec 2) (s : State) : Answer := .next (elasticSlip s reach.toNat (dir.toNat + 1))
def execRouteRebuildStart (s : State) : Answer := .next (rebuildStart s)
def execRouteDrainDone (s : State) : Answer := .next (drainDone s)
def execPlannedOff (reach : BitVec 7) (why : OffCause) (s : State) : Answer := .next (plannedOff s reach.toNat why)
def execClockLoss (reach : BitVec 7) (dir : BitVec 2) (s : State) : Answer := .next (clockLoss s reach.toNat (dir.toNat + 1))
def execSupplyTrip (reach : BitVec 7) (s : State) : Answer := .next (supplyTrip s reach.toNat)
def execPllUnlock (reach : BitVec 7) (s : State) : Answer := .next (pllUnlock s reach.toNat)
def execReachReturn (reach : BitVec 7) (s : State) : Answer := .next (reachReturn s reach.toNat)
def execKeeperRestart (reach : BitVec 7) (ok : Bool) (s : State) : Answer := .next (keeperRestart s reach.toNat ok)

end Sys2Proof.Machine
end

