-- ==== Sys2Proof/Machine/Power.lean ====
section
/-!
DEFINITION. Power.lean: the governor (R549 to R555), coolant (R549), the hardware limits (R554), and the loss of the input (R473, R545).
-/
namespace Sys2Proof.Machine

/-! ### Limits (R547 to R549) -/

/-- The thermal design power of the configuration, in kW (R547). -/
def tdp (s : State) : Nat :=
  let base := match gradeCores s with | 72 => 32 | 64 => 29 | _ => 26
  if populationF s then base else base - 2

/-- The required coolant flow: 1.5 L/min per kW, in 1/16 L/min (R548). -/
def requiredFlow (s : State) : Nat := tdp s * 24

/-- 35 °C in 1/16 °C (R548, R549). -/
def inletLimit : Int := 560

/-- The condition of R549. -/
def coolantBad (s : State) (flow : Nat) (inlet : Int) : Bool := decide (inletLimit < inlet) || decide (flow < requiredFlow s)

/-- The module power limit in W, as a fraction: the TDP, or under the coolant fault the lower of its two limits (R549, R553). -/
def powerLimit (s : State) (flow : Nat) (inlet : Int) : Nat × Nat :=
  let full := (tdp s * 1000, 1)
  if !s.power.coolantFault || !coolantBad s flow inlet then full
  else
    let byFlow := if flow < requiredFlow s then (tdp s * 1000 * flow, requiredFlow s) else full
    let excess := ((inlet - inletLimit) / 16).toNat
    let byInlet := (tdp s * 1000 * (100 - min 100 (5 * excess)), 100)
    if leFrac byFlow byInlet then byFlow else byInlet

/-! ### Temperatures and N_t (R551, R552, R555) -/

/-- PW_TEMP of a reach. -/
def tempOf (s : State) (r : Nat) : Int := signedOf 16 (fld s r 0x02 ⟨0x040, 15, 0⟩)

/-- A reading goes to PW_TEMP and, where it is the highest, to PW_TEMP_PEAK (R538). -/
def setTemp (s : State) (r : Nat) (t : Int) : State :=
  let w := (t % 65536).toNat
  let s := setFld s r 0x02 ⟨0x040, 15, 0⟩ w
  if signedOf 16 (fld s r 0x02 ⟨0x044, 15, 0⟩) < signedOf 16 w then setFld s r 0x02 ⟨0x044, 15, 0⟩ w else s

def thermalN (s : State) (r : Nat) : Nat := tGet 16 s.power.nt r
def powerN (s : State) (r : Nat) : Nat := tGet 16 s.power.np r
def setThermalN (s : State) (r n cool : Nat) : State :=
  { s with power := { s.power with nt := tPut 16 s.power.nt r n, cool := tPut 0 s.power.cool r cool } }
def setPowerN (s : State) (r n : Nat) : State := { s with power := { s.power with np := tPut 16 s.power.np r n } }

/-- Decisions below 100.0 °C that raise N_t (R551; the count begins again after a raise: log entry 59). -/
def coolDecisions : Nat := 10

/-- One reach at one decision: a core reach's N_t, or the switch-off at 115.0 °C (R551, R552, R555). -/
def thermalStep (s : State) (r : Nat) : State :=
  let t := tempOf s r
  if 72 ≤ r then (if r < 76 ∧ 1840 ≤ t then plannedOff s r .heat else s)
  else
    let n := thermalN s r
    if t < 1600 then
      let c := tGet 0 s.power.cool r + 1
      if c < coolDecisions then setThermalN s r n c else setThermalN s r (min 16 (n + 1)) 0
    else if t < 1680 then setThermalN s r n 0
    else if t < 1760 then setThermalN s r (max 4 (n - 1)) 0
    else if t < 1840 then setThermalN s r (max 4 (n - 4)) 0
    else if n = 4 then plannedOff s r .heat
    else setThermalN s r 4 0

/-! ### The module loop (R543, R553) -/

/-- The core reaches that answer. -/
def coreReaches (s : State) : List Nat := (List.range 72).filter (reachUp s)

/-- The first of a list of reaches that is at least as good as every other. -/
def bestReach (better : Nat → Nat → Bool) : List Nat → Option Nat
  | [] => none
  | r :: rest => some (rest.foldl (fun b x => if better x b then x else b) r)

/-- One decision of the loop on N_p, from the average of the last ten powers (log entry 59). -/
def powerStep (s : State) (g : GovIn) : State :=
  let powers := (s.power.powers ++ [g.power]).drop (s.power.powers.length + 1 - 10)
  let blade := if 400 < g.bladeA ∨ 400 < g.bladeB then s.power.blade + 1 else 0
  let s := { s with power := { s.power with powers := powers, blade := blade } }
  let limit := powerLimit s g.flow g.inlet
  let sum := powers.foldl (· + ·) 0
  let excess := decide (limit.1 * powers.length < sum * limit.2) || decide (680 * 16 < g.current) || decide (10 ≤ blade)
  let under := decide (sum * limit.2 * 100 < 97 * limit.1 * powers.length) && decide (g.current < 650 * 16) && decide (g.bladeA < 380) &&
    decide (g.bladeB < 380)
  if excess then
    match bestReach (fun x b => decide (tempOf s b < tempOf s x)) ((coreReaches s).filter (fun r => 4 < min (thermalN s r) (powerN s r))) with
    | some r => setPowerN s r (powerN s r - 1)
    | none => s
  else if under then
    match bestReach (fun x b => decide (tempOf s x < tempOf s b)) ((coreReaches s).filter (fun r => powerN s r < 16)) with
    | some r => setPowerN s r (powerN s r + 1)
    | none => s
  else s

/-- The governor writes N: the throttle, the record of a change, PW_STATE, the time throttled (R470, R539, R550). -/
def writeN (s : State) (r : Nat) : State :=
  let n := min (min (thermalN s r) (powerN s r)) (throttleN (fld s r 0x02 ⟨0x04C, 4, 0⟩))
  let was := throttleN (fld s r 0x01 ⟨0x040, 4, 0⟩)
  let s := setFld (setFld s r 0x01 ⟨0x040, 4, 0⟩ n) r 0x01 ⟨0x044, 4, 0⟩ n
  let s := if n = was then s else raise s (plainReport 0x0605 0 r 0x01)
  let state := boolNat (decide (n < 16))
  let s := if fld s r 0x02 ⟨0x048, 2, 0⟩ = state then s else irqEvent (setFld s r 0x02 ⟨0x048, 2, 0⟩ state) r 0x02 0
  if n < 16 then tallyCount s 4 r else s

/-- The module's readings, on the head reach's page (R538). -/
def moduleReadings (s : State) (g : GovIn) : State :=
  let s := setFld (setFld s 76 0x02 ⟨0x084, 15, 0⟩ g.current) 76 0x02 ⟨0x088, 15, 0⟩ (g.inlet % 65536).toNat
  setFld (setFld s 76 0x02 ⟨0x08C, 15, 0⟩ g.flow) 76 0x02 ⟨0x090, 15, 0⟩ g.power

/-- GOVERNOR_DECISION (R550 to R553, R555). It runs in the head keeper's firmware. -/
def governorDecision (s : State) (g : GovIn) : State :=
  if !reachUp s 76 ∨ bootPhase s < 3 ∨ 5 < bootPhase s then s
  else
    let s := moduleReadings s g
    let s := (g.temps.filter (fun (x : Nat × Int) => decide (x.1 < 77) && reachUp s x.1)).foldl (fun s x => setTemp s x.1 x.2) s
    let s := if coolantBad s g.flow g.inlet then s else { s with power := { s.power with coolantFault := false } }
    let s := (reachesUp s).foldl thermalStep s
    (coreReaches (powerStep s g)).foldl writeN (powerStep s g)

/-- HEAT_RECOVERY: the reach has read below 85.0 °C for 1 s (R552, R554). -/
def heatRecovery (s : State) (r : Nat) : State :=
  if tFind s.power.off r = some 1 ∧ s.power.refclk = true then setThermalN (returnReach s r) r 8 0 else s

/-- OVERCURRENT: AC_EFFECTIVE at most 8 in every core reach until the next decision (R554). -/
def overcurrent (s : State) : State :=
  (coreReaches s).foldl (fun s r => setFld s r 0x01 ⟨0x044, 4, 0⟩ (min 8 (fld s r 0x01 ⟨0x044, 4, 0⟩))) s

/-- COOLANT: the condition of R549 has lasted for 1 s. -/
def coolant (s : State) (flow : Nat) (inlet : Int) : State :=
  if !reachUp s 76 then s
  else
    let s := setFld (setFld s 76 0x02 ⟨0x088, 15, 0⟩ (inlet % 65536).toNat) 76 0x02 ⟨0x08C, 15, 0⟩ flow
    if s.power.coolantFault ∨ !coolantBad s flow inlet then s
    else raise { s with power := { s.power with coolantFault := true } } (plainReport 0x0609 0 76 0x02)

/-! ### The input goes (R473, R489, R545) -/

/-- The words of the fuse page that are fuses, not what the ROM or the stacks bring (R508). -/
def isFuse (k : Nat) : Bool := k / 2 ^ 12 = 76 * 64 + 0x2C && k % 2 ^ 12 < 0x220 && k % 2 ^ 12 ≠ 0x060

/-- Everything but what a reset of the module keeps: the tally, the fuses, the flash, the last SEQ (R443, R489), and what lies outside the
module: the fabric tier, host memory, what has been sent, the straps, the commands to come. -/
def lostAll (s : State) : State :=
  { State.reset with
    pages := { State.reset.pages with live := s.pages.live.filter (fun x => isFuse x.1) }
    head := { State.reset.head with flash := s.head.flash, seq := s.head.seq, seed := s.head.seed, fuseCrc := s.head.fuseCrc }
    tally := { s.tally with powered := s.tally.powered + s.now.toNat, loading := none }
    store := { State.reset.store with fabric := s.store.fabric, stainFabric := s.store.stainFabric, host := s.store.host }
    power := { State.reset.power with refclk := s.power.refclk }
    mgmt := { State.reset.mgmt with straps := s.mgmt.straps }
    outbox := s.outbox
    freeCount := s.freeCount
    pending := s.pending }

/-- Records that the hold-up time writes, INPUT_LOSS among them (R473, R545). -/
def holdUpRecords : Nat := 256

/-- A record numbered and logged, with no host to take it. -/
def logOnly (s : State) (f : FaultRec) : State :=
  let n := s.head.seq + 1
  logFault { s with head := { s.head with seq := n, lastSeq := n } } { f with seq := n }

/-- The input is lost: the fault, the minimum-power state, the last tally records with INPUT_LOSS last, and the end (R473, R545). A flash
write under way leaves no valid image (R485). -/
def inputLoss (s : State) : State :=
  if !reachUp s 76 then s
  else
    let held := s.head.inbox
    let s := raise s (plainReport 0x0608 8 76 0x02)
    let last := s.head.inbox.drop held.length
    let s := (held.take (holdUpRecords - 1) ++ last).foldl logOnly s
    lostAll (if s.head.pushing then { s with head := { s.head with flash := [] } } else s)

/-- JUNCTION_CUTOFF: 125 °C (R554). -/
def junctionCutoff (s : State) (r : Nat) : State :=
  if r = 76 then inputLoss s
  else if 76 < r ∨ !reachUp s r then s
  else switchOff (tallyCount (raise s { plainReport 0x0606 7 76 0 with site := if r < 72 then some r else none }) 3 r) r 1 false

def execGovernorDecision (g : GovIn) (s : State) : Answer := .next (governorDecision s g)
def execHeatRecovery (reach : BitVec 7) (s : State) : Answer := .next (heatRecovery s reach.toNat)
def execOvercurrent (s : State) : Answer := .next (overcurrent s)
def execJunctionCutoff (reach : BitVec 7) (s : State) : Answer := .next (junctionCutoff s reach.toNat)
def execCoolant (flow : Nat) (inlet : Int) (s : State) : Answer := .next (coolant s flow inlet)
def execInputLoss (s : State) : Answer := .next (inputLoss s)

end Sys2Proof.Machine
end

