-- ==== Sys2Proof/Machine/Boot.lean ====
section
/-!
DEFINITION. Boot.lean: start-up (R480 to R488, R493, R495), warm resets (R489, R490), the reference clock (R558), the status LED (R560).
-/
namespace Sys2Proof.Machine

/-- BT_STATUS.PHASE, with its event (R509, R524). -/
def setPhase (s : State) (p : Nat) : State :=
  if bootPhase s = p then s else irqEvent (setFld s 76 0x2D ⟨0x040, 2, 0⟩ p) 76 0x2D 0

/-- The fuse page's word at an offset. -/
def fuseWord (s : State) (o : Nat) : Word := regWord s 76 0x2C o

/-! ### The image (R480 to R483) -/

/-- Bytes of the image header, and the longest image. -/
def headerBytesOfImage : Nat := 0x2000
def imageLimit : Nat := 268369920

/-- A directory entry: type, flags, offset, length; its 8 reserved bytes are ignored (R12, R480). -/
def dirEntry (h : List Byte) (i : Nat) : Nat × Nat × Nat × Nat :=
  let o := 0x1600 + 32 * i
  (leAt h o 4, leAt h (o + 4) 4, leAt h (o + 8) 8, leAt h (o + 16) 8)

/-- Whether the directory meets R480 and R481. -/
def directoryOk (h : List Byte) (size count : Nat) : Bool :=
  let es := (List.range count).map (dirEntry h)
  let rest := (h.drop (0x1600 + 32 * count)).take (0x2000 - (0x1600 + 32 * count))
  es.all (fun e => e.2.1 = 0 && e.2.2.1 % 4096 = 0 && decide (0x2000 ≤ e.2.2.1) && decide (e.2.2.1 + e.2.2.2 ≤ size) &&
    (e.1 ≠ 2 || decide (e.2.2.2 ≤ 2 ^ 20))) &&
  rest.all (fun b => b = 0) &&
  [1, 2, 3, 4, 5, 6].all (fun t => ((es.filter (fun e => e.1 = t)).length) = 1) &&
  (List.range count).all (fun i => (List.range i).all (fun j =>
    let a := es.getD i (0, 0, 0, 0)
    let b := es.getD j (0, 0, 0, 0)
    decide (a.2.2.1 + a.2.2.2 ≤ b.2.2.1) || decide (b.2.2.1 + b.2.2.2 ≤ a.2.2.1)))

/-- Whether the header and directory of an image meet R480 and R481, its digest included. -/
def imageFormatOk (m : Mem) : Bool :=
  let h := memBytes m 0 headerBytesOfImage
  let size := leAt h 0x10 4
  let count := leAt h 0x14 4
  leAt h 0 4 = 0x4D49484C && leAt h 4 4 = 1 && decide (leAt h 0x0C 4 ≤ 128) && decide (0x2000 ≤ size) && decide (size ≤ imageLimit) &&
  decide (1 ≤ count) && decide (count ≤ 32) && leAt h 0x18 8 = 0 && ((h.drop 0x154D).take 179).all (fun b => b = 0) &&
  directoryOk h size count &&
  leNat ((h.drop 0x20).take 64).reverse = (Config.sha512 (h.take 0x20 ++ memBytes m 0x1600 (size - 0x1600))).toNat

/-- Whether a key's hash is the fused one (R482, R508). -/
def keyFused (s : State) (o : Nat) (key : List Byte) : Bool :=
  (List.range 8).all (fun i => digestWord (sha256 key) i = fuseWord s (o + 4 * i))

/-- DETAIL of 0x0701: bit 0 the Ed25519 half, bit 1 the ML-DSA-65 half; 0 where both hold (R482). -/
def signatureFaults (s : State) (m : Mem) : Nat :=
  let h := memBytes m 0 headerBytesOfImage
  let digest := (h.drop 0x20).take 64
  let ed := (h.drop 0x60).take 32
  let ml := (h.drop 0xC0).take 1952
  boolNat (!(keyFused s 0x080 ed && Config.ed25519Ok ed digest ((h.drop 0x80).take 64))) +
    2 * boolNat (!(keyFused s 0x0A0 ml && Config.mldsa65Ok ml digest ((h.drop 0x860).take 3309)))

/-- The refusal of an image, as code and DETAIL; none where it is accepted (R482, R483). -/
def imageFault (s : State) (m : Mem) : Option (Nat × Nat) :=
  if !imageFormatOk m then some (0x0703, 0)
  else if signatureFaults s m ≠ 0 then some (0x0701, signatureFaults s m)
  else if leAt (memBytes m 0 headerBytesOfImage) 0x0C 4 < fld s 76 0x2C ⟨0x05C, 7, 0⟩ then some (0x0702, 0)
  else none

/-! ### The ROM (R486, R493) -/

/-- The bytes of the fused words that the array's CRC-32 covers: 0x040 to 0x21F but for ROLLBACK_COUNT, whose bits are blown later, and the word
0x060 (R493; log entry 60). -/
def fusedBytes (s : State) : List Byte :=
  (((List.range 120).filter (fun i => i ≠ 7 && i ≠ 8)).map (fun i => leBytes 4 (fuseWord s (0x040 + 4 * i)).toNat)).flatten

/-- The check of the fuse array: its CRC, every site's x (0 to 8) and y, and the count of GOOD sites (R13, R493, R494). -/
def fusesOk (s : State) : Bool :=
  let good := ((List.range 72).filter (siteGood s)).length
  crc32 (fusedBytes s) = s.head.fuseCrc &&
    (List.range 72).all (fun k => decide (fld s 76 0x2C ⟨0x100 + 4 * k, 3, 0⟩ ≤ 8) &&
      fld s 76 0x2C ⟨0x100 + 4 * k, 6, 4⟩ * 9 + fld s 76 0x2C ⟨0x100 + 4 * k, 3, 0⟩ = k) &&
    gradeCores s ≠ 0 && good = gradeCores s

/-- The ROM starts on the head reach: fuses read and checked, their identity copied to the tally (R486, R493). -/
def startRom (s : State) : State :=
  let s := bringUp s 76
  let s := { s with tally := { s.tally with
    identity := ((List.range 8).map (fun i => leBytes 4 (fuseWord s (0x040 + 4 * i)).toNat)).flatten
    writes := tAdd s.tally.writes 0 1 } }
  if fusesOk s then setPhase (setFld s 76 0x2C ⟨0x060, 0, 0⟩ 1) 1
  else setPhase (raise s (plainReport 0x0705 8 76 0x2C)) 6

/-- COLD_START: the input has been in range; the straps are read (R486, R489, R559). -/
def coldStart (s : State) (straps : BitVec 6) : State :=
  if reachUp s 76 ∨ s.power.refclk = false then s
  else
    let s := lostAll { s with mgmt := { s.mgmt with straps := straps } }
    startRom { s with tally := { s.tally with powerOns := s.tally.powerOns + 1, writes := tAdd s.tally.writes 0 1 } }

/-- A warm reset: everything restarts; MB_STATUS reads RESETTING until READY (R489, R490). It waits while the flash is written (R485). -/
def warmReset (s : State) : State :=
  if s.head.pushing then { s with head := { s.head with resetWaits := true } }
  else
    let s := lostAll s
    startRom { s with head := { s.head with mbStatus := 3 } }

/-! ### Identity keys (R496) -/

/-- HMAC-SHA-512 (RFC 2104) and HKDF with it (RFC 5869), for outputs of at most 64 bytes. -/
def sha512Bytes (b : List Byte) : List Byte := (leBytes 64 (Config.sha512 b).toNat).reverse
def hmac (key msg : List Byte) : List Byte :=
  let k := (if 128 < key.length then sha512Bytes key else key) ++ leBytes (128 - (if 128 < key.length then 64 else key.length)) 0
  sha512Bytes (k.map (· ^^^ 0x5C) ++ sha512Bytes (k.map (· ^^^ 0x36) ++ msg))
def hkdf (salt ikm info : List Byte) (n : Nat) : List Byte := (hmac (hmac salt ikm) (info ++ [1])).take n

/-- A key of R496 from the seed, most significant byte first: DevID, or the alias of an image's digest; Ed25519, or ML-DSA-65. -/
def identityKey (seed : BitVec 256) (ml : Bool) (image : Option (List Byte)) : List Byte :=
  let name := match image, ml with
    | none, false => "devid-ed25519" | none, true => "devid-mldsa65" | some _, false => "alias-ed25519" | some _, true => "alias-mldsa65"
  hkdf (ascii "LHR-ID-1") (leBytes 32 seed.toNat).reverse (ascii name ++ image.getD []) 32

/-- IMAGE_DIGEST of an image header (R480). -/
def imageDigest (h : List Byte) : List Byte := (h.drop 0x20).take 64

/-- IMAGE_VERIFY: the image is accepted and its firmware starts with the alias keys, or the ROM waits (R482 to R484, R496). -/
def imageVerify (s : State) : State :=
  if !reachUp s 76 ∨ bootPhase s ≠ 1 then s
  else match imageFault s s.head.flash with
    | some (code, detail) =>
      setPhase (raise (setFld s 76 0x2D ⟨0x050, 0, 0⟩ 0) { plainReport code 8 76 0x2D with detail := detail }) 2
    | none =>
      let h := memBytes s.head.flash 0 headerBytesOfImage
      let s := setRegWord s 76 0x2D 0x044 (BitVec.ofNat 32 (leAt h 8 4))
      let s := setFld (setFld s 76 0x2D ⟨0x050, 0, 0⟩ 1) 76 0x2D ⟨0x040, 23, 16⟩ 0
      setPhase { s with
        head := { s.head with running := h.take 0x60, stopped := false }
        mgmt := { s.mgmt with
          ownEd := identityKey s.head.seed false (some (imageDigest h))
          ownMl := identityKey s.head.seed true (some (imageDigest h)) } } 3

/-! ### Waves (R486 to R488) -/

/-- The towpath distance of a reach from the head reach. -/
def towDistance (r : Nat) : Nat :=
  if r < 72 then 1 + r % 9 + r / 9 else 2 + attachSite r % 9 + attachSite r / 9

/-- The 76 other reaches by ascending distance, then reach ID. -/
def waveOrder : List Nat :=
  ((List.range 18).map (fun d => (List.range 76).filter (fun r => towDistance r = d))).flatten

/-- The reaches of a wave. -/
def waveReaches (w : Nat) : List Nat := (waveOrder.drop (8 * w)).take 8

/-- A stack's identity record, read at bring-up (R495, R508). -/
def readStack (s : State) (k : Nat) : State :=
  if !stackPresent s k then s
  else
    let x := Config.stackRecord k
    let o := 0x240 + 16 * k
    if !x.1 then setRegWord s 76 0x2C (o + 12) 0
    else
      let s := setRegWord (setRegWord s 76 0x2C o x.2.1) 76 0x2C (o + 4) (x.2.2.1.setWidth 32)
      setRegWord (setRegWord s 76 0x2C (o + 8) (BitVec.ofNat 32 (x.2.2.2.2.toNat * 2 ^ 16 + x.2.2.2.1.toNat))) 76 0x2C (o + 12) 1

/-- A reach of a wave comes up, its stacks' records read. -/
def waveReach (s : State) (r : Nat) : State :=
  let s := bringUp s r
  if r < 72 then readStack (readStack s (2 * r)) (2 * r + 1) else s

/-- WAVE_UP: the last wave powered is up, and the next is powered; after the last, routes, groups and the barrier root are committed and
SELF_CHECK begins (R486 to R488; log entry 61). -/
def waveUp (s : State) : State :=
  if !reachUp s 76 ∨ bootPhase s ≠ 3 then s
  else
    let w := fld s 76 0x2D ⟨0x040, 23, 16⟩
    let s := (waveReaches w).foldl waveReach s
    if w < 9 then setFld s 76 0x2D ⟨0x040, 23, 16⟩ (w + 1) else setPhase (keeperTables s) 4

/-! ### READY (R483, R488) -/

/-- Whether a core at a site is in service: fused good, up, and through its last SELF_CHECK. -/
def inServiceSite (s : State) (k : Nat) : Bool := siteGood s k && reachUp s k && (coreAt s k).passed

/-- KP_LOGICAL_SITE and the in-service count from the sites in service (R14, R488, R527). -/
def numberCores (s : State) : State :=
  let sites := (List.range 72).filter (inServiceSite s)
  let s := (List.range 18).foldl (fun s j => setRegWord s headPage 0 (0x400 + 4 * j)
    (BitVec.ofNat 32 (leNat ((List.range 4).map (fun i => BitVec.ofNat 8 (sites.getD (4 * j + i) 0xFF)))))) s
  setFld s 76 0x2D ⟨0x040, 31, 24⟩ sites.length

/-- READY: the cores that failed stay out; the fuses follow the image's ROLLBACK from then on, one bit each reference period (R483, R488, R490;
`tick`). -/
def bootReady (s : State) (failed : List Nat) : State :=
  if !reachUp s 76 ∨ bootPhase s ≠ 4 then s
  else
    let good := (List.range 72).filter (siteGood s)
    let s := good.foldl (fun s k => modCore s k (fun c => { c with passed := !failed.contains k })) s
    let s := (good.filter (fun k => failed.contains k)).foldl (fun s k => raise s { plainReport 0x0903 0 k 0 with site := some k }) s
    let s := numberCores s
    let s := if s.head.mbStatus = 3 then { s with head := { s.head with mbStatus := 0 } } else s
    msix (setPhase s 5) 64

/-! ### The reference clock (R558) -/

/-- REFCLK_LOSS: every reach goes off as on a PLL unlock, and H0 goes down (R345, R558; log entry 62). -/
def refclkLoss (s : State) : State :=
  let s := { s with power := { s.power with refclk := false } }
  if !reachUp s 76 then s
  else
    (reachesUp s).foldl (fun s r =>
      if tFind s.power.off r ≠ none then s
      else
        let s := setFld (bump s r 0x01 (wordFld 0x058) 1) r 0x01 ⟨0x044, 31, 30⟩ 0
        switchOff (raise s (plainReport 0x0601 7 r 0x01)) r 5 false) s

/-- REFCLK_RETURN: every reach that the loss took returns (R357, R558). -/
def refclkReturn (s : State) : State :=
  let s := { s with power := { s.power with refclk := true } }
  if !reachUp s 76 then s
  else (((s.power.off.filter (fun x => x.2 = 5)).map (fun x => x.1)).reverse).foldl returnReach s

/-! ### The status LED (R560) -/

/-- What the LED shows. -/
inductive Led where
  | off | slowBlink | fastBlink | on | darkEachSecond
  deriving DecidableEq, Repr

/-- The LED's state: a fault with effect MODULE that stands, or the boot phase (R560). -/
def statusLed (s : State) : Led :=
  if !reachUp s 76 then .off
  else if bootPhase s = 2 ∨ bootPhase s = 6 then .fastBlink
  else if s.head.stopped then .darkEachSecond
  else if bootPhase s = 5 then .on
  else .slowBlink

def execColdStart (straps : BitVec 6) (s : State) : Answer := .next (coldStart s straps)
def execImageVerify (s : State) : Answer := .next (imageVerify s)
def execWaveUp (s : State) : Answer := .next (waveUp s)
def execReady (failed : List Nat) (s : State) : Answer := .next (bootReady s failed)
def execRefclkLoss (s : State) : Answer := .next (refclkLoss s)
def execRefclkReturn (s : State) : Answer := .next (refclkReturn s)
def execBtReset (value : Word) (s : State) : Answer :=
  .next (hostWrite s 76 0x2D (fun s => if value = 0x54455352 then warmReset s else s))

end Sys2Proof.Machine
end

