-- ==== Sys2Proof/Machine/Tally.lean ====
section
/-!
DEFINITION. Tally.lean: reading the tally: the access page (R540), fault signature records (R468, R469), units and records (R470, R475).
-/
namespace Sys2Proof.Machine

/-! ### Units of the regions (R470, R473, R540) -/

/-- 64-byte units of a region: 0 HEADER, 1 COUNTERS, 2 STICKY, 3 STEP_LOG, 4 FAULT_LOG. -/
def regionUnits (region : Nat) : Nat :=
  match region with | 0 => 16384 | 1 => 32768 | 2 => stickySize | 3 => stepLogSize | 4 => faultLogSize | _ => 0

/-- The record at unit i of a cyclic region of size n that has taken c records, the last of which l holds. -/
def cyclicAt {α : Type} (l : List α) (c n i : Nat) : Option α :=
  if c = 0 then none
  else
    let back := (c - 1 + n - i) % n
    if back < l.length then l[l.length - 1 - back]? else none

/-- What HEADER and COUNTERS hold, as numbers (R470). -/
def headerContents (s : State) : List Nat :=
  let t := s.tally
  Config.tallyVersion :: (List.range 5).map (tGet 0 t.writes) ++ [t.powerOns, t.powered + s.now.toNat, t.marks, boolNat t.stickyFull, s.head.seq] ++
    t.identity.map BitVec.toNat
def counterContents (s : State) : List Nat := 1 :: (s.tally.counters.map (fun x => [x.1, x.2])).flatten

/-- The fault record at a unit of STICKY or FAULT_LOG. -/
def recordAt (s : State) (region i : Nat) : Option FaultRec :=
  if region = 2 then s.tally.sticky[i]?
  else if region = 4 then cyclicAt s.tally.faultLog (tGet 0 s.tally.writes 4) faultLogSize i
  else none

/-- A unit of a region and whether it holds a record; none beyond the region. An unused unit reads 0 (log entry 55 for HEADER and
COUNTERS). -/
def tallyUnit (s : State) (region i : Nat) : Option (List Byte × Bool) :=
  if regionUnits region ≤ i then none
  else
    let record := fun (x : Option (List Byte)) => match x with | some b => some (b, true) | none => some (leBytes 64 0, false)
    match region with
    | 0 => some ((List.range 64).map (Config.tallyByte (headerContents s) i), false)
    | 1 => some ((List.range 64).map (Config.tallyByte (counterContents s) i), false)
    | 3 => record (cyclicAt s.tally.stepLog (tGet 0 s.tally.writes 3) stepLogSize i)
    | _ => record ((recordAt s region i).map faultBytes)

/-! ### The access page (R540) -/

/-- A load of a unit begins. -/
def startLoad (s : State) (region i : Nat) : State :=
  setFld { s with tally := { s.tally with loading := some (region, i) } } 76 0x2A ⟨0x044, 31, 31⟩ 1

/-- A read of TL_DATA[15]: its word, then the load of the next unit. -/
def dataNext (s : State) : State :=
  if !s.hdm.h0Up then s
  else if !answers s 76 then emit (noAnswer s) (.readData 0xFFFFFFFF)
  else
    let s := emit s (.readData (regWord s 76 0x2A 0x0BC))
    startLoad s (fld s 76 0x2A ⟨0x044, 22, 20⟩) ((fld s 76 0x2A ⟨0x044, 19, 0⟩ + 1) % 2 ^ 20)

/-- TALLY_LOAD_DONE: the unit as it stands, its flags, the page's event. -/
def loadDone (s : State) : State :=
  match s.tally.loading with
  | none => s
  | some (region, i) =>
    let u := tallyUnit s region i
    let bytes := match u with | some x => x.1 | none => leBytes 64 0
    let valid := match u with | some x => x.2 | none => false
    let s := storeWords { s with tally := { s.tally with loading := none } } 76 0x2A 0x080 bytes 16
    irqEvent (setRegWord s 76 0x2A 0x044
      (BitVec.ofNat 32 (boolNat valid * 2 ^ 30 + boolNat u.isNone * 2 ^ 29 + region % 8 * 2 ^ 20 + i % 2 ^ 20))) 76 0x2A 0

/-! ### Fault signature records (R468) -/

/-- The head of a CBOR item in its shortest form: major type and value. -/
def cborHead (major v : Nat) : List Byte :=
  let be := fun (n : Nat) => (leBytes n v).reverse
  let ib := fun (k : Nat) => BitVec.ofNat 8 (major * 32 + k)
  if v < 24 then [ib v]
  else if v < 2 ^ 8 then ib 24 :: be 1
  else if v < 2 ^ 16 then ib 25 :: be 2
  else if v < 2 ^ 32 then ib 26 :: be 4
  else ib 27 :: be 8

def cborUint (v : Nat) : List Byte := cborHead 0 v
def cborBytes (b : List Byte) : List Byte := cborHead 2 b.length ++ b
def cborText (b : List Byte) : List Byte := cborHead 3 b.length ++ b

/-- An array of a text and two numbers. -/
def cborDie (lot : List Byte) (a b : Nat) : List Byte := cborHead 4 3 ++ cborText lot ++ cborUint a ++ cborUint b

/-- The ordering code (R6, R494). -/
def orderCode (s : State) : List Byte :=
  ascii (match gradeCores s with | 72 => "LHM-CY72" | 64 => "LHM-CY64" | _ => "LHM-CY56") ++
    ascii (if populationF s then "-F" else "-S") ++ ascii (if optionP4 s then "-P4" else "-P2")

/-- The identity that a stack's entry of the fuse page holds (R495). -/
def stackDie (s : State) (k : Nat) : Option (List Byte) :=
  let o := 0x240 + 16 * k
  if fld s 76 0x2C ⟨o + 12, 0, 0⟩ = 1 then
    some (cborDie (leBytes 4 (fuseWord s o).toNat ++ leBytes 2 (fuseWord s (o + 4)).toNat) (fld s 76 0x2C ⟨o + 8, 4, 0⟩)
      (fld s 76 0x2C ⟨o + 8, 27, 16⟩))
  else none

/-- The stack that a record's DETAIL names (R441). -/
def namedStack (f : FaultRec) : Option Nat :=
  if (f.code = 0x0304 ∨ f.code = 0x0305) ∧ bitsOf f.detail.toNat 63 56 = 0 then some (f.detail.toNat % 256) else none

/-- The fields of a fault signature record by key; a field whose value means none is left out (R468). -/
def signatureFields (s : State) (f : FaultRec) : List (Nat × List Byte) :=
  let opt := fun (key : Nat) (v : Option Nat) => match v with | some n => [(key, cborUint n)] | none => []
  [(1, cborUint 1),
   (2, cborDie (leBytes 4 (fuseWord s 0x040).toNat ++ leBytes 2 (fuseWord s 0x044).toNat) (fld s 76 0x2C ⟨0x048, 4, 0⟩)
     (fld s 76 0x2C ⟨0x048, 12, 8⟩)),
   (3, cborText (orderCode s)), (4, cborUint (regWord s 76 0x2D 0x044).toNat), (5, cborUint 1), (6, cborUint f.code.toNat),
   (7, cborUint f.effect)] ++
  (if f.mark = 0 then [] else [(8, cborUint f.mark.toNat)]) ++ opt 9 f.context ++ opt 10 f.queue ++ opt 11 f.core ++ opt 12 f.site ++
  [(13, cborUint f.reach), (14, cborHead 4 2 ++ cborUint f.timestamp.toNat ++ cborUint f.fine)] ++
  (if f.step = 0xFFFFFFFF then [] else [(15, cborUint f.step.toNat)]) ++
  [(16, cborUint f.count), (17, cborBytes (leBytes 16 f.detail.toNat)), (18, cborUint f.seq)] ++
  (match (namedStack f).bind (stackDie s) with | some d => [(19, d)] | none => []) ++
  (match f.context.bind (loadedOf s) with | some l => [(20, cborBytes (digestBytes l.digest))] | none => [])

/-- A fault signature record. -/
def signatureRecord (s : State) (f : FaultRec) : List Byte :=
  let fs := signatureFields s f
  cborHead 5 fs.length ++ (fs.map (fun x => cborUint x.1 ++ x.2)).flatten

/-- What a tally read returns: raw units within the region, or the signature records of its records, each after its length (R475, R503);
none where the request is out of form. -/
def tallyBytes (s : State) (region form first count : Nat) : Option (List Byte) :=
  if 4 < region ∨ 1 < form ∨ (form = 1 ∧ region ≠ 2 ∧ region ≠ 4) ∨ count = 0 ∨ 64 < count then none
  else if form = 0 then
    some ((((List.range count).filterMap (fun i => tallyUnit s region (first + i))).map (fun x => x.1)).flatten)
  else
    some ((((List.range count).filterMap (fun i => if regionUnits region ≤ first + i then none else recordAt s region (first + i))).map (fun f =>
      leBytes 2 (signatureRecord s f).length ++ signatureRecord s f)).flatten)

def execTlSel (region : BitVec 3) (index : BitVec 20) (s : State) : Answer :=
  .next (hostWrite s 76 0x2A (fun s => startLoad s region.toNat index.toNat))
def execTlDataNext (s : State) : Answer := .next (dataNext s)
def execTallyLoadDone (s : State) : Answer := .next (loadDone s)

end Sys2Proof.Machine
end

