-- ==== Sys2Proof/Machine/Kweus.lean ====
section
/-!
DEFINITION. Kweus.lean: the checks of a Kweus module at load (R133 to R150, R170, R384, R452). Each answers the first refusal: fault code and
FAULT_DETAIL (what FAULT_DETAIL counts where R156 leaves a choice: log entry 63).
-/
namespace Sys2Proof.Machine

/-- The first refusal of a list of checks. -/
def firstFault (l : List (Option (Nat × Nat))) : Option (Nat × Nat) := l.findSome? id

/-- A refusal where a condition fails. -/
def need (ok : Bool) (code detail : Nat) : Option (Nat × Nat) := if ok then none else some (code, detail)

/-! ### Header, directory, sections (R133 to R135) -/

/-- A section: type, length, offset. -/
def sectionAt (b : List Byte) (i : Nat) : Nat × Nat × Nat := (leAt b (64 + 16 * i) 4, leAt b (68 + 16 * i) 4, leAt b (72 + 16 * i) 8)
def sectionList (b : List Byte) : List (Nat × Nat × Nat) := (List.range (leAt b 8 4)).map (sectionAt b)

/-- The bytes of a section; none where it is absent. -/
def sectionBytes (b : List Byte) (t : Nat) : Option (List Byte) :=
  ((sectionList b).find? (fun x => x.1 = t)).map (fun x => (b.drop x.2.2).take x.2.1)
def sectionD (b : List Byte) (t : Nat) : List Byte := (sectionBytes b t).getD []

def checkHeader (b : List Byte) : Option (Nat × Nat) :=
  need (decide (64 ≤ b.length) && leAt b 0 4 = 0x5545574B && decide (1 ≤ leAt b 8 4) && decide (leAt b 8 4 ≤ 64) && leAt b 12 4 = 0 &&
    decide (64 + 16 * leAt b 8 4 ≤ b.length) && digestOf (b.drop 32) = sha256 (b.drop 64)) 0x0102 0

def checkVersion (b : List Byte) : Option (Nat × Nat) := need (leAt b 4 2 = 3 && decide (leAt b 6 2 ≤ 1)) 0x0103 0

/-- Bytes per entry of a section. -/
def entrySize (t : Nat) : Nat := match t with | 1 => 16 | 2 => 16 | 3 => 32 | 4 => 32 | 5 => 2 | 6 => 4 | 7 => 2304 | 8 => 8 | _ => 1

/-- The sections (R133, R135). A module without CODE, which R135 calls neither required nor optional, is accepted: DESIGN CHOICE, log entry
126. -/
def checkSections (b : List Byte) : Option (Nat × Nat) :=
  let l := sectionList b
  let n := l.length
  firstFault ((l.zipIdx.map (fun (x : (Nat × Nat × Nat) × Nat) =>
      let y := x.1
      need (decide (1 ≤ y.1) && decide (y.1 ≤ 9) && y.2.2 % 64 = 0 && decide (64 + 16 * n ≤ y.2.2) && decide (y.2.2 + y.2.1 ≤ b.length) &&
        y.2.1 % entrySize y.1 = 0 && (y.1 ≠ 7 || y.2.1 = 2304) &&
        (l.take x.2).all (fun z => z.1 ≠ y.1 && (decide (z.2.2 + z.2.1 ≤ y.2.2) || decide (y.2.2 + y.2.1 ≤ z.2.2)))) 0x0102 y.2.2)) ++
    [2, 3, 4, 5, 7].map (fun t => need (sectionBytes b t).isSome 0x0102 0))

/-! ### Tables (R136 to R143) -/

/-- Entries of fixed size. -/
def entriesOf (b : List Byte) (size : Nat) : List (List Byte) := (List.range (b.length / size)).map (fun i => (b.drop (size * i)).take size)

def functionsOf (b : List Byte) : List (Nat × Nat × Nat) := (entriesOf (sectionD b 2) 16).map (fun e => (leAt e 0 4, leAt e 4 4, leAt e 8 4))
def paramsOf (b : List Byte) : List Param := (entriesOf (sectionD b 3) 32).map (fun e =>
  { tensorId := leAt e 0 2, layer := leAt e 2 2, key := leAt e 4 4, rows := leAt e 8 4, cols := leAt e 12 4, format := BitVec.ofNat 8 (leAt e 16 1),
    group := leAt e 17 1, frozen := bitOf (leAt e 18 2) 0, migratable := bitOf (leAt e 18 2) 1 })
def tensorsOf (b : List Byte) : List TensorEntry := (entriesOf (sectionD b 4) 32).map (fun e =>
  { id := leAt e 0 2, kind := leAt e 2 2, rows := leAt e 4 4, cols := leAt e 8 4, format := BitVec.ofNat 8 (leAt e 12 1),
    slotMask := BitVec.ofNat 32 (leAt e 16 4) })
def layersOf (b : List Byte) : List Nat := (entriesOf (sectionD b 5) 2).map (fun e => leAt e 0 2)
def importsOf (b : List Byte) : List (Nat × Nat) := (entriesOf (sectionD b 6) 4).map (fun e => (leAt e 0 2, leAt e 2 2))

/-- Whether every element is unlike those before it. -/
def distinct (l : List Nat) : Bool := l.eraseDups.length = l.length

/-- Entries in form: functions, parameters, tensors (R135 to R137). Their reserved bits and bytes are ignored (R12). -/
def functionOk (b : List Byte) (f : List Byte) : Bool :=
  decide (leAt f 0 4 + leAt f 4 4 ≤ (sectionD b 1).length / 16) && decide (leAt f 8 4 ≤ 1)
def paramOk (e : List Byte) : Bool :=
  leAt e 0 2 ≠ 0xFFFF && decide (1 ≤ leAt e 8 4) && decide (leAt e 8 4 ≤ 2 ^ 31) && decide (1 ≤ leAt e 12 4) && decide (leAt e 12 4 ≤ 2 ^ 31) &&
    decide (leAt e 16 1 ≤ 16)
def tensorOk (e : List Byte) : Bool :=
  leAt e 0 2 ≠ 0xFFFF && decide (leAt e 2 2 ≤ 3) && decide (leAt e 12 1 ≤ 16)

/-- Entry by entry. -/
def eachEntry (es : List (List Byte)) (ok : List Byte → Bool) (code : Nat) : Option (Nat × Nat) :=
  firstFault (es.zipIdx.map (fun (x : List Byte × Nat) => need (ok x.1) code x.2))

/-- The OFFSET of a section. -/
def sectionOffset (b : List Byte) (t : Nat) : Nat := match (sectionList b).find? (fun x => x.1 = t) with | some x => x.2.2 | none => 0

/-- The position of the first element that stands in the list before it. -/
def firstRepeat (l : List Nat) : Nat := (l.zipIdx.find? (fun (x : Nat × Nat) => (l.take x.2).contains x.1)).elim 0 (fun x => x.2)

def checkTables (b : List Byte) : Option (Nat × Nat) :=
  let ps := paramsOf b
  let ids := ps.map Param.tensorId ++ (tensorsOf b).map TensorEntry.id
  firstFault [
    eachEntry (entriesOf (sectionD b 2) 16) (functionOk b) 0x0102, eachEntry (entriesOf (sectionD b 3) 32) paramOk 0x0102,
    eachEntry (entriesOf (sectionD b 4) 32) tensorOk 0x0102, need (decide (ids.length ≤ 8192)) 0x0102 (sectionOffset b 3),
    need (distinct ids) 0x0102 (firstRepeat ids), need (distinct (ps.map Param.key)) 0x0107 (firstRepeat (ps.map Param.key))]

def checkLayers (b : List Byte) : Option (Nat × Nat) :=
  let ls := layersOf b
  firstFault (need (distinct ls && decide (1 ≤ ls.length) && decide (ls.length ≤ 4096)) 0x0102 (sectionOffset b 5) ::
    (paramsOf b).zipIdx.map (fun (x : Param × Nat) => need (ls.contains x.1.layer) 0x0109 x.2))

/-! ### The numeric policy (R142, R384, R452) -/

def policyF (p : List Byte) (o : Nat) : F32 := BitVec.ofNat 32 (leAt p o 4)
def finite32 (x : F32) : Bool := decide (x.toNat / 2 ^ 23 % 2 ^ 8 < 255)
def negative32 (x : F32) : Bool := decide (2 ^ 31 < x.toNat)
/-- Finite and not below 0; positive; a positive normal number. -/
def nonNeg (x : F32) : Bool := finite32 x && !negative32 x
def positive32 (x : F32) : Bool := !isNan32 x && !negative32 x && !isZero32 x
def posNormal (x : F32) : Bool := nonNeg x && decide (2 ^ 23 ≤ x.toNat % 2 ^ 31)
def zeros (p : List Byte) (o n : Nat) : Bool := ((p.drop o).take n).all (fun x => x = 0)

/-- The ranges of the OPTIMIZER record (R384): offset in POLICY, and whether the field there is in range. -/
def optimizerRanges (p : List Byte) : List (Nat × Bool) :=
  let f := policyF p
  let below := fun (x : F32) => nonNeg x && flt32 x 0x3F800000
  let unit := fun (x : F32) => positive32 x && !flt32 0x3F800000 x
  [(0x40, leAt p 0x40 4 = 1), (0x44, below (f 0x44)), (0x48, unit (f 0x48)), (0x4C, below (f 0x4C)), (0x50, unit (f 0x50)),
   (0x54, posNormal (f 0x54)), (0x58, nonNeg (f 0x58)), (0x5C, posNormal (f 0x5C)),
   (0x60, posNormal (f 0x60) || f 0x60 = 0x7F800000), (0x64, zeros p 0x64 28)]

/-- The ranges of the RISK record (R452). -/
def riskRanges (p : List Byte) : List (Nat × Bool) :=
  let f := policyF p
  let smin := leAt p 0x94 4
  let smax := leAt p 0x98 4
  [(0x80, nonNeg (f 0x80)), (0x84, nonNeg (f 0x84)), (0x88, positive32 (f 0x88)), (0x8C, positive32 (f 0x8C)),
   (0x90, decide (1 ≤ leAt p 0x90 4) && decide (leAt p 0x90 4 ≤ 86400)), (0x94, decide (1 ≤ smin) && decide (smin ≤ 2 ^ 24)),
   (0x98, smax = 0 || decide (smin ≤ smax)), (0x9C, decide (1 ≤ leAt p 0x9C 2) && decide (leAt p 0x9C 2 ≤ 1024)),
   (0x9E, decide (1 ≤ leAt p 0x9E 2))] ++
  (List.range 10).map (fun i => (0xA0 + 4 * i, nonNeg (f (0xA0 + 4 * i)))) ++ [(0xC8, zeros p 0xC8 56)]

def bandOk (lo hi : F32) : Bool := !isNan32 lo && !isNan32 hi && !negative32 lo && !flt32 hi lo

/-- POLICY_RANGE, FAULT_DETAIL the offset in POLICY of the first field out of range (R142). -/
def checkPolicy (b : List Byte) : Option (Nat × Nat) :=
  let p := sectionD b 7
  let mask := fun (v : Nat) (fs : List FieldRow) => decide (BitVec.ofNat 32 v &&& ~~~(fs.foldl (fun (m : Word) f => m ||| rowMask f) 0) = 0)
  let bands := (List.range 256).map (fun g => (0x100 + 8 * g, bandOk (policyF p (0x100 + 8 * g)) (policyF p (0x104 + 8 * g))))
  firstFault (([(0x00, mask (leAt p 0 4) ((blockRows .st).filter (fun f => f.off = 0x040))),
      (0x08, mask (leAt p 8 4) ((blockRows .mx).filter (fun f => f.off = 0x040))),
      (0x0E, decide (leAt p 0x0E 1 ≤ 1)), (0x0F, zeros p 0x0F 49)] ++ optimizerRanges p ++ riskRanges p ++ bands).map
    (fun (x : Nat × Bool) => need x.2 0x010A x.1))

/-- The policy as the machine keeps it. -/
def policyOf (b : List Byte) : Policy :=
  let p := sectionD b 7
  let f := policyF p
  { stCtrl := f 0, satLimit := f 4, mxCtrl := f 8, ratioWarmup := leAt p 0x0C 2, roundAct := leAt p 0x0E 1, beta1 := f 0x44, beta1c := f 0x48,
    beta2 := f 0x4C, beta2c := f 0x50, eps := f 0x54, wd := f 0x58, gradScale := f 0x5C, clipNorm := f 0x60, rhoPrior := f 0x80,
    rhoFloor := f 0x84, rhoSuspect := f 0x88, eSecure := f 0x8C, halfLife := leAt p 0x90 4, secureMin := leAt p 0x94 4,
    secureMax := leAt p 0x98 4, lagBand := leAt p 0x9C 2, lagSteps := leAt p 0x9E 2,
    weights := (List.range 10).map (fun i => f (0xA0 + 4 * i)), bands := (List.range 256).map (fun g => (f (0x100 + 8 * g), f (0x104 + 8 * g))) }

/-! ### Imports (R143, R209) -/

/-- The routines of the resident library, of numeric level 1 (R209, R217). -/
def routineIds : List Nat :=
  [0x0101, 0x0102, 0x0103, 0x0201, 0x0202, 0x0203, 0x0204, 0x0301, 0x0302, 0x0303, 0x0304, 0x0305, 0x0306, 0x0401, 0x0402, 0x0403, 0x0501, 0x0502,
   0x0503, 0x0601, 0x0F01, 0x0F02]

def checkImports (b : List Byte) : Option (Nat × Nat) :=
  firstFault ((importsOf b).zipIdx.map (fun (x : (Nat × Nat) × Nat) => need (routineIds.contains x.1.1 && decide (x.1.2 ≤ 1)) 0x0106 x.2))

/-! ### Code (R144 to R150, R182) -/

/-- One Kweus instruction (R145): operation, MOD, MOD2, MARK, and the four slots as kind and index. -/
structure Kw where
  op : Nat
  mod : Nat
  mod2 : Nat
  mark : Word
  dst : Nat × Nat
  a : Nat × Nat
  b : Nat × Nat
  c : Nat × Nat
  deriving DecidableEq, Repr

def slotOf (e : List Byte) (o : Nat) : Nat × Nat := (leAt e o 2 / 8192, leAt e o 2 % 8192)
def kwOf (e : List Byte) : Kw :=
  { op := leAt e 0 2, mod := leAt e 2 1, mod2 := leAt e 3 1, mark := BitVec.ofNat 32 (leAt e 4 4), dst := slotOf e 8, a := slotOf e 10, b := slotOf e 12, c := slotOf e 14 }
/-- The value of an IMM slot: a signed 13-bit number (R146). -/
def immOf (x : Nat × Nat) : Int := signedOf 13 x.2
def codeOf (b : List Byte) : List Kw := (entriesOf (sectionD b 1) 16).map kwOf

/-- Kinds by role: nothing; a scalar value; an index; a tile or accumulator; any value of a vector operation (R146; log entry 64). -/
def kNone : List Nat := [0]
def kScalar : List Nat := [2, 4, 5]
def kIndex : List Nat := [2, 4]
def kTile : List Nat := [1, 7]
def kVector : List Nat := [1, 2, 4, 5, 7]

/-- The kinds that an opcode takes for DST, A, B and C; none for an opcode that no table gives (R147). -/
def kindsOf (op : Nat) : Option (List Nat × List Nat × List Nat × List Nat) :=
  let n := kNone
  if op = 0x0001 then some (n, [4], n, n)
  else if op = 0x0002 then some (n, kScalar, n, n)
  else if op = 0x0003 ∨ op = 0x0061 ∨ op = 0x0065 ∨ op = 0x0068 ∨ op = 0x0070 then some (n, n, n, n)
  else if op = 0x0010 then some ([1], [3], kIndex, n)
  else if op = 0x0011 then some (n, [1], [3], kIndex)
  else if op = 0x0012 then some ([2], [3], kIndex, n)
  else if op = 0x0013 then some (n, kScalar, kIndex, [3])
  else if op = 0x0014 then some ([1], [3], kIndex, kIndex)
  else if op = 0x0020 then some ([7], [1], [1], n)
  else if op = 0x0033 ∨ op = 0x0038 then some (kTile, kVector, kVector, kVector)
  else if 0x0030 ≤ op ∧ op ≤ 0x0035 ∨ op = 0x0039 then some (kTile, kVector, kVector, n)
  else if op = 0x0036 ∨ op = 0x0037 ∨ 0x003A ≤ op ∧ op ≤ 0x003E ∨ op = 0x0040 then some (kTile, kVector, n, n)
  else if op = 0x0041 then some (kTile, kVector, [4], [2])
  else if op = 0x0042 then some (n, [4], [5], n)
  else if op = 0x0050 then some ([2], kScalar, n, n)
  else if 0x0051 ≤ op ∧ op ≤ 0x005D then some ([2], kScalar, kScalar, n)
  else if op = 0x0060 then some ([0, 2], kScalar, n, n)
  else if op = 0x0062 then some (n, kScalar, kScalar, [6])
  else if op = 0x0063 then some (n, kTile, kScalar, [6])
  else if op = 0x0064 then some (n, [4], n, n)
  else if op = 0x0066 then some ([0, 2], [4], n, n)
  else if op = 0x0067 then some (n, [4], [1, 2, 4, 5], n)
  else if op = 0x0071 then some ([2], kScalar, n, n)
  else if op = 0x0072 then some (n, kTile, [3], kIndex)
  else none

/-- Whether MOD and MOD2 have a meaning for an opcode. -/
def modOk (k : Kw) : Bool :=
  match k.op with
  | 0x0002 => decide (k.mod ≤ 3)
  | 0x0010 => decide (k.mod ≤ 1)
  | 0x0020 => decide (k.mod < 8)
  | 0x0040 => decide (k.mod ≤ 3)
  | 0x0041 => decide (k.mod ≤ 16) && decide (k.mod2 ≤ 3)
  | 0x0039 => decide (k.mod ≤ 8)
  | 0x005A => decide (k.mod ≤ 8)
  | 0x0062 => decide (k.mod ≤ 8)
  | 0x0063 => decide (k.mod ≤ 8) && decide (k.mod2 ≤ 3)
  | 0x0071 => decide (k.mod ≤ 4)
  | _ => true

/-- The position of LABEL number n in a function's code: of two with one number the first, DESIGN CHOICE, log entry 127. -/
def labelAt (code : List Kw) (n : Nat) : Option Nat := code.findIdx? (fun k => k.op = 1 && k.a.1 = 4 && decide (immOf k.a = (n : Int)))

/-- An entry of a list named by an IMM slot; none for a negative one. -/
def immEntry {α : Type} (l : List α) (x : Nat × Nat) : Option α := if immOf x < 0 then none else l[(immOf x).toNat]?

/-- Whether a slot is of a kind given and inside its space (R146, R147). -/
def slotOk (b : List Byte) (code : List Kw) (kinds : List Nat) (x : Nat × Nat) : Bool :=
  kinds.contains x.1 &&
  (match x.1 with
   | 0 => x.2 = 0
   | 3 => decide (x.2 < (paramsOf b).length + (tensorsOf b).length)
   | 5 => decide (x.2 < (sectionD b 8).length / 8)
   | 6 => (labelAt code x.2).isSome
   | _ => true)

/-- One instruction of a function: opcode, operands, what it names (R134, R143, R144, R147). -/
def checkInstr (b : List Byte) (code : List Kw) (k : Kw) (at_ : Nat) : Option (Nat × Nat) :=
  match kindsOf k.op with
  | none => some (0x0113, at_)
  | some (kd, ka, kb, kc) =>
    firstFault [
      need (k.op ≠ 0x0014 || leAt b 6 2 = 1) 0x0113 at_,
      need (slotOk b code kd k.dst && slotOk b code ka k.a && slotOk b code kb k.b && slotOk b code kc k.c && modOk k &&
        (k.dst.1 ≠ 2 || decide (5 ≤ k.dst.2)) &&
        (k.op ≠ 0x0064 || (match immEntry (functionsOf b) k.a with | some f => f.2.2 = 1 | none => false)) &&
        (k.op ≠ 0x0067 || (decide (k.a.2 ≤ 23) && (if k.a.2 ≤ 7 then k.b.1 ≠ 1 else k.b.1 = 1))) &&
        (k.op ≠ 0x0042 || decide (k.a.2 ≤ 255)) && (k.op ≠ 0x0041 || decide (k.b.2 ≤ 255)) &&
        (k.op ≠ 0x0072 || decide (k.b.2 < (paramsOf b).length))) 0x0114 at_,
      need (k.op ≠ 0x0066 || ((importsOf b).map (fun x => x.1)).contains k.a.2) 0x0102 at_]

/-- The instruction at a position. -/
def kwAt (code : List Kw) (i : Nat) : Kw := code.getD i { op := 0, mod := 0, mod2 := 0, mark := 0, dst := (0, 0), a := (0, 0), b := (0, 0), c := (0, 0) }

/-- The nesting depth before each instruction, and whether LOOP and ENDLOOP nest properly (R150). -/
def nesting : List Kw → Nat → Option (List Nat)
  | [], d => if d = 0 then some [] else none
  | k :: r, d =>
    if k.op = 0x0060 then (nesting r (d + 1)).map (fun l => d :: l)
    else if k.op = 0x0061 then (if d = 0 then none else (nesting r (d - 1)).map (fun l => d :: l))
    else (nesting r d).map (fun l => d :: l)

/-- The ENDLOOP that closes the LOOP before position i, and the LOOP that the ENDLOOP at position i closes, in properly nested code. -/
def closeOf (depth : List Nat) (code : List Kw) (i : Nat) : Nat :=
  ((List.range code.length).find? (fun j => i < j && (kwAt code j).op = 0x0061 &&
    depth.getD j 0 = depth.getD i 0 + 1)).getD code.length
def openOf (depth : List Nat) (code : List Kw) (i : Nat) : Nat :=
  ((List.range i).reverse.find? (fun j => (kwAt code j).op = 0x0060 &&
    depth.getD j 0 + 1 = depth.getD i 0)).getD 0

/-- The LOOPs whose bodies hold a position. -/
def bodiesAt (depth : List Nat) (code : List Kw) (i : Nat) : List Nat :=
  (List.range i).filter (fun j => (kwAt code j).op = 0x0060 &&
    decide (i < closeOf depth code j))

/-- A function's structure: nesting, and labels inside bodies that the branch is not in (R150). -/
def checkShape (code : List Kw) (base : Nat) : Option (Nat × Nat) :=
  match nesting code 0 with
  | none => some (0x0102, base)
  | some depth => firstFault (code.zipIdx.map (fun (x : Kw × Nat) =>
      if x.1.op ≠ 0x0062 ∧ x.1.op ≠ 0x0063 then none
      else match labelAt code x.1.c.2 with
        | none => none
        | some t => need ((bodiesAt depth code t).all (fun l => (bodiesAt depth code x.2).contains l)) 0x0111 (base + x.2)))

/-! ### Values read before they are written (R148) -/

/-- The key of a virtual value; none for a slot that names none. vs0 to vs4 are always there (R144). -/
def valueKey (x : Nat × Nat) : List Nat :=
  if x.1 = 1 ∨ x.1 = 7 ∨ (x.1 = 2 ∧ 5 ≤ x.2) then [x.1 * 8192 + x.2] else []
def kwReads (k : Kw) : List Nat :=
  valueKey k.a ++ valueKey k.b ++ valueKey k.c ++ (if k.op = 0x0020 ∧ bitOf k.mod 2 then valueKey k.dst else [])

/-- What a function does to every path through it: the values it reads before writing them, and those written on every path that returns
(none: no path has been found to return). -/
structure Flow where
  exposed : List Nat
  written : Option (List Nat)
  deriving DecidableEq, Repr

/-- The meet of two sets of written values, none being every value. -/
def meetSets (x y : Option (List Nat)) : Option (List Nat) :=
  match x, y with
  | none, z => z
  | z, none => z
  | some p, some q => some (p.filter q.contains)

/-- The positions that may follow position i. -/
def nextOf (depth : List Nat) (code : List Kw) (i : Nat) (k : Kw) : List Nat :=
  match k.op with
  | 0x0060 => [i + 1, closeOf depth code i + 1]
  | 0x0061 => [openOf depth code i + 1, i + 1]
  | 0x0062 => (labelAt code k.c.2).toList ++ (if k.mod = 8 then [] else [i + 1])
  | 0x0063 => (labelAt code k.c.2).toList ++ (if k.mod = 8 then [] else [i + 1])
  | 0x0065 => []
  | 0x0068 => []
  | _ => [i + 1]

/-- One instruction applied to the sets on entry to each position, and to the function's flow so far. The DST of a LOOP counts as written
also on the path on which its count is 0: DESIGN CHOICE, log entry 128. -/
def flowInstr (flows : List Flow) (depth : List Nat) (code : List Kw) (st : Tab (List Nat) × Flow) (x : Kw × Nat) : Tab (List Nat) × Flow :=
  match tFind st.1 x.2 with
  | none => st
  | some have' =>
    let callee := if x.1.op = 0x0064 then flows.getD (immOf x.1.a).toNat { exposed := [], written := none } else { exposed := [], written := some [] }
    let reads := (kwReads x.1 ++ callee.exposed).filter (fun v => !have'.contains v)
    let flow := { st.2 with exposed := st.2.exposed ++ reads.filter (fun v => !st.2.exposed.contains v) }
    match callee.written with
    | none => (st.1, flow)
    | some w =>
      let out := have' ++ (valueKey x.1.dst ++ w).filter (fun v => !have'.contains v)
      let flow := if x.1.op = 0x0065 ∨ x.1.op = 0x0068 then { flow with written := meetSets flow.written (some out) } else flow
      ((nextOf depth code x.2 x.1).foldl (fun t j => tIns t j ((meetSets (tFind t j) (some out)).getD out)) st.1, flow)

/-- A function's flow from the flows of the functions it calls: passes over its code until nothing more can change. -/
def flowOf (flows : List Flow) (code : List Kw) : Flow :=
  let depth := (nesting code 0).getD []
  let pass := fun (t : Tab (List Nat)) => code.zipIdx.foldl (flowInstr flows depth code) (t, { exposed := [], written := none })
  (pass ((List.range (code.length + 2)).foldl (fun t _ => (pass t).1) [(0, [])])).2

/-- The flows of every function, the calls between them followed. -/
def flowAll (funs : List (List Kw)) : Nat → List Flow
  | 0 => funs.map (fun _ => { exposed := [], written := none })
  | n + 1 => funs.map (flowOf (flowAll funs n))

/-- The code of each function. -/
def functionCode (b : List Byte) : List (Nat × List Kw) :=
  (functionsOf b).map (fun f => (f.1, ((codeOf b).drop f.1).take f.2.1))

def checkCode (b : List Byte) : Option (Nat × Nat) :=
  let funs := functionCode b
  let flows := flowAll (funs.map (fun x => x.2)) (funs.length + 2)
  firstFault (
    ((codeOf b).zipIdx.map (fun (x : Kw × Nat) => need (kindsOf x.1.op).isSome 0x0113 x.2)) ++
    (funs.map (fun f => firstFault (f.2.zipIdx.map (fun (x : Kw × Nat) => checkInstr b f.2 x.1 (f.1 + x.2))))) ++
    (funs.map (fun f => checkShape f.2 f.1)) ++
    ((functionsOf b).zip flows).map (fun (x : (Nat × Nat × Nat) × Flow) => need (x.1.2.2 ≠ 0 || x.2.exposed.isEmpty) 0x0114 x.1.1))

/-! ### Native code (R145, R151, R153, R182) -/

/-- The mark of every native command made from instruction index of a function: its MARK, or the default (R145, R182). -/
def kwMark (b : List Byte) (function index : Nat) : Word :=
  let k := (((functionCode b)[function]?).bind (fun f => f.2[index]?)).elim 0 Kw.mark
  if k = 0 then BitVec.ofNat 32 (0x80000000 + function % 2 ^ 11 * 2 ^ 20 + index % 2 ^ 20) else k

/-- The 64 bytes of a command with a given mark. -/
def withMark (m : Word) (c : List Byte) : List Byte := c.take 4 ++ leBytes 4 m.toNat ++ c.drop 8

/-- The descriptor that a stream command names. -/
def descOf : Instr → Option Nat
  | .descLoad _ d _ => some d.toNat | .admitStream _ d _ => some d.toNat | .nextUnit _ d => some d.toNat | .run _ d => some d.toNat
  | .retire _ d => some d.toNat | _ => none

/-- Whether a command is one that translation gives: it spells a command, and uses tokens 0 to 191 and descriptors D0 to D55 (R153). -/
def translates (c : List Byte) : Bool :=
  c.length = 64 && (match spelled 0 c with
    | .command i => (match nativeHdr i with
        | some h => (h.waitCnt = 0 || decide (h.waitTok.toNat ≤ 191)) && (h.sigCnt = 0 || decide (h.sigTok.toNat ≤ 191))
        | none => false) && (match descOf i with | some d => decide (d ≤ 55) | none => true)
    | _ => false)

/-- The checks of a module, in the order of R156, but for those of the width and of resources. -/
def checkModule (b : List Byte) : Option (Nat × Nat) :=
  firstFault [checkHeader b, checkVersion b, checkSections b, checkTables b, checkLayers b, checkPolicy b, checkImports b, checkCode b]

end Sys2Proof.Machine
end

