-- ==== Sys2Proof/Machine/Mailbox.lean ====
section
/-!
DEFINITION. Mailbox.lean: the head-keeper mailbox (R501 to R503) and its requests: image, identity, tally, reset, contexts, memory, fabric map,
job and shard records, restore, the module ring. LOAD stands in Loader.lean.
-/
namespace Sys2Proof.Machine

/-! ### Requests and answers (R501) -/

/-- The response area takes a response, and MB_STATUS reads DONE. -/
def mbAnswer (s : State) (code : Nat) (tag : Dword) (status : Nat) (payload : List Byte) : State :=
  { s with head := { s.head with
      mbStatus := 2
      response := leBytes 2 code ++ leBytes 2 status ++ leBytes 4 payload.length ++ leBytes 8 tag.toNat ++ payload } }

/-- A refusal: its record, and the answer with its fault code. -/
def mbRefuse (s : State) (code : Nat) (tag : Dword) (c : Option Nat) (fault : Nat) : State :=
  mbAnswer (raise s { plainReport fault 2 76 0 with ctx := c }) code tag fault []

/-- Whether a doorbell with this request finds the mailbox ready: H0 up, the mailbox IDLE, and a request that is served now: while the ROM
waits, IMAGE_PUSH, IDENTITY_READ and TALLY_READ, also where it waits after a warm reset and MB_STATUS reads RESETTING; after a fault with effect
MODULE, those and RESET (R442, R484, R490, R493, R501; log entry 65). -/
def mbServes (s : State) (code : Nat) : Bool :=
  let phase := bootPhase s
  s.hdm.h0Up && reachUp s 76 &&
    (if phase = 2 ∨ phase = 6 then (s.head.mbStatus = 0 || s.head.mbStatus = 3) && [1, 2, 3].contains code
     else s.head.mbStatus = 0 && decide (3 ≤ phase) && (!s.head.stopped || [1, 2, 3, 4].contains code))

/-- A request: its header in form, then its own meaning on its payload; none where the payload is malformed (R501, R503). Where the
core that serves it traps, it is answered with the trap's fault code (R477; log entry 67). -/
def mailbox (s : State) (code : Nat) (r : Req) (f : State → List Byte → Option State) : State :=
  if !mbServes s code then s
  else
    let p := r.payload.take r.length.toNat
    let bad := mbRefuse s code r.tag none 0x0706
    if r.status ≠ 0 ∨ p.length < r.length.toNat ∨ 65520 < p.length then bad
    else if r.trap ≠ 0 then mbAnswer s code r.tag r.trap.toNat []
    else match f s p with
      | some t => t
      | none => bad

/-- A context that a request may name: it lives and does not end. -/
def liveCtx (s : State) (c : Nat) : Option Ctx := (ctxAt s c).bind (fun x => if x.ending.isSome then none else some x)

/-- MAILBOX_STATUS_CLEAR: 0 written to MB_STATUS (R501). -/
def mbClear (s : State) : State :=
  if s.hdm.h0Up ∧ s.head.mbStatus = 2 then { s with head := { s.head with mbStatus := 0 } } else s

/-! ### The image (R484, R485) -/

/-- The whole image is there. Running firmware checks it before it writes; the ROM writes it, then checks it (log entry 66). -/
def takeImage (s : State) : Except (Nat × Nat) State :=
  let write := fun (s : State) => setFld { s with head := { s.head with
    flash := s.head.pushed
    pushed := []
    pushing := true } } 76 0x2D ⟨0x050, 1, 1⟩ 1
  if bootPhase s = 2 ∨ bootPhase s = 6 then .ok (write s)
  else match imageFault s s.head.pushed with
    | some f => .error f
    | none => .ok (setFld (write s) 76 0x2D ⟨0x050, 0, 0⟩ 1)

/-- A pushed image is refused: its record, and nothing of it is kept. -/
def dropImage (s : State) (f : Nat × Nat) : State :=
  raise { s with head := { s.head with pushed := [] } } { plainReport f.1 2 76 0x2D with detail := f.2 }

def imagePush (r : Req) (s : State) (p : List Byte) : Option State :=
  let o := leAt p 0 8 % 2 ^ 63
  let data := p.drop 8
  if p.length < 8 ∨ 65504 < data.length ∨ imageLimit < o + data.length then none
  else
    let s := { s with head := { s.head with pushed := memStore s.head.pushed o data } }
    if leAt p 0 8 < 2 ^ 63 then some (mbAnswer s 1 r.tag 0 [])
    else match takeImage s with
      | .ok s => some (mbAnswer s 1 r.tag 0 [])
      | .error f => some (mbAnswer (dropImage s f) 1 r.tag f.1 [])

/-- IMAGE_WRITE_DONE: the write ends; a warm reset that waited goes on; the waiting ROM checks the image (R484, R485). -/
def writeDone (s : State) : State :=
  if !s.head.pushing then s
  else
    let s := setFld { s with head := { s.head with pushing := false } } 76 0x2D ⟨0x050, 1, 1⟩ 0
    if s.head.resetWaits then warmReset { s with head := { s.head with resetWaits := false } }
    else if bootPhase s = 2 then setPhase s 1
    else s

/-! ### Identity and tally (R475, R497, R502) -/

/-- Bytes of the fuse page's fields, 0x040 to 0xB3F, and of the identity sector after them. -/
def fuseBytes : Nat := 0xB00
def identitySize : Nat := fuseBytes + 65536

/-- A byte of what IDENTITY_READ reads. -/
def identityByte (s : State) (o : Nat) : Byte :=
  if o < fuseBytes then BitVec.ofNat 8 ((fuseWord s (0x040 + o / 4 * 4)).toNat / 2 ^ (8 * (o % 4))) else Config.openByte 0 (o - fuseBytes)

def identityRead (r : Req) (s : State) (p : List Byte) : Option State :=
  let o := leAt p 0 4
  let n := leAt p 4 4
  if p.length < 8 ∨ n = 0 ∨ 65520 < n then none
  else some (mbAnswer s 2 r.tag 0 ((List.range (min n (identitySize - o))).map (fun i => identityByte s (o + i))))

def tallyRead (r : Req) (s : State) (p : List Byte) : Option State :=
  if p.length < 12 ∨ leAt p 2 2 ≠ 0 then none
  else (tallyBytes s (leAt p 0 1) (leAt p 1 1) (leAt p 4 4) (leAt p 8 4)).map (fun b => mbAnswer s 3 r.tag 0 b)

/-- RESET gets no response; one that waits for the flash leaves the mailbox BUSY (R485, R490). -/
def resetRequest (s : State) (_ : List Byte) : Option State := some (warmReset { s with head := { s.head with mbStatus := 1 } })

/-! ### Contexts (R270, R271, R491) -/

/-- Allocatable stack pages (R255). -/
def allocatable (s : State) : Nat := ((List.range 144).filter (stackPresent s)).foldl (fun n k => n + (stackPages - firstPage k)) 0

/-- The fields of CONTEXT_CREATE in range (R270, R503). -/
def createOk (p : List Byte) : Bool :=
  let rows := leAt p 4 4
  let tlog := leAt p 0x31 1
  decide (0x40 ≤ p.length) && leAt p 0 4 % 64 = 0 && rows % 64 = 0 && decide (64 ≤ rows) && decide (rows ≤ 2097152) && decide (leAt p 16 1 ≤ 64) &&
    zeros p 17 15 && leAt p 0x28 8 % 64 = 0 && decide (6 ≤ leAt p 0x30 1) && decide (leAt p 0x30 1 ≤ 16) && zeros p 0x32 6 &&
    (if tlog = 0 then leAt p 0x38 8 = 0 else decide (6 ≤ tlog) && decide (tlog ≤ 20) && leAt p 0x38 8 % 64 = 0)

/-- Whether a creation overcommits the module (R271). -/
def overcommits (s : State) (base rows pages windows : Nat) : Bool :=
  let sum := fun (f : Ctx → Nat) => s.ctxs.foldl (fun n x => n + f x.2) 0
  s.ctxs.any (fun x => decide (base < x.2.spBase + x.2.spRows) && decide (x.2.spBase < base + rows)) || decide (2097152 < base + rows) ||
    decide (allocatable s < sum Ctx.stackPages + pages) || decide (64 < sum Ctx.windows + windows) || decide (64 ≤ s.ctxs.length)

def contextCreate (r : Req) (s : State) (p : List Byte) : Option State :=
  if !createOk p then none
  else if overcommits s (leAt p 0 4) (leAt p 4 4) (leAt p 8 4) (leAt p 16 1) then some (mbRefuse s 0x10 r.tag none 0x0302)
  else
    let c := ((List.range 64).find? (fun i => (ctxAt s i).isNone)).getD 0
    let x : Ctx := { spBase := leAt p 0 4, spRows := leAt p 4 4, stackPages := leAt p 8 4, fabricPages := leAt p 12 4, windows := leAt p 16 1,
                     seed := BitVec.ofNat 64 (leAt p 0x20 8), faultRing := leAt p 0x28 8, faultLog2 := leAt p 0x30 1, faultWritten := 0,
                     traceRing := leAt p 0x38 8, traceLog2 := leAt p 0x31 1, traceWritten := 0, traceDropped := 0, objects := [], pt := [],
                     freed := [], loaded := none, ending := none }
    some (mbAnswer (setCtx s c x) 0x10 r.tag 0 (leBytes 8 c))

/-- CONTEXT_END: the response comes when the context is released (R491, R503). -/
def contextEnd (r : Req) (s : State) (p : List Byte) : Option State :=
  let c := leAt p 0 1
  if p.length < 8 ∨ !zeros p 1 7 ∨ (ctxAt s c).isNone then none
  else
    let s := endCtx s c 0 0 true
    some { s with head := { s.head with mbStatus := 1, ending := s.head.ending ++ [(c, r.tag)] } }

/-- Zeros over the scratchpad region of a context on the cores of its layout. -/
def zeroRegion (s : State) (x : Ctx) : State :=
  let sites := match x.loaded with | some l => (List.range l.width).filterMap (siteOf s) | none => []
  sites.foldl (fun s site => scratchSplice s (rowKey site x.spBase) (x.spRows * 128) [] false) s

/-- CONTEXT_RELEASED: with the windows CLOSED and its page moves complete (R269), zeros over what it held; then its quotas, threads and pages are
free (R491). -/
def contextReleased (s : State) (c : Nat) : State :=
  match ctxAt s c with
  | none => s
  | some x =>
    if x.ending.isNone ∨ ctxWindows s c ≠ [] ∨ s.moves.any (fun m => m.ctx = c) then s
    else
      let s := zeroRegion (keepSecure s c) x
      let s := x.pt.foldl (fun s e => zeroPte s e.2) s
      let s := { s with
        ctxs := tDel s.ctxs c
        cores := s.cores.map (fun (k : Nat × Core) => (k.1, { k.2 with
          threads := k.2.threads.map (fun (t : Nat × Thread) => if t.2.holder = some c then (t.1, freshThread) else t)
          lock := k.2.lock.filter (fun t => (tGet freshThread k.2.threads t).holder ≠ some c) })) }
      match s.head.ending.find? (fun e => e.1 = c) with
      | none => s
      | some (_, tag) => mbAnswer { s with head := { s.head with ending := s.head.ending.filter (fun e => e.1 ≠ c) } } 0x11 tag 0 []

/-! ### Memory (R258, R262) -/

def allocRequest (r : Req) (s : State) (p : List Byte) : Option State :=
  let c := leAt p 0 1
  if p.length < 48 ∨ !zeros p 1 7 ∨ !zeros p 22 2 ∨ (liveCtx s c).isNone then none
  else match allocate s c (parseAlloc (p.drop 8)) with
    | .ok (s, base) => some (mbAnswer s 0x12 r.tag 0 (leBytes 8 base))
    | .error f => some (mbRefuse s 0x12 r.tag (some c) f)

def freeRequest (r : Req) (s : State) (p : List Byte) : Option State :=
  let c := leAt p 0 1
  if p.length < 16 ∨ !zeros p 1 7 ∨ (liveCtx s c).isNone then none
  else (freeObject s c (leAt p 8 8)).map (fun s => mbAnswer s 0x13 r.tag 0 [])

/-- Whether a page or a move names a fabric-map entry. -/
def entryInUse (s : State) (e : Nat) : Bool :=
  s.ctxs.any (fun x => x.2.pt.any (fun y => y.2.fabric && y.2.place = e)) || s.moves.any (fun m => m.fabric && m.place = e)

/-- FABRIC_MAP: an entry no page or move names takes a target, or is unmapped (R258, R503). DESIGN CHOICE (log entry 154): PBR_ID bits 15 to 12, which
no rule gives a use, refuse the request with 0x0706 where one is set, since no module has such a PBR ID. -/
def fabricMap (r : Req) (s : State) (p : List Byte) : Option State :=
  let e := leAt p 0 1
  let kind := leAt p 1 1
  let pbr := leAt p 2 2
  let base := leAt p 8 8
  if p.length < 16 ∨ ¬(kind = 0 ∨ kind = 1 ∨ kind = 0xFF) ∨ 2 ^ 12 ≤ pbr ∨ base % 2 ^ 21 ≠ 0 ∨ entryInUse s e then none
  else
    let map := if kind = 0xFF then tDel s.head.fabricMap e else tIns s.head.fabricMap e (pbr, base, leAt p 4 4, kind)
    some (mbAnswer { s with head := { s.head with fabricMap := map } } 0x14 r.tag 0 [])

/-! ### The job (R381, R415) -/

/-- Bytes of the job record. -/
def jobSize : Nat := 0x40040

/-- JOB_MAP: PBR ID and FABRIC_BASE by port and module; 0xFFFF is none. -/
def jobMap (b : Mem) (n : Nat) : Tab (Nat × Dword) :=
  ((List.range 4).map (fun p => (List.range n).filterMap (fun m =>
    let e := memBytes b (0x40 + p * 65536 + m * 16) 16
    if leAt e 0 2 = 0xFFFF then none else some (p * 4096 + m, (leAt e 0 2, BitVec.ofNat 64 (leAt e 8 8)))))).flatten

/-- The job record from its bytes. -/
def parseJob (b : Mem) : Job :=
  let h := memBytes b 0 8
  { tag := BitVec.ofNat 16 (leAt h 0 2), modules := leAt h 2 2, index := leAt h 4 2, ringMode := leAt h 6 1, trainCtx := leAt h 7 1,
    map := jobMap b (leAt h 2 2) }

/-- Whether a byte of the record is reserved: bytes 8 to 63, and bytes 2 to 7 of each JOB_MAP entry (R415). -/
def jobReserved (a : Nat) : Bool :=
  if a < 64 then decide (8 ≤ a) else decide (2 ≤ a % 16) && decide (a % 16 < 8)

/-- Fields in range and reserved bytes 0 (R415, R503): of a PBR_ID above 0xFFF only 0xFFFF is in range. -/
def jobForm (b : Mem) (j : Job) : Bool :=
  decide (1 ≤ j.modules) && decide (j.modules ≤ 4096) && decide (j.index < j.modules) && decide (j.ringMode ≤ 1) && decide (j.trainCtx ≤ 63) &&
    b.all (fun x => !jobReserved x.1) && j.map.all (fun x => decide (x.2.1 < 2 ^ 12))

/-- What a job record must keep (R415). -/
def jobOk (s : State) (j : Job) : Bool :=
  let enabled := [0, 1, 2, 3].filter (fun p => portPresent s p && decide (fld s (72 + p) 0x20 ⟨0x040, 0, 0⟩ = 1))
  let shared := fun (p : Nat) => distinct ((j.map.filter (fun x => x.1 / 4096 = p)).map (fun x => x.2.1))
  j.tag ≠ 0 && (match s.head.shard with | some h => h.modules = j.modules && h.index = j.index | none => true) &&
    enabled.all (fun p => (tFind j.map (p * 4096 + j.index)).isSome) && [0, 1, 2, 3].all shared

def jobRequest (r : Req) (s : State) (p : List Byte) : Option State :=
  let o := leAt p 0 4 % 2 ^ 31
  let data := p.drop 8
  if p.length < 8 ∨ leAt p 4 4 ≠ 0 ∨ jobSize < o + data.length then none
  else
    let s := { s with head := { s.head with jobPart := memStore s.head.jobPart o data } }
    if leAt p 0 4 < 2 ^ 31 then some (mbAnswer s 0x16 r.tag 0 [])
    else
      let j := parseJob s.head.jobPart
      let form := jobForm s.head.jobPart j
      let s := { s with head := { s.head with jobPart := [] } }
      if !form then some (mbRefuse s 0x16 r.tag none 0x0706)
      else if !jobOk s j then some (mbRefuse s 0x16 r.tag none 0x050C)
      else
        let s := { s with head := { s.head with job := some j } }
        some (mbAnswer ([0, 1, 2, 3].foldl updateService s) 0x16 r.tag 0 [])

def shardRequest (r : Req) (s : State) (p : List Byte) : Option State :=
  let n := leAt p 0x28 2
  if p.length < 48 ∨ n = 0 ∨ 4096 < n ∨ n ≤ leAt p 0x2A 2 ∨ leAt p 0x2C 4 ≠ 0 then none
  else
    let h : Shard := { genA := leAt p 0 8, genB := leAt p 8 8, serveA := leAt p 16 8, serveB := leAt p 24 8, sums := leAt p 32 8, modules := n,
                       index := leAt p 0x2A 2 }
    some (mbAnswer { s with head := { s.head with shard := some h } } 0x17 r.tag 0 [])

/-! ### RESTORE (R462, R463; layouts: log entry 46) -/

/-- Whether a slot's round is restorable: sealed, and the step after its GEN_STEP has committed (R463). -/
def mayRestore (x : SecureSlot) : Bool := x.isSealed && x.restorable

/-- The slot of the newest restorable round. -/
def newestRestorable (s : State) : Option Nat :=
  let a := secSlot s 0
  let b := secSlot s 1
  if mayRestore a && mayRestore b then (if a.round < b.round then some 1 else some 0)
  else if mayRestore a then some 0 else if mayRestore b then some 1 else none

/-- What a slot's SNAP holds, and its stained granules: kept from the training context that ended, or in the one that lives. -/
def snapOf (s : State) (c : Nat) (l : Loaded) (x : SecureSlot) : Mem × List Nat :=
  if s.secure.planned then (match ctxAt s c with
    | some y => (ctxSlice s y x.snap (snapBytes s l), ctxStains s y x.snap (snapBytes s l))
    | none => ([], []))
  else (x.keptSnap, (x.keptStains.filter (fun g => g.1 = 0)).map (·.2))

/-- Fills generation A: the header, then each block of the secured set from where it stands, with its stains (R276). -/
def fillGeneration (s : State) (l : Loaded) (header : List Byte × List Nat) (block : SecBlock → List Byte × List Nat) : State :=
  let put := fun (s : State) (a : Nat) (x : List Byte × List Nat) => stainTrain (trainStore s a x.1) a x.2
  (securedBlocks s l).foldl (fun s b => put s (blockAddr s l 0 b.u b.chunk b.param.frozen) (block b)) (put s (genBase s 0) header)

/-- A part's bytes o to o + n − 1 with their stained granules. -/
def snapPart (m : Mem × List Nat) (o n : Nat) : List Byte × List Nat :=
  (memBytes m.1 o n, (m.2.filter (fun g => o / 64 ≤ g ∧ g < (o + n) / 64)).map (fun g => g - o / 64))

/-- The place of a block in the parity areas under a plan. -/
def restoredOffset (s : State) (l : Loaded) (plan : List Nat) (b : SecBlock) : Nat :=
  ((securedBlocks s l).filter (fun c => plan.contains c.param.tensorId && decide (c.place < b.place))).length * secStride

/-- A block rebuilt from other modules: mirrored tensors from the partner's MIRROR; parity tensors as PARITY exclusive-or the other
seven areas, which follow it in the bytes read. A replacement has no plan of its own: where none stands, the plan is that of priming (R456, R462). -/
def rebuiltBlock (s : State) (l : Loaded) (remote : Mem) (area : Nat) (b : SecBlock) : List Byte :=
  let first := snapBytes s l
  let plan := if s.secure.parityTensors = [] then planParity s l false else s.secure.parityTensors
  if plan.contains b.param.tensorId then
    (List.range 8).foldl (fun (acc : List Byte) i =>
      (acc.zip (memBytes remote (first + i * area + restoredOffset s l plan b) 8256)).map (fun (y : Byte × Byte) => y.1 ^^^ y.2)) (leBytes 8256 0)
  else memBytes remote (8192 + b.place * secStride) 8256

/-- The round restored: GEN_STEP, round number, VERIFY; the verification replay of step s + 1 may follow (R448, R463). -/
def restored (s : State) (tag : Dword) (gen round : Nat) (verify : BitVec 256) : State :=
  let s := { s with step := { s.step with
    verifyStep := some (BitVec.ofNat 32 (gen + 1))
    verifyDigest := verify } }
  mbAnswer s 0x18 tag 0 (leBytes 4 gen ++ leBytes 4 round ++ digestBytes verify)

/-- RESTORE (R462, R503): the set restored is this module's own, also where it replaces the module that held the index (log entry 46). -/
def restoreRequest (r : Req) (remote : List Byte) (s : State) (p : List Byte) : Option State :=
  let c := leAt p 0 1
  let slot := leAt p 1 1
  let source := leAt p 2 1
  let want := leAt p 8 4
  let form := decide (16 ≤ p.length) && (slot ≤ 1 || slot = 0xFF) && decide (source ≤ 1) && zeros p 3 1 && zeros p 6 2 && zeros p 12 4 &&
    decide (leAt p 4 2 < 4096) && leAt p 4 2 = myIndex s && c = trainCtx s && (liveCtx s c).isSome && s.head.shard.isSome
  match loadedOf s c with
  | none => none
  | some l =>
    if !form then none
    else if source = 0 then
      match (if slot = 0xFF then newestRestorable s else some slot) with
      | none => none
      | some e =>
        let x := secSlot s e
        if !mayRestore x ∨ (want ≠ 0xFFFFFFFF ∧ want ≠ x.genStep) then none
        else
          let m := snapOf s c l x
          let frozen := snapOf s c l (secSlot s s.secure.frozenIn)
          let s := fillGeneration s l (snapPart m 4096 4096) (fun b => snapPart (if b.param.frozen then frozen else m) (8192 + b.place * secStride) 8256)
          some (restored s r.tag x.genStep x.round x.verify)
    else
      let m := memOf remote
      let h := memBytes m 0 48
      let area := (remote.length - snapBytes s l) / 8
      if remote.length < snapBytes s l ∨ (want ≠ 0xFFFFFFFF ∧ want ≠ leAt h 0 4) then none
      else
        let s := fillGeneration s l (memBytes m 4096 4096, []) (fun b => (rebuiltBlock s l m area b, []))
        some (restored s r.tag (leAt h 0 4) (leAt h 4 4) (digestOf (h.drop 16)))

/-! ### The module ring (R443, R503) -/

def moduleRing (r : Req) (s : State) (p : List Byte) : Option State :=
  if p.length < 16 ∨ leAt p 0 8 % 64 ≠ 0 ∨ leAt p 8 1 < 6 ∨ 16 < leAt p 8 1 ∨ !zeros p 9 7 then none
  else some (deliverHeld (mbAnswer { s with head := { s.head with
    ringAddr := some (leAt p 0 8, leAt p 8 1)
    ringWritten := 0 } } 0x19 r.tag 0 []))

/-! ### A head-keeper core traps (R477) -/

/-- HEAD_KEEPER_TRAP: another core restarts it. Whether it was serving the mailbox's request, and the code of that answer, are open (log
entry 67). -/
def headTrap (s : State) : State :=
  if !reachUp s 76 ∨ s.head.mbStatus ≠ 1 ∨ s.head.resetWaits then s
  else
    let x := drawFree s
    if x.1.toNat < 2 ^ 63 then x.2
    else match x.2.head.ending with
      | (_, tag) :: rest => mbAnswer { x.2 with head := { x.2.head with ending := rest } } 0x11 tag (1 + x.1.toNat % 65535) []
      | [] => x.2

def execMailboxStatusClear (s : State) : Answer := .next (mbClear s)
def execImagePush (r : Req) (s : State) : Answer := .next (mailbox s 0x01 r (imagePush r))
def execImageWriteDone (s : State) : Answer := .next (writeDone s)
def execIdentityRead (r : Req) (s : State) : Answer := .next (mailbox s 0x02 r (identityRead r))
def execTallyRead (r : Req) (s : State) : Answer := .next (mailbox s 0x03 r (tallyRead r))
def execReset (r : Req) (s : State) : Answer := .next (mailbox s 0x04 r resetRequest)
def execContextCreate (r : Req) (s : State) : Answer := .next (mailbox s 0x10 r (contextCreate r))
def execContextEnd (r : Req) (s : State) : Answer := .next (mailbox s 0x11 r (contextEnd r))
def execContextReleased (ctx : BitVec 6) (s : State) : Answer := .next (contextReleased s ctx.toNat)
def execAlloc (r : Req) (s : State) : Answer := .next (mailbox s 0x12 r (allocRequest r))
def execFree (r : Req) (s : State) : Answer := .next (mailbox s 0x13 r (freeRequest r))
def execFabricMap (r : Req) (s : State) : Answer := .next (mailbox s 0x14 r (fabricMap r))
def execJobRecord (r : Req) (s : State) : Answer := .next (mailbox s 0x16 r (jobRequest r))
def execShardRecord (r : Req) (s : State) : Answer := .next (mailbox s 0x17 r (shardRequest r))
def execRestore (r : Req) (remote : List Byte) (s : State) : Answer := .next (mailbox s 0x18 r (restoreRequest r remote))
def execModuleRing (r : Req) (s : State) : Answer := .next (mailbox s 0x19 r (moduleRing r))
def execHeadKeeperTrap (_core : BitVec 2) (s : State) : Answer := .next (headTrap s)

end Sys2Proof.Machine
end

