-- ==== Sys2Proof/Machine/Loader.lean ====
section
/-!
DEFINITION. Loader.lean: LOAD (R129, R142, R151 to R156, R503): the checks, the load record, and the start of the context on its cores.
-/
namespace Sys2Proof.Machine

/-- LOAD's payload (R503). -/
structure LoadReq where
  ctx : Nat
  threads : Nat
  width : Nat
  replay : Bool
  index : Nat
  modules : Nat
  bytes : Nat
  record : Nat
  ring : Nat
  tiles : Nat
  rate : Nat
  budgets : List Nat
  weights : List Nat
  deriving DecidableEq, Repr

def parseLoad (p : List Byte) : LoadReq :=
  { ctx := leAt p 0 1, threads := leAt p 1 1, width := leAt p 2 1, replay := bitOf (leAt p 3 1) 0, index := leAt p 4 2, modules := leAt p 6 2,
    bytes := leAt p 0x10 8, record := leAt p 0x18 8, ring := leAt p 0x20 4, tiles := leAt p 0x24 1, rate := leAt p 0x28 4,
    budgets := [leAt p 0x2C 4, leAt p 0x30 4, leAt p 0x34 4, leAt p 0x38 4], weights := (List.range (leAt p 2 1)).map (fun k => leAt p (0x40 + k) 1) }

/-- The fields that the mailbox checks (R503); the loader's own range errors stand in the load record. -/
def loadForm (p : List Byte) : Bool :=
  let q := parseLoad p
  decide (136 ≤ p.length) && decide (1 ≤ q.threads) && decide (q.threads ≤ 16) && decide (1 ≤ q.width) && decide (q.width ≤ 72) &&
    decide (leAt p 3 1 ≤ 1) && (if q.replay then decide (q.index < q.modules) && decide (q.index < 4096) else q.index = 0 && q.modules = 0) && q.record % 64 = 0 &&
    decide (q.ring < 2 ^ 21) && (q.tiles = 0 || decide (2 ≤ q.tiles) && decide (q.tiles ≤ 64)) && zeros p 0x25 3 && zeros p 0x3C 4 &&
    q.weights.all (fun w => decide (1 ≤ w)) && zeros p (0x40 + q.width) (72 - q.width)

/-- The inputs of translation beside the module's bytes (R151): library level, width, grant, slice weights. -/
def translationInputs (q : LoadReq) : List Nat := [1, q.width, q.threads] ++ q.weights

/-- What translation uses, kept in the ranges of R153 and R155: spill bytes, threads, tokens, descriptors (log entry 15). -/
def translation (q : LoadReq) (image : List Byte) : Nat × Nat × Nat × Nat :=
  let (spill, threads, tokens, descs) := Config.translated image (translationInputs q)
  (spill, 2 + threads % (q.threads - 1), tokens % 193, descs % 57)

/-- The native code (R151): each command carries its Kweus instruction's mark (R182) and stays inside translation's tokens and descriptors
(R153). Which commands they are is open (log entry 15). -/
def nativeOf (q : LoadReq) (image : List Byte) : List (Nat × Nat × List Byte) :=
  ((Config.nativeCode image (translationInputs q)).map (fun c => (c.1, c.2.1, withMark (kwMark image c.1 c.2.1) c.2.2))).filter
    (fun c => translates c.2.2)

/-- The threads of a core that a context may hold: its own, and those that none holds. -/
def openThreads (s : State) (c site : Nat) : List Nat :=
  (List.range 16).filter (fun t => match (threadAt s site t).holder with | none => true | some d => d = c)

/-- The sites of a layout, in the order of its logical cores. -/
def layoutSites (s : State) (width : Nat) : List Nat := (List.range width).filterMap (siteOf s)

/-- The loader's checks in their order (R156): fault code and FAULT_DETAIL. -/
def loadFault (s : State) (q : LoadReq) (x : Ctx) (image : List Byte) : Option (Nat × Nat) :=
  firstFault [
    checkModule image, need (decide (q.width ≤ coreCount s)) 0x0108 0, need (decide (2 ≤ q.threads)) 0x010B 0,
    need (decide ((translation q image).1 ≤ x.spRows * 128)) 0x010B 0,
    need ((layoutSites s q.width).all (fun site => decide (q.threads ≤ (openThreads s q.ctx site).length))) 0x010B 0]

/-- The load record of a refusal: STATUS, the library's level, FAULT_DETAIL and the image's MODULE_ID (R133, R156); its other fields have no
value (log entry 63). -/
def refusedRecord (s : State) (image : List Byte) (f : Nat × Nat) : List Byte :=
  let blank := (List.range 68).map (Config.openByte (s.freeCount + 1))
  let moduleId := if 32 ≤ image.length then (image.drop 16).take 16 else (blank.drop 32).take 16
  leBytes 2 f.1 ++ leBytes 2 1 ++ leBytes 4 f.2 ++ blank.take 32 ++ moduleId ++ blank.drop 48 ++ leBytes 180 0

/-- The load record of a module loaded (R156). -/
def loadedRecord (q : LoadReq) (image : List Byte) (l : Loaded) : List Byte :=
  let (spill, threads, tokens, descs) := translation q image
  let native := 64 * l.native.length
  leBytes 2 0 ++ leBytes 2 1 ++ leBytes 4 0 ++ digestBytes l.digest ++ l.moduleId ++ leBytes 8 l.handle.toNat ++ leBytes 4 native ++ leBytes 4 spill ++
    leBytes 1 threads ++ leBytes 1 tokens ++ leBytes 1 descs ++ leBytes 1 q.width ++ leBytes 180 0

/-- The module index and ring order that a context's digest covers (R126, R447). -/
def indexOfLoad (s : State) (q : LoadReq) : Nat := if q.replay then q.index else (s.head.job.map Job.index).getD 0
def modulesOfLoad (s : State) (q : LoadReq) : Nat := if q.replay then q.modules else (s.head.job.map Job.modules).getD 0

/-- The layout digest (R126): SHA-256 over the native code, the parameter table, the numeric policy, the library's level, the width, the slice
weights, the module index and the ring order (the number of modules and RING_MODE), each number in four bytes (log entry 129). -/
def layoutDigest (s : State) (q : LoadReq) (image : List Byte) (native : List (Nat × Nat × List Byte)) : BitVec 256 :=
  sha256 ((native.map (fun c => c.2.2)).flatten ++ sectionD image 3 ++ sectionD image 7 ++
    (([1, q.width] ++ q.weights ++ [indexOfLoad s q, modulesOfLoad s q, (s.head.job.map Job.ringMode).getD 0]).map (leBytes 4)).flatten)

/-- The loaded program. -/
def loadedOfReq (s : State) (q : LoadReq) (image : List Byte) (handle : Dword) : Loaded :=
  { handle := handle, width := q.width, weights := q.weights, threads := q.threads, moduleId := (image.drop 16).take 16,
    digest := layoutDigest s q image (nativeOf q image),
    entries := functionsOf image, params := paramsOf image, tensors := tensorsOf image, layers := layersOf image, policy := policyOf image, native := nativeOf q image,
    replay := if q.replay then some (q.index, q.modules) else none }

/-- A thread as a context starts on its core (R188): no register, loop or return point. -/
def startThreadOf (c : Nat) (th : Thread) : Thread := { th with regs := [], loops := [], rets := [], code := none, pc := 0, holder := some c }

/-- A context starts on a core (R57, R84, R93, R188, R297): registers, tokens and descriptors as at reset, ST_STEP 0, and its threads: the lowest
of those it may hold, as many as the grant (log entry 68). -/
def startOnCore (c grant : Nat) (s : State) (site : Nat) : State :=
  let mine := (openThreads s c site).take grant
  let old := (coreAt s site).descs
  let s := old.foldl (fun s d => unpin s d.2.ctx d.2.pins) (modCore s site (fun k => { k with descs := [] }))
  modCore (setRegWord s site 0x14 0x05C 0) site (fun k =>
    let freed := k.threads.map (fun (t : Nat × Thread) => if t.2.holder = some c then (t.1, { t.2 with holder := none }) else t)
    { k with
      threads := mine.foldl (fun ts t => tIns ts t (startThreadOf c (tGet freshThread ts t))) freed
      tokens := []
      lock := k.lock.filter (fun t => (tGet freshThread k.threads t).holder ≠ some c)
      tiles := []
      accs := []
      loaded := none
      stainRows := []
      layerPos := none
      wwPos := 0
      wwOut := []
      wwKept := []
      lagRun := 0 })

/-- Sets the RW fields of a word. -/
def loadWord (s : State) (r p o v : Nat) : State :=
  let m := accMask (rowsAt r p o) .rw
  setRegWord s r p o ((regWord s r p o &&& ~~~m) ||| (BitVec.ofNat 32 v &&& m))

/-- The registers that the loader writes and commits on a core (R142, R323). -/
def loadRegisters (q : LoadReq) (l : Policy) (s : State) (site : Nat) : State :=
  let s := loadCommitted s site 0x14 0x040 l.stCtrl
  let s := loadWord s site 0x14 0x044 l.satLimit.toNat
  let s := loadWord s site 0x12 0x040 l.mxCtrl.toNat
  let s := loadCommitted s site 0x16 0x040 (shadowWord s site 0x16 0x040)
  let s := loadWord (loadWord (loadWord s site 0x16 0x068 q.ring) site 0x16 0x06C q.tiles) site 0x16 0x070 q.rate
  (List.range 4).foldl (fun s i => loadWord s site 0x16 (0x044 + 4 * i) (q.budgets.getD i 0)) s

/-- Whether a context other than c runs a loaded module. -/
def othersLoaded (s : State) (c : Nat) : Bool := s.ctxs.any (fun x => decide (x.1 ≠ c) && x.2.loaded.isSome)

/-- LOAD on its payload. The cores are numbered anew while no other context runs a layout (R14; log entry 68). -/
def loadRequest (r : Req) (image : List Byte) (s : State) (p : List Byte) : Option State :=
  let q := parseLoad p
  match liveCtx s q.ctx with
  | none => none
  | some x =>
    if !loadForm p then none
    else
      let image := image.take q.bytes
      let s := if othersLoaded s q.ctx then s else numberCores s
      match loadFault s q x image with
      | some f =>
        let record := refusedRecord s image f
        let s := raise (drawFree s).2 { plainReport f.1 2 76 0 with ctx := some q.ctx }
        some (mbAnswer (hostStore s q.record record) 0x15 r.tag 0 [])
      | none =>
        let (handle, s) := drawFree s
        let l := loadedOfReq s q image handle
        let s := modCtx s q.ctx (fun x => { x with loaded := some l })
        let sites := layoutSites s q.width
        let s := sites.foldl (startOnCore q.ctx q.threads) s
        let s := sites.foldl (loadRegisters q l.policy) s
        let s := if trainCtx s = q.ctx ∧ !q.replay then setFld s 76 0x29 ⟨0x048, 2, 0⟩ 0 else s
        some (mbAnswer (hostStore s q.record (loadedRecord q image l)) 0x15 r.tag 0 [])

def execLoad (r : Req) (image : List Byte) (s : State) : Answer := .next (mailbox s 0x15 r (loadRequest r image))

end Sys2Proof.Machine
end

