-- ==== Sys2Proof/Machine/Mgmt.lean ====
section
/-!
DEFINITION. Mgmt.lean: attestation over H0 (R498 to R500) and the management interface: I3C and PLDM (R475, R484, R485, R489, R557).
-/
namespace Sys2Proof.Machine

/-! ### Attestation (R498 to R500) -/

/-- IMAGE_DIGEST of the running firmware; zeros while the ROM waits (R498). -/
def runningDigest (s : State) : List Byte :=
  if bootPhase s = 2 ∨ bootPhase s = 6 ∨ s.head.running = [] then leBytes 64 0 else (s.head.running.drop 0x20).take 64

/-- SHA-384 as bytes, most significant first. -/
def sha384Bytes (b : List Byte) : List Byte := (leBytes 48 (Config.sha384 b).toNat).reverse

/-- The bytes of stack k's entry of the fuse page (R495, R508). -/
def stackEntry (s : State) (k : Nat) : List Byte := ((List.range 4).map (fun j => leBytes 4 (fuseWord s (0x240 + 16 * k + 4 * j)).toNat)).flatten

/-- The contents of the measurement blocks, 1 to 7 (R500). -/
def measurements (s : State) : List (List Byte) :=
  [sha384Bytes Config.bootRom,
   runningDigest s,
   leBytes 4 (regWord s 76 0x2D 0x044).toNat ++ leBytes 4 (leAt s.head.running 0x0C 4) ++ leBytes 1 (fld s 76 0x2C ⟨0x05C, 7, 0⟩),
   leBytes 4 (fuseWord s 0x040).toNat ++ leBytes 2 (fuseWord s 0x044).toNat ++ leBytes 4 (fuseWord s 0x048).toNat ++ orderCode s ++
     leBytes 4 (fuseWord s 0x050).toNat ++ leBytes 4 (fuseWord s 0x054).toNat ++ leBytes 1 (fuseWord s 0x058).toNat,
   sha384Bytes (((List.range 144).map (stackEntry s)).flatten),
   leBytes 4 0x01000000 ++ leBytes 2 1,
   leBytes 9 ((serviceSites s).foldl (fun n k => n + 2 ^ k) 0)]

/-- Whether the responder is there: H0 up and its firmware or the ROM serving. -/
def attests (s : State) : Bool := reachUp s 76 && s.hdm.h0Up

/-- A request whose response carries a signature: CHALLENGE, or GET_MEASUREMENTS that asks for one. GET_VERSION starts a connection (the codes
are SPDM 1.3's; log entry 13). -/
def asksSignature (msg : List Byte) : Bool := leAt msg 1 1 = 0x83 || (leAt msg 1 1 = 0xE0 && bitOf (leAt msg 2 1) 0)
def startsConnection (msg : List Byte) : Bool := leAt msg 1 1 = 0x84

/-- What H0's responder offers (R498), as SPDM 1.3 codes it: CERT_CAP, CHAL_CAP, MEAS_CAP with signature, KEY_EX_CAP; SHA-384; Ed25519 (log entry 13). -/
def spdmCaps : Nat := 2 + 4 + 16 + 512
def spdmHash : Nat := 2
def spdmAsym : Nat := 512

/-- The chain of an algorithm: the DevID chain, and after it the alias certificate that the ROM issued for the running firmware; while the ROM waits, the
DevID chain alone (R496 to R498). -/
def aliasChain (s : State) (ml : Bool) : List Byte :=
  Config.devChain ml ++ (if romWaits s then []
    else Config.keyCert ml (identityKey s.head.seed ml none) (Config.publicKey ml (if ml then s.mgmt.ownMl else s.mgmt.ownEd)))

/-- The key that signs: the alias key, or while the ROM waits the DevID key. -/
def signingKey (s : State) (ml : Bool) : List Byte :=
  if romWaits s then identityKey s.head.seed ml none else if ml then s.mgmt.ownMl else s.mgmt.ownEd

/-- A request for measurements (log entry 13). -/
def asksMeasurements (msg : List Byte) : Bool := leAt msg 1 1 = 0xE0

/-- IDE_KM starts or stops IDE on H0 (R413, R498). -/
def ideHost (s : State) (on : Option Bool) : State :=
  match on with
  | none => s
  | some b =>
    let s := setFld s 76 0x20 ⟨0x050, 30, 30⟩ (boolNat b)
    { s with hdm := { s.hdm with everIde := s.hdm.everIde || b } }

/-- IDE_KM starts or stops IDE on a fabric link that is up; after an integrity failure only on one that has retrained (R405, R413). -/
def ideFabric (s : State) (p : Nat) (on : Option Bool) : State :=
  match on with
  | none => s
  | some b => if b && (portAt s p).untrusted then s else updateService (setFld s (72 + p) 0x20 ⟨0x044, 30, 30⟩ (boolNat b)) p

/-- The answer to an SPDM request with a key of this module. -/
def spdmAnswer (s : State) (msg : List Byte) : State :=
  emit (drawFree s).2 (.spdm (Config.spdmResponse s.freeCount [spdmCaps, spdmHash, spdmAsym] (aliasChain s false) (signingKey s false) msg (measurements s)))

/-- SPDM_REQUEST: on H0 the response, and the bytes that a signed one covers (R498, R499); on a fabric port, for IDE_KM only, with the same key, and no
answer to a request for measurements (R405, R498). -/
def spdm (s : State) (r : SpdmReq) : State :=
  match r.port with
  | none =>
    if !attests s then s
    else
      let n := s.freeCount
      let s := spdmAnswer (ideHost s r.ide) r.msg
      if asksSignature r.msg then { s with mgmt := { s.mgmt with signed := some (Config.spdmCovered n r.msg) } }
      else if startsConnection r.msg then { s with mgmt := { s.mgmt with signed := none } }
      else s
  | some p =>
    if !portPresent s p.toNat ∨ !reachUp s (72 + p.toNat) ∨ fld s (72 + p.toNat) 0x20 ⟨0x044, 31, 31⟩ = 0 ∨ romWaits s ∨ asksMeasurements r.msg then s
    else spdmAnswer (ideFabric s p.toNat r.ide) r.msg

/-- A VENDOR_DEFINED response: standard ID PCI-SIG, the maker's vendor ID with its length, one request code, the payload (R499; log entry 13). -/
def vendorResponse (code : Nat) (payload : List Byte) : List Byte :=
  leBytes 2 3 ++ leBytes 1 2 ++ leBytes 2 (Config.vendorId % 65536) ++ leBytes 2 code ++ payload

/-- GET_PQ_CERT: at most 4,000 B of the ML-DSA-65 chain (R499). -/
def pqCert (s : State) (offset : Nat) : State :=
  if attests s then emit s (.spdm (vendorResponse 1 (((aliasChain s true).drop offset).take 4000))) else s

/-- Bytes of an ML-DSA-65 signature (R499). -/
def pqSize : Nat := 3309

/-- GET_PQ_SIGNATURE: the signature over what the connection's last signed response covered; with none before it, an ERROR and 0x0707 (R499). -/
def pqSign (s : State) : State :=
  if !attests s then s
  else match s.mgmt.signed with
    | some b => emit s (.spdm (vendorResponse 2 ((Config.pqSignature (signingKey s true) b ++ leBytes pqSize 0).take pqSize)))
    | none => emit (raise s (plainReport 0x0707 2 76 0)) (.spdm Config.spdmUnexpected)

/-! ### I3C and PLDM (R475, R484, R485, R557) -/

/-- The module has a dynamic address, and answers on it. -/
def managed (s : State) : Bool := reachUp s 76 && s.mgmt.i3c.isSome

/-- ENTDAA gives the module its dynamic address. -/
def entdaa (s : State) (a : BitVec 7) : State := if reachUp s 76 then { s with mgmt := { s.mgmt with i3c := some a } } else s

/-- The offsets of the PW_ registers that sensors mirror, those on the head reach only apart (R538). -/
def sensorOffsets : List Nat := [0x040, 0x044, 0x048, 0x04C, 0x050, 0x054]
def headSensors : List Nat := [0x080, 0x084, 0x088, 0x08C, 0x090]

/-- A sensor's reading: the register it mirrors; PW_VCORE and PW_VIN, which no row sets, are open (log entry 14). -/
def sensorValue (s : State) (r o : Nat) : Nat :=
  if r ≠ 76 ∧ headSensors.contains o then 0
  else if o = 0x054 ∨ o = 0x080 then (Config.sensor r o s.freeCount).toNat
  else (regWord s r 0x02 o).toNat

/-- A numeric sensor read; a reach that is off, or a sensor that is none, gives no reading (log entry 14). -/
def sensorRead (s : State) (r o : Nat) : State :=
  if !managed s ∨ bootPhase s = 2 ∨ bootPhase s = 6 then s
  else if r < 77 ∧ reachUp s r ∧ (sensorOffsets ++ headSensors).contains o then
    emit (drawFree s).2 (.pldm (leBytes 2 (sensorValue s r o)))
  else emit s (.pldm [])

/-- A firmware update delivers a whole image, which goes the way of a pushed one (R484, R485). -/
def pldmImage (s : State) (image : List Byte) : State :=
  if !managed s then s
  else
    let s := { s with head := { s.head with pushed := memOf image } }
    if imageLimit < image.length then emit (dropImage s (0x0703, 0)) (.pldm (leBytes 2 0x0703))
    else match takeImage s with
      | .ok s => emit s (.pldm (leBytes 2 0))
      | .error f => emit (dropImage s f) (.pldm (leBytes 2 f.1))

/-- A tally read through PLDM (R475). -/
def pldmTally (s : State) (region form first count : Nat) : State :=
  if !managed s then s
  else match tallyBytes s region form first count with
    | some b => emit s (.pldm b)
    | none => emit s (.pldm [])

/-- A PLDM reset is a warm reset (R489); the ROM serves none (R484). -/
def pldmWarm (s : State) : State := if !managed s ∨ bootPhase s = 2 ∨ bootPhase s = 6 then s else warmReset s

def execSpdmRequest (r : SpdmReq) (s : State) : Answer := .next (spdm s r)
def execGetPqCert (offset : Nat) (s : State) : Answer := .next (pqCert s offset)
def execGetPqSignature (s : State) : Answer := .next (pqSign s)
def execI3cEntdaa (addr : BitVec 7) (s : State) : Answer := .next (entdaa s addr)
def execPldmSensorRead (reach : BitVec 7) (offset : BitVec 12) (s : State) : Answer := .next (sensorRead s reach.toNat offset.toNat)
def execPldmFirmwareUpdate (image : List Byte) (s : State) : Answer := .next (pldmImage s image)
def execPldmTallyRead (region form : Byte) (first count : Word) (s : State) : Answer :=
  .next (pldmTally s region.toNat form.toNat first.toNat count.toNat)
def execPldmReset (s : State) : Answer := .next (pldmWarm s)

end Sys2Proof.Machine
end

