-- ==== Sys2Proof/Machine/Events.lean ====
section
/-!
DEFINITION. Events.lean: what happens to native commands after their fetch: a wait met, a retirement, a remote signal's arrival, a wait past its
limit, an access to an offline page past it (R91 to R95, R98, R159, R281, R298).
-/
namespace Sys2Proof.Machine

/-- The header and the meaning of a native command. -/
def runNative : Instr → Option (Hdr × Body)
  | .mov h o => some (h, movBody o) | .add h o => some (h, addBody o) | .sub h o => some (h, subBody o)
  | .mul h o => some (h, mulBody o) | .bitAnd h o => some (h, andBody o) | .bitOr h o => some (h, orBody o)
  | .bitXor h o => some (h, xorBody o) | .shl h o => some (h, shlBody o) | .shr h o => some (h, shrBody o)
  | .sra h o => some (h, sraBody o) | .setCond h o => some (h, setBody o) | .fadd h o => some (h, faddBody o)
  | .fmul h o => some (h, fmulBody o) | .fset h o => some (h, fsetBody o)
  | .scalarLoad h o => some (h, loadBody o) | .scalarStore h o => some (h, storeBody o)
  | .product h o => some (h, productBody o) | .sparseProduct h o => some (h, sparseProductBody o)
  | .sparseEncode h o => some (h, sparseEncodeBody o) | .sparseCheck h o => some (h, sparseCheckBody o)
  | .sparseSlotSetup h o => some (h, setupBody 2 0x15 o)
  | .vadd h o => some (h, vaddBody o) | .vsub h o => some (h, vsubBody o) | .vmul h o => some (h, vmulBody o)
  | .vfma h o => some (h, vfmaBody o) | .vmin h o => some (h, vminBody o) | .vmax h o => some (h, vmaxBody o)
  | .vabs h o => some (h, vabsBody o) | .vneg h o => some (h, vnegBody o) | .vsel h o => some (h, vselBody o)
  | .vcmp h o => some (h, vcmpBody o) | .vexp2 h o => some (h, vexp2Body o) | .vlog2 h o => some (h, vlog2Body o)
  | .vrsqrt h o => some (h, vrsqrtBody o) | .vrecip h o => some (h, vrecipBody o) | .vtanh h o => some (h, vtanhBody o)
  | .vred h o => some (h, vredBody o) | .cvt h o => some (h, cvtBody o) | .vectorSlotSetup h o => some (h, setupBody 0 0x13 o)
  | .descLoad h d row => some (h, descLoadBody d row) | .admitStream h d reg => some (h, admitBody d reg)
  | .nextUnit h d => some (h, nextUnitBody d) | .run h d => some (h, runBody d) | .retire h d => some (h, retireBody d)
  | .streamSlotSetup h o => some (h, setupBody 1 0x16 o)
  | .wait h => some (h, waitBody) | .yieldQueue h => some (h, yieldBody) | .barrier h => some (h, barrierBody (.barrier h))
  | .layer h id dir => some (h, layerBody id dir) | .stepBegin h => some (h, stepBeginBody)
  | .call h off => some (h, callBody off) | .returnCmd h => some (h, returnBody) | .enter h e hd => some (h, enterBody e hd)
  | .exitCmd h => some (h, exitBody) | .loop h o => some (h, loopBody o) | .branchScalar h o off => some (h, branchScalarBody o off)
  | .branchTensor h o => some (h, branchTensorBody o (.branchTensor h o))
  | .scalarReduce h dst src op => some (h, scalarReduceBody dst src op (.scalarReduce h dst src op))
  | .gradEmit h o => some (h, gradEmitBody o)
  | .tileProduct h => some (h, tileProductBody) | .stripProduct h => some (h, stripProductBody)
  | .chainProduct h => some (h, chainProductBody) | .attnWindowFwd h => some (h, attnWindowFwdBody h)
  | .attnWindowBwd h => some (h, attnWindowBwdBody h) | .attnGlobalFwd h => some (h, attnGlobalFwdBody h)
  | .attnGlobalBwd h => some (h, attnGlobalBwdBody h) | .rmsnormFwd h => some (h, rmsnormFwdBody) | .rmsnormBwd h => some (h, rmsnormBwdBody)
  | .layernormFwd h => some (h, layernormFwdBody) | .layernormBwd h => some (h, layernormBwdBody)
  | .softmaxFwd h => some (h, softmaxFwdBody) | .softmaxBwd h => some (h, softmaxBwdBody) | .quant h => some (h, quantBody)
  | .dequant h => some (h, dequantBody) | .transcode h => some (h, transcodeBody) | .rowReduce h => some (h, rowReduceBody)
  | .layoutReduce h => some (h, layoutReduceBody (.layoutReduce h)) | .tensorNorm2 h => some (h, tensorNorm2Body)
  | .sparseProductRoutine h => some (h, sparseRoutineBody) | .selfCheck h failing first => some (h, selfCheckBody failing first)
  | .libInfo h => some (h, libInfoBody)
  | _ => none

/-! ### TOKEN_WAIT_MET (R91, R93, R159) -/

/-- A command held at its thread starts, or goes into its engine's queue; one that stalls at a full queue goes in where an entry is free
(log entry 122). -/
def wakeHeld (s : State) (site t : Nat) : State :=
  match threadHead s site t with
  | none => admitThread s site t
  | some (i, q) =>
    match runNative i, issueBase s q with
    | some (h, body), some u =>
      if h.fence && !fenceMet s q then s
      else
        let free := modThread s site t (fun th => { th with waits := .none, held := none })
        match placeOf i with
        | none => if served s site (.thread (BitVec.ofNat 4 t)) h then heedLost (startThread i body h free u) else s
        | some p =>
          if placeDepth p ≤ placeLoad (coreAt s (actOn s u h).site) p then
            modThread s site t (fun th => { th with waits := .queueFull })
          else enterQueue i p body h free u
    | _, _ => s

/-- The lines that a held NEXT or RUN waits for are asked of the host again (R411). -/
def askHeld (s : State) (u : Issue) : Instr → State
  | .nextUnit _ d => askUnits s u d.toNat false
  | .run _ d => askUnits s u d.toNat true
  | _ => s

/-- A thread that stalled for a command's outcome goes on. -/
def outcomeThere (s : State) (u : Issue) (i : Instr) : State :=
  let th := threadAt s u.site u.t
  if stallsThread i ∧ th.waits = .outcome ∧ th.attached = some u.q then goOn (modThread s u.site u.t (fun th => { th with waits := .none })) u
  else s

/-- The command at the head of an engine place starts, after what a RUN before it can start (R296). -/
def wakeEngine (s : State) (site : Nat) (p : Place) : State :=
  let s := match p with | .stream d => resumeRun s site d.toNat | _ => s
  match placeHead (coreAt s site) p with
  | none => s
  | some (i, n) =>
    match runNative i with
    | none => s
    | some (h, body) =>
      match issueBase s h.queue.toNat with
      | none => s
      | some u =>
        if !served s site p h then s
        else
          let a := actOn s u h
          let s := askHeld s a i
          let out := modCore s site (fun c => { c with held := c.held.eraseIdx n })
          match startEngine p body h out a with
          | none => s
          | some s => admitStalled (outcomeThere s u i) site p

def tokenWaitMet (s : State) (site : Nat) (p : Place) : State :=
  if 72 ≤ site ∨ !reachUp s site then s
  else match p with
    | .thread t => wakeHeld s site t.toNat
    | p => wakeEngine s site p

/-! ### ENGINE_COMMAND_RETIRE (R93, R297) -/

/-- The units in flight of a descriptor have one command fewer before them (R298). -/
def passRetired (s : State) (site d : Nat) : State :=
  let x := descAt s site d
  if x.flight = [] then s else setDesc s site d { x with flight := x.flight.map (fun f => (f.1, f.2.1, f.2.2.1, f.2.2.2 - 1)) }

/-- The oldest started command of a place retires: at a descriptor, once the units started before it have completed; a RETIRE once every started unit
has (R297, R298). -/
def engineRetire (s : State) (site : Nat) (p : Place) : State :=
  let c := coreAt s site
  let ready := match p with
    | .stream d => let x := tGet freshDesc c.descs d.toNat; (decide (x.state ≠ 3) || x.flight.isEmpty) && x.flight.all (fun f => f.2.2.2 ≠ 0)
    | _ => true
  match c.started.findIdx? (fun x => x.1 = p) with
  | none => s
  | some n =>
    match c.started[n]? with
    | none => s
    | some (_, h) =>
      if 72 ≤ site ∨ !reachUp s site ∨ !ready then s
      else
        let s := modCore s site (fun c => { c with started := c.started.eraseIdx n })
        let s := match p with | .stream d => passRetired s site d.toNat | _ => s
        match issueBase s h.queue.toNat with
        | none => s
        | some u => if (match ctxAt s u.ctx with | some x => x.ending.isNone | none => false) then retireCmd s (actOn s u h) h (placePage p) else s

/-! ### REMOTE_SIGNAL_ARRIVAL (R94) -/

/-- The oldest signal between two cores arrives, which waits while a link on its way retrains; one for a core that is off, or of a context that is
gone, is dropped. -/
def signalArrives (s : State) (src dst ctx : Nat) : State :=
  let mine := fun (x : Signal) => x.src = src && x.dst = dst && x.ctx = ctx
  match s.mesh.signals.find? mine with
  | none => s
  | some x =>
    let from' := (siteOf s src).getD 76
    let old := s
    let s := { s with mesh := { s.mesh with signals := s.mesh.signals.eraseP mine } }
    match siteOf s dst, ctxAt s ctx with
    | some site, some _ =>
      match routeEnd s site 160 from' with
      | .waits => old
      | .dropped r =>
        raise (dropPacket s r) { code := 0x0405, effect := 1, ctx := some ctx, mark := x.mark, queue := some x.queue, core := some src, site := siteOf s src,
                                 reach := r, page := 0x03, detail := 0 }
      | .arrives =>
        let r := addToken s site x.token x.count
        if r.2 then
          raise r.1 { code := 0x0122, effect := 3, ctx := some ctx, mark := x.mark, queue := some x.queue, core := some src, site := siteOf s src,
                      reach := site, page := 0x11, detail := 0 }
        else r.1
    | _, _ => s

/-! ### SYNC_TIMEOUT and STACK_OFFLINE (R95, R281) -/

/-- Whether a core has a limit on waits. -/
def limited (s : State) (site : Nat) : Bool := !(fld s site 0x11 (wordFld 0x040) = 0 && fld s site 0x11 (wordFld 0x044) = 0)

/-- The waiting command of a place and its issuer, where the wait is one that R95 limits: a token, a fence, or the other cores of its meeting. -/
def timedWait (s : State) (site : Nat) (p : Place) : Option (Hdr × Issue) :=
  let held := fun (i : Instr) => (runNative i).bind (fun x => (issueBase s x.1.queue.toNat).map (fun u => (x.1, u)))
  match p with
  | .thread t =>
    let th := threadAt s site t.toNat
    match th.held with
    | none => none
    | some i => match held i with
      | none => none
      | some (h, u) =>
        if th.waits = .collective then some (h, u)
        else if th.waits = .token ∧ ((h.fence && !fenceMet s u.q) || (testsToken p i && !served s site p h)) then some (h, u)
        else none
  | p => match placeHead (coreAt s site) p with
    | none => none
    | some (i, _) => match held i with
      | none => none
      | some (h, u) => if served s site p h then none else some (h, actOn s u h)

/-- A queue halts at a wait: what of it stands at a meeting leaves it, and the entries its commands held come free. -/
def haltWait (s : State) (u : Issue) (h : Hdr) (code : Nat) (p : Place) : State :=
  let s := haltCmd s u h code (placePage p)
  admitStalled { s with mesh := { s.mesh with
    arrivals := s.mesh.arrivals.filter (fun a => !(a.queue = u.q && a.ctx = u.ctx)) } } u.site p

def syncTimeout (s : State) (site : Nat) (p : Place) : State :=
  if 72 ≤ site ∨ !reachUp s site ∨ !limited s site then s
  else match timedWait s site p with
    | none => s
    | some (h, u) => bump (haltWait s u h 0x0123 p) site 0x11 (wordFld 0x048) 1

/-- Whether a command whose wait is met cannot start since a page it accesses is offline. -/
def offlineAt (s : State) (site : Nat) (p : Place) : Option (Hdr × Issue) :=
  match headWait s site p, (headOf s site p).bind runNative with
  | some h, some (_, body) =>
    match issueBase s h.queue.toNat with
    | none => none
    | some u =>
      let a := match p with | .thread _ => u | _ => actOn s u h
      if !served s site p h then none
      else match (body h (takeToken s site h) a).2 with
        | .blocked true => some (h, a)
        | _ => none
  | _, _ => none

/-- The queue that a thread cannot fetch from since the ring page of its next command is offline. -/
def offlineRing (s : State) (site t : Nat) : Option Issue :=
  match (threadAt s site t).attached.bind (issueBase s) with
  | none => none
  | some u =>
    if threadReady s u && ringOffline s u then some u else none

/-- A RUN under way whose next unit stands on an offline page. -/
def offlineRun (s : State) (site : Nat) (p : Place) : Option (Hdr × Issue) :=
  match p with
  | .stream d =>
    let x := descAt s site d.toNat
    match x.running, x.image with
    | some h, some i => (issueBase s h.queue.toNat).bind (fun u =>
        let a := actOn s u h
        if unitOffline s a i x.nextUnit then some (h, a) else none)
    | _, _ => none
  | _ => none

/-- STACK_OFFLINE: the access is refused and its queue halts. A command not fetched has no mark to report (log entry 69). -/
def stackOfflineAt (s : State) (site : Nat) (p : Place) : State :=
  if 72 ≤ site ∨ !reachUp s site ∨ !limited s site then s
  else match offlineRun s site p, offlineAt s site p with
    | some (h, u), _ =>
      haltWait (match p with | .stream d => setDesc s site d.toNat { descAt s site d.toNat with running := none } | _ => s) u h 0x030A p
    | none, some (h, u) => haltWait s u h 0x030A p
    | none, none => match p with
      | .thread t => (match offlineRing s site t.toNat with
        | some u => raise s { code := 0x030A, effect := 3, ctx := some u.ctx, mark := 0, queue := some u.q, core := some u.core,
                              site := some u.site, reach := u.site, page := 0x10, detail := 0 }
        | none => s)
      | _ => s

def execTokenWaitMet (site : BitVec 7) (place : Place) (s : State) : Answer := .next (tokenWaitMet s site.toNat place)
def execEngineCommandRetire (site : BitVec 7) (place : Place) (s : State) : Answer := .next (engineRetire s site.toNat place)
def execRemoteSignalArrival (src dst : BitVec 7) (ctx : BitVec 6) (s : State) : Answer :=
  .next (signalArrives s src.toNat dst.toNat ctx.toNat)
def execSyncTimeout (site : BitVec 7) (place : Place) (s : State) : Answer := .next (syncTimeout s site.toNat place)
def execStackOffline (site : BitVec 7) (place : Place) (s : State) : Answer := .next (stackOfflineAt s site.toNat place)

end Sys2Proof.Machine
end

