-- ==== Sys2Proof/Machine/Registers.lean ====
section
/-!
DEFINITION. Registers.lean: REGISTER_WRITE (R510 to R515, R520): a host write to BAR0, to the register it lands in; a register that a row of its
own writes does what that row does.
-/
namespace Sys2Proof.Machine

/-- Where a BAR0 address lies: reach (the head page as 77), page, offset; none in a reserved range (R510). -/
def barPlace (a : Nat) : Option (Nat × Nat × Nat) :=
  if a < 0x1000 then some (headPage, 0, a)
  else if a < 0x1000000 ∨ 0x2340000 ≤ a then none
  else some ((a - 0x1000000) / 0x40000, (a - 0x1000000) / 0x1000 % 64, a % 0x1000)

/-- A write to a word of the module's queue scheduler page (R529). -/
def writeQs (s : State) (o : Nat) (v : Word) : State :=
  let q := v.toNat % 2 ^ 20
  if o = 0x040 then
    match v.toNat / 2 ^ 28 with
    | 1 => qsRun s q (fun s => createQueue s q)
    | 2 => qsRun s q (fun s => restartQueue s q)
    | 3 => qsRun s q (fun s => disableQueue s q)
    | 4 => qsRun s q (fun s => enableQueue s q)
    | 5 => qsRun s q (fun s => destroyQueue s q)
    | _ => s
  else if o = 0x06C then peekQueue s q
  else writePlain s 76 0x28 o v

/-- A write to a word of the commit page (R535, R536). -/
def writeCommit (s : State) (o : Nat) (v : Word) : State :=
  let n := v.toNat
  match o with
  | 0x040 => if n % 4 = 1 then stepArm s else if n % 4 = 2 then stepDisarm s else s
  | 0x054 => if n / 2 ^ 30 = 1 then resolve s false 0 else if n / 2 ^ 30 = 2 then resolve s true (n % 2 ^ 12) else s
  | 0x058 => prime s
  | 0x064 => if bitOf n 0 then secureStart s (bitOf n 1) else s
  | 0x068 => secureSeal s
  | 0x074 => setRegWord s 76 0x29 0x074 (BitVec.ofNat 32 (n % 2 ^ 13))
  | _ => writePlain s 76 0x29 o v

/-- A write to a word of a window table's page (R287). -/
def writeWindow (s : State) (r o : Nat) (v : Word) : State :=
  let w := v.toNat % 64
  if o = 0x040 then
    match v.toNat / 64 % 4 with
    | 0 => openWindow s r w
    | 1 => closingWindow s r w
    | 2 => drainCmd s r w
    | _ => abortCmd s r w
  else writePlain s r 0x18 o v

/-- A write to a word of the host port's page: while ENABLE is 1 the other HP_HDM fields take nothing (R410, R439); written while lines of the window before
are still out, they are those of the next one (R412). -/
def writeHost (s : State) (o : Nat) (v : Word) : State :=
  if o = 0x040 then
    if hdmEnabled s then (if bitOf v.toNat 6 then s else hdmDisable s)
    else
      let s := setFld s 76 0x20 ⟨0x040, 5, 0⟩ (v.toNat % 64)
      if bitOf v.toNat 6 then hdmEnable s else s
  else if hdmEnabled s ∧ (o = 0x044 ∨ o = 0x048 ∨ o = 0x04C) then s
  else writePlain s 76 0x20 o v

/-- A write to a word of a page, block by block. -/
def writeBlock (s : State) (r p o : Nat) (v : Word) : State :=
  if o = 0x010 then clearIrq s r p v
  else if o = 0x018 then (if bitOf v.toNat 31 then clearFault s r p else s)
  else if o = 0x024 then (if bitOf v.toNat 0 then commitShadows s r p else s)
  else match blockOf r p with
    | some .qsMod => writeQs s o v
    | some .commit => writeCommit s o v
    | some .wt => writeWindow s r o v
    | some .hp => writeHost s o v
    | some .fp => if o = 0x068 then startBarrier s (r - 72) v.toNat else writePlain s r p o v
    | some .sp => if o = 0x040 then setXbar s r (bitOf v.toNat 0) else if o = 0x04C then xbarWrite s r v else writePlain s r p o v
    | some .pg => if o = 0x048 then raisePeg s 1 none else if o = 0x04C then releasePegs s else writePlain s r p o v
    | some .tl => if o = 0x040 then startLoad s (bitsOf v.toNat 22 20) (v.toNat % 2 ^ 20) else writePlain s r p o v
    | some .bt => if o = 0x04C then (if v = 0x54455352#32 then warmReset s else s) else writePlain s r p o v
    | _ => writePlain s r p o v

/-- One 4-byte write (R510, R513 to R515). -/
def writeWord (s : State) (a : Nat) (v : Word) : State :=
  match barPlace a with
  | some (r, p, o) => hostWrite s r p (fun s => writeBlock s r p o v)
  | none => if s.hdm.h0Up ∧ (bootPhase s = 2 ∨ bootPhase s = 6) then noAnswer s else s

/-- REGISTER_WRITE: 4 bytes aligned, or 8 bytes aligned as two writes, the lower address first; any other access is unsupported (R512). -/
def registerWrite (s : State) (a size : Nat) (v : Dword) : State :=
  if !s.hdm.h0Up then s
  else if size = 4 ∧ a % 4 = 0 then writeWord s a (v.setWidth 32)
  else if size = 8 ∧ a % 8 = 0 then writeWord (writeWord s a (v.setWidth 32)) (a + 4) ((v >>> (32 : Nat)).setWidth 32)
  else emit s .unsupported

def execRegisterWrite (addr : BitVec 26) (size : Byte) (value : Dword) (s : State) : Answer :=
  .next (registerWrite s addr.toNat size.toNat value)

end Sys2Proof.Machine
end

