-- ==== Sys2Proof/Machine/Dispatch.lean ====
section
/-!
DEFINITION. Dispatch.lean: one arm per command.
-/
namespace Sys2Proof.Machine

def exec (i : Instr) (s : State) : Host.Outcome State Fault Refusal :=
  match i with
  | .mov h o => Sys2Proof.Machine.execMov h o s
  | .add h o => Sys2Proof.Machine.execAdd h o s
  | .sub h o => Sys2Proof.Machine.execSub h o s
  | .mul h o => Sys2Proof.Machine.execMul h o s
  | .bitAnd h o => Sys2Proof.Machine.execBitAnd h o s
  | .bitOr h o => Sys2Proof.Machine.execBitOr h o s
  | .bitXor h o => Sys2Proof.Machine.execBitXor h o s
  | .shl h o => Sys2Proof.Machine.execShl h o s
  | .shr h o => Sys2Proof.Machine.execShr h o s
  | .sra h o => Sys2Proof.Machine.execSra h o s
  | .setCond h o => Sys2Proof.Machine.execSetCond h o s
  | .fadd h o => Sys2Proof.Machine.execFadd h o s
  | .fmul h o => Sys2Proof.Machine.execFmul h o s
  | .fset h o => Sys2Proof.Machine.execFset h o s
  | .scalarLoad h o => Sys2Proof.Machine.execScalarLoad h o s
  | .scalarStore h o => Sys2Proof.Machine.execScalarStore h o s
  | .product h o => Sys2Proof.Machine.execProduct h o s
  | .sparseProduct h o => Sys2Proof.Machine.execSparseProduct h o s
  | .sparseEncode h o => Sys2Proof.Machine.execSparseEncode h o s
  | .sparseCheck h o => Sys2Proof.Machine.execSparseCheck h o s
  | .sparseSlotSetup h o => Sys2Proof.Machine.execSparseSlotSetup h o s
  | .vadd h o => Sys2Proof.Machine.execVadd h o s
  | .vsub h o => Sys2Proof.Machine.execVsub h o s
  | .vmul h o => Sys2Proof.Machine.execVmul h o s
  | .vfma h o => Sys2Proof.Machine.execVfma h o s
  | .vmin h o => Sys2Proof.Machine.execVmin h o s
  | .vmax h o => Sys2Proof.Machine.execVmax h o s
  | .vabs h o => Sys2Proof.Machine.execVabs h o s
  | .vneg h o => Sys2Proof.Machine.execVneg h o s
  | .vsel h o => Sys2Proof.Machine.execVsel h o s
  | .vcmp h o => Sys2Proof.Machine.execVcmp h o s
  | .vexp2 h o => Sys2Proof.Machine.execVexp2 h o s
  | .vlog2 h o => Sys2Proof.Machine.execVlog2 h o s
  | .vrsqrt h o => Sys2Proof.Machine.execVrsqrt h o s
  | .vrecip h o => Sys2Proof.Machine.execVrecip h o s
  | .vtanh h o => Sys2Proof.Machine.execVtanh h o s
  | .vred h o => Sys2Proof.Machine.execVred h o s
  | .cvt h o => Sys2Proof.Machine.execCvt h o s
  | .vectorSlotSetup h o => Sys2Proof.Machine.execVectorSlotSetup h o s
  | .descLoad h desc row => Sys2Proof.Machine.execDescLoad h desc row s
  | .admitStream h desc reg => Sys2Proof.Machine.execAdmitStream h desc reg s
  | .nextUnit h desc => Sys2Proof.Machine.execNextUnit h desc s
  | .run h desc => Sys2Proof.Machine.execRun h desc s
  | .retire h desc => Sys2Proof.Machine.execRetire h desc s
  | .streamSlotSetup h o => Sys2Proof.Machine.execStreamSlotSetup h o s
  | .streamUnitComplete site desc late => Sys2Proof.Machine.execStreamUnitComplete site desc late s
  | .wait h => Sys2Proof.Machine.execWait h s
  | .yieldQueue h => Sys2Proof.Machine.execYieldQueue h s
  | .barrier h => Sys2Proof.Machine.execBarrier h s
  | .barrierRelease ctx thread => Sys2Proof.Machine.execBarrierRelease ctx thread s
  | .layer h id direction => Sys2Proof.Machine.execLayer h id direction s
  | .stepBegin h => Sys2Proof.Machine.execStepBegin h s
  | .call h offset => Sys2Proof.Machine.execCall h offset s
  | .returnCmd h => Sys2Proof.Machine.execReturnCmd h s
  | .enter h entry handle => Sys2Proof.Machine.execEnter h entry handle s
  | .exitCmd h => Sys2Proof.Machine.execExitCmd h s
  | .loop h o => Sys2Proof.Machine.execLoop h o s
  | .branchScalar h o offset => Sys2Proof.Machine.execBranchScalar h o offset s
  | .branchTensor h o => Sys2Proof.Machine.execBranchTensor h o s
  | .scalarReduce h dst src op => Sys2Proof.Machine.execScalarReduce h dst src op s
  | .gradEmit h o => Sys2Proof.Machine.execGradEmit h o s
  | .tokenWaitMet site place => Sys2Proof.Machine.execTokenWaitMet site place s
  | .engineCommandRetire site place => Sys2Proof.Machine.execEngineCommandRetire site place s
  | .remoteSignalArrival src dst ctx => Sys2Proof.Machine.execRemoteSignalArrival src dst ctx s
  | .syncTimeout site place => Sys2Proof.Machine.execSyncTimeout site place s
  | .tileProduct h => Sys2Proof.Machine.execTileProduct h s
  | .stripProduct h => Sys2Proof.Machine.execStripProduct h s
  | .chainProduct h => Sys2Proof.Machine.execChainProduct h s
  | .attnWindowFwd h => Sys2Proof.Machine.execAttnWindowFwd h s
  | .attnWindowBwd h => Sys2Proof.Machine.execAttnWindowBwd h s
  | .attnGlobalFwd h => Sys2Proof.Machine.execAttnGlobalFwd h s
  | .attnGlobalBwd h => Sys2Proof.Machine.execAttnGlobalBwd h s
  | .rmsnormFwd h => Sys2Proof.Machine.execRmsnormFwd h s
  | .rmsnormBwd h => Sys2Proof.Machine.execRmsnormBwd h s
  | .layernormFwd h => Sys2Proof.Machine.execLayernormFwd h s
  | .layernormBwd h => Sys2Proof.Machine.execLayernormBwd h s
  | .softmaxFwd h => Sys2Proof.Machine.execSoftmaxFwd h s
  | .softmaxBwd h => Sys2Proof.Machine.execSoftmaxBwd h s
  | .quant h => Sys2Proof.Machine.execQuant h s
  | .dequant h => Sys2Proof.Machine.execDequant h s
  | .transcode h => Sys2Proof.Machine.execTranscode h s
  | .rowReduce h => Sys2Proof.Machine.execRowReduce h s
  | .layoutReduce h => Sys2Proof.Machine.execLayoutReduce h s
  | .tensorNorm2 h => Sys2Proof.Machine.execTensorNorm2 h s
  | .sparseProductRoutine h => Sys2Proof.Machine.execSparseProductRoutine h s
  | .selfCheck h failing firstVector => Sys2Proof.Machine.execSelfCheck h failing firstVector s
  | .libInfo h => Sys2Proof.Machine.execLibInfo h s
  | .doorbellWrite queue size high value => Sys2Proof.Machine.execDoorbellWrite queue size high value s
  | .qsCreate queue => Sys2Proof.Machine.execQsCreate queue s
  | .qsRestart queue => Sys2Proof.Machine.execQsRestart queue s
  | .qsDisable queue => Sys2Proof.Machine.execQsDisable queue s
  | .qsEnable queue => Sys2Proof.Machine.execQsEnable queue s
  | .qsDestroy queue => Sys2Proof.Machine.execQsDestroy queue s
  | .qsCmdDone => Sys2Proof.Machine.execQsCmdDone s
  | .qsPeek queue => Sys2Proof.Machine.execQsPeek queue s
  | .wtOpen site window => Sys2Proof.Machine.execWtOpen site window s
  | .wtClose site window => Sys2Proof.Machine.execWtClose site window s
  | .wtDrain site window => Sys2Proof.Machine.execWtDrain site window s
  | .wtAbort site window => Sys2Proof.Machine.execWtAbort site window s
  | .windowWrite port core window offset data src tag poison => Sys2Proof.Machine.execWindowWrite port core window offset data src tag poison s
  | .windowRead port core window offset len src tag => Sys2Proof.Machine.execWindowRead port core window offset len src tag s
  | .windowWriteLanded site window => Sys2Proof.Machine.execWindowWriteLanded site window s
  | .xbarSet site value => Sys2Proof.Machine.execXbarSet site value s
  | .xbarWordRead site => Sys2Proof.Machine.execXbarWordRead site s
  | .xbarWordWrite site value => Sys2Proof.Machine.execXbarWordWrite site value s
  | .shadowCommit reach page => Sys2Proof.Machine.execShadowCommit reach page s
  | .shadowCommitEffect reach page => Sys2Proof.Machine.execShadowCommitEffect reach page s
  | .faultClear reach page => Sys2Proof.Machine.execFaultClear reach page s
  | .irqStatusClear reach page value => Sys2Proof.Machine.execIrqStatusClear reach page value s
  | .counterReadClear reach page offset => Sys2Proof.Machine.execCounterReadClear reach page offset s
  | .timestampRead reach => Sys2Proof.Machine.execTimestampRead reach s
  | .registerWrite addr size value => Sys2Proof.Machine.execRegisterWrite addr size value s
  | .stepArm => Sys2Proof.Machine.execStepArm s
  | .stepDisarm => Sys2Proof.Machine.execStepDisarm s
  | .resolveCommit => Sys2Proof.Machine.execResolveCommit s
  | .resolveDiscard suspect => Sys2Proof.Machine.execResolveDiscard suspect s
  | .prime => Sys2Proof.Machine.execPrime s
  | .secureStart full => Sys2Proof.Machine.execSecureStart full s
  | .secureSent => Sys2Proof.Machine.execSecureSent s
  | .secureSeal => Sys2Proof.Machine.execSecureSeal s
  | .digestSelect kind module => Sys2Proof.Machine.execDigestSelect kind module s
  | .fpBarrier port id => Sys2Proof.Machine.execFpBarrier port id s
  | .fabricPortEnable port => Sys2Proof.Machine.execFabricPortEnable port s
  | .hdmEnable => Sys2Proof.Machine.execHdmEnable s
  | .hdmDisable => Sys2Proof.Machine.execHdmDisable s
  | .hdmAccess offset write data => Sys2Proof.Machine.execHdmAccess offset write data s
  | .backInvalidateResponse line data => Sys2Proof.Machine.execBackInvalidateResponse line data s
  | .msixUnmask vector => Sys2Proof.Machine.execMsixUnmask vector s
  | .pgTrigger => Sys2Proof.Machine.execPgTrigger s
  | .pegInEdge => Sys2Proof.Machine.execPegInEdge s
  | .pegLatch => Sys2Proof.Machine.execPegLatch s
  | .pgRelease => Sys2Proof.Machine.execPgRelease s
  | .autoRelease => Sys2Proof.Machine.execAutoRelease s
  | .btReset value => Sys2Proof.Machine.execBtReset value s
  | .tlSel region index => Sys2Proof.Machine.execTlSel region index s
  | .tlDataNext => Sys2Proof.Machine.execTlDataNext s
  | .tallyLoadDone => Sys2Proof.Machine.execTallyLoadDone s
  | .mailboxStatusClear => Sys2Proof.Machine.execMailboxStatusClear s
  | .imagePush r => Sys2Proof.Machine.execImagePush r s
  | .imageWriteDone => Sys2Proof.Machine.execImageWriteDone s
  | .identityRead r => Sys2Proof.Machine.execIdentityRead r s
  | .tallyRead r => Sys2Proof.Machine.execTallyRead r s
  | .reset r => Sys2Proof.Machine.execReset r s
  | .contextCreate r => Sys2Proof.Machine.execContextCreate r s
  | .contextEnd r => Sys2Proof.Machine.execContextEnd r s
  | .contextReleased ctx => Sys2Proof.Machine.execContextReleased ctx s
  | .alloc r => Sys2Proof.Machine.execAlloc r s
  | .free r => Sys2Proof.Machine.execFree r s
  | .fabricMap r => Sys2Proof.Machine.execFabricMap r s
  | .load r image => Sys2Proof.Machine.execLoad r image s
  | .jobRecord r => Sys2Proof.Machine.execJobRecord r s
  | .shardRecord r => Sys2Proof.Machine.execShardRecord r s
  | .restore r remote => Sys2Proof.Machine.execRestore r remote s
  | .moduleRing r => Sys2Proof.Machine.execModuleRing r s
  | .gradChunk m => Sys2Proof.Machine.execGradChunk m s
  | .ringAdd port => Sys2Proof.Machine.execRingAdd port s
  | .ringCreditWrite port count => Sys2Proof.Machine.execRingCreditWrite port count s
  | .weightRequest m => Sys2Proof.Machine.execWeightRequest m s
  | .weightData m => Sys2Proof.Machine.execWeightData m s
  | .commitVote m => Sys2Proof.Machine.execCommitVote m s
  | .commit m => Sys2Proof.Machine.execCommit m s
  | .barrierMessage m => Sys2Proof.Machine.execBarrierMessage m s
  | .pegMessage m => Sys2Proof.Machine.execPegMessage m s
  | .mirrorWrite m => Sys2Proof.Machine.execMirrorWrite m s
  | .parityWrite m => Sys2Proof.Machine.execParityWrite m s
  | .replayRequest m => Sys2Proof.Machine.execReplayRequest m s
  | .digest m => Sys2Proof.Machine.execDigest m s
  | .windowOpen m => Sys2Proof.Machine.execWindowOpen m s
  | .windowClose m => Sys2Proof.Machine.execWindowClose m s
  | .refusalRecord port code tag mark addr => Sys2Proof.Machine.execRefusalRecord port code tag mark addr s
  | .peerAbort port tag mark => Sys2Proof.Machine.execPeerAbort port tag mark s
  | .feederFetch port => Sys2Proof.Machine.execFeederFetch port s
  | .weightMulticast port late => Sys2Proof.Machine.execWeightMulticast port late s
  | .multicastAck group source mask => Sys2Proof.Machine.execMulticastAck group source mask s
  | .reductionCombine port level index => Sys2Proof.Machine.execReductionCombine port level index s
  | .mangleChunk port => Sys2Proof.Machine.execMangleChunk port s
  | .pressApply port => Sys2Proof.Machine.execPressApply port s
  | .groupChainEnd group => Sys2Proof.Machine.execGroupChainEnd group s
  | .voteCast busy => Sys2Proof.Machine.execVoteCast busy s
  | .voteTimeout => Sys2Proof.Machine.execVoteTimeout s
  | .replayDone => Sys2Proof.Machine.execReplayDone s
  | .heatEpoch counts => Sys2Proof.Machine.execHeatEpoch counts s
  | .pageMoveDone ok => Sys2Proof.Machine.execPageMoveDone ok s
  | .stackOffline site place => Sys2Proof.Machine.execStackOffline site place s
  | .faultRecord => Sys2Proof.Machine.execFaultRecord s
  | .faultAggregate => Sys2Proof.Machine.execFaultAggregate s
  | .riskTick => Sys2Proof.Machine.execRiskTick s
  | .lockWindowWrap reach page => Sys2Proof.Machine.execLockWindowWrap reach page s
  | .arbiterGrant reach page requests => Sys2Proof.Machine.execArbiterGrant reach page requests s
  | .arbiterWithdrawal reach page => Sys2Proof.Machine.execArbiterWithdrawal reach page s
  | .linkRetry reach dir seq => Sys2Proof.Machine.execLinkRetry reach dir seq s
  | .elasticSlip reach dir => Sys2Proof.Machine.execElasticSlip reach dir s
  | .routeRebuildStart => Sys2Proof.Machine.execRouteRebuildStart s
  | .routeDrainDone => Sys2Proof.Machine.execRouteDrainDone s
  | .plannedOff reach why => Sys2Proof.Machine.execPlannedOff reach why s
  | .clockLoss reach dir => Sys2Proof.Machine.execClockLoss reach dir s
  | .supplyTrip reach => Sys2Proof.Machine.execSupplyTrip reach s
  | .pllUnlock reach => Sys2Proof.Machine.execPllUnlock reach s
  | .reachReturn reach => Sys2Proof.Machine.execReachReturn reach s
  | .keeperRestart reach ok => Sys2Proof.Machine.execKeeperRestart reach ok s
  | .headKeeperTrap core => Sys2Proof.Machine.execHeadKeeperTrap core s
  | .governorDecision g => Sys2Proof.Machine.execGovernorDecision g s
  | .heatRecovery reach => Sys2Proof.Machine.execHeatRecovery reach s
  | .overcurrent => Sys2Proof.Machine.execOvercurrent s
  | .junctionCutoff reach => Sys2Proof.Machine.execJunctionCutoff reach s
  | .coolant flow inlet => Sys2Proof.Machine.execCoolant flow inlet s
  | .inputLoss => Sys2Proof.Machine.execInputLoss s
  | .coldStart straps => Sys2Proof.Machine.execColdStart straps s
  | .imageVerify => Sys2Proof.Machine.execImageVerify s
  | .waveUp => Sys2Proof.Machine.execWaveUp s
  | .ready failed => Sys2Proof.Machine.execReady failed s
  | .refclkLoss => Sys2Proof.Machine.execRefclkLoss s
  | .refclkReturn => Sys2Proof.Machine.execRefclkReturn s
  | .fabricLinkTrained port width speed64 ide pbr base => Sys2Proof.Machine.execFabricLinkTrained port width speed64 ide pbr base s
  | .ideFail port => Sys2Proof.Machine.execIdeFail port s
  | .h0LinkDown => Sys2Proof.Machine.execH0LinkDown s
  | .h0LinkUp width speed64 flit256 ide => Sys2Proof.Machine.execH0LinkUp width speed64 flit256 ide s
  | .spdmRequest r => Sys2Proof.Machine.execSpdmRequest r s
  | .getPqCert offset => Sys2Proof.Machine.execGetPqCert offset s
  | .getPqSignature => Sys2Proof.Machine.execGetPqSignature s
  | .i3cEntdaa addr => Sys2Proof.Machine.execI3cEntdaa addr s
  | .pldmSensorRead reach offset => Sys2Proof.Machine.execPldmSensorRead reach offset s
  | .pldmFirmwareUpdate image => Sys2Proof.Machine.execPldmFirmwareUpdate image s
  | .pldmTallyRead region form first count => Sys2Proof.Machine.execPldmTallyRead region form first count s
  | .pldmReset => Sys2Proof.Machine.execPldmReset s
  | .stackScrub stack hits => Sys2Proof.Machine.execStackScrub stack hits s
  | .fabricLinkDown port => Sys2Proof.Machine.execFabricLinkDown port s

end Sys2Proof.Machine
end

