-- ==== Sys2Proof/Safety.lean ====
section
/-!
DEFINITION. Safety.lean: the terms the statements are written in: the bounds of the module's logs, when a command of a queue, of the host, of
the mailbox or of another module can act, and what a command leaves as it was.
-/
namespace Sys2Proof.Machine

/-! ### The logs and the snoop filter -/

/-- The parts of State that Bounded speaks of. -/
abbrev Logs := List FaultRec × List FaultRec × List (List Byte) × Bool × List (Nat × Bool)

/-- STICKY, FAULT_LOG, STEP_LOG, the header's full bit, and the snoop filter. -/
def logsOf (s : State) : Logs :=
  (s.tally.sticky, s.tally.faultLog, s.tally.stepLog, s.tally.stickyFull, s.hdm.filter)

/-- No log holds more records than its region (R470), STICKY is full where it says so (R471), and the snoop filter tracks at most
2^20 lines (R411). -/
def LogsFit (x : Logs) : Prop :=
  x.1.length ≤ stickySize ∧ x.2.1.length ≤ faultLogSize ∧ x.2.2.1.length ≤ stepLogSize ∧
    (x.2.2.2.1 = true → x.1.length = stickySize) ∧ x.2.2.2.2.length ≤ filterLines

/-- The bounds of a state. -/
def Bounded (s : State) : Prop := LogsFit (logsOf s)

/-! ### Native commands -/

/-- The issuer's next command can be fetched: its queue presents it (R189, R190), the ring line is mapped, on no offline page and unstained
(R257, R278, R281), and every core it names is of the layout and the module (R192, R193). -/
def fetchable (s : State) (u : Issue) (h : Hdr) : Bool :=
  decide (issueOf s h = some u) &&
  (match ctxAt s u.ctx with
    | none => false
    | some x => (threadAt s u.site u.t).code.isSome ||
        (mapped x (headAddr s u) 64 && !offline s x (headAddr s u) 64 && !ctxStained s x (headAddr s u) 64)) &&
  (namedCores h).all (fun k => decide (k < coreCount s) && decide (k < layoutWidth s u.ctx))

/-- A command is the one that stands at HEAD of its queue, or at the position of its thread in a code object (R157, R158; log entry 9). -/
def atRingHead (s : State) (u : Issue) (i : Instr) : Bool := match ringView s u i with | .same => true | _ => false

/-- The fence of a command that its thread runs is met, and its wait (R93, R159). -/
def unheld (s : State) (u : Issue) (h : Hdr) : Bool :=
  (!h.fence || fenceMet s u.q) && served s u.site (.thread (BitVec.ofNat 4 u.t)) h

/-- A command that its thread runs can start now (R158). -/
def threadRuns (s : State) (u : Issue) (h : Hdr) : Bool := fetchable s u h && decide (h.engine = 0) && unheld s u h

/-- A command of an engine queue can enter it and start at once, acting where u says (R91, R92, R93, R158, R160). -/
def engineRuns (s : State) (u : Issue) (h : Hdr) (i : Instr) (p : Place) (engine : Byte) : Bool :=
  match issueBase s h.queue.toNat with
  | none => false
  | some v => decide (actOn s v h = u) && fetchable s v h && atRingHead s v i && decide (h.engine = engine) && (!h.fence || fenceMet s v.q) &&
      served s u.site p h && decide (placeLoad (coreAt s u.site) p < placeDepth p) && atHead (coreAt s u.site).held p i

/-- The state in which a command has been fetched: HEAD past it, QS_FETCHED counted, its thread the last that issued (R90). -/
def afterFetch (s : State) (u : Issue) : State :=
  modCore (bumpWrap (setPos s u ((curPos s u : Nat) + 1)) u.site 0x10 (wordFld 0x040) 1) u.site (fun c => { c with lastIssue := u.t })

/-- The state in which a command's effect begins: fetched, its wait taken, its start traced. -/
def begun (s : State) (u : Issue) (h : Hdr) : State := traceRec (takeToken (afterFetch s u) u.site h) u h 0

/-- A token of the issuer's core after the command: the wait has taken its count and a signal on the own core has added its, up to 65,535
(R93). -/
def tokenAfter (s : State) (u : Issue) (h : Hdr) (k : Nat) : Nat :=
  let v := (tokenOf (coreAt s u.site) k).toNat - (if k = h.waitTok.toNat then h.waitCnt.toNat else 0)
  if !h.sigRemote ∧ k = h.sigTok.toNat then min (v + h.sigCnt.toNat) 65535 else v

/-- What a core holds beside its threads, tokens, engine queues and the turn of its threads. -/
def coreRest (c : Core) : Core := { c with threads := [], tokens := [], held := [], started := [], lastIssue := 0 }
/-- A core without the held commands of one queue, which a halt of that queue removes (R98, R194). -/
def withoutQueue (q : Nat) (c : Core) : Core := { c with held := c.held.filter (fun x => instrQueue x.2 ≠ some q) }
/-- A queue's binding: its ring, context, core and thread, and its trace flag. -/
def bindingOf (e : QEntry) : BitVec 48 × Nat × Nat × Nat × BitVec 4 × Bool := (e.base, e.log2, e.ctx, e.core, e.thread, e.trace)
/-- A context without its trace counters. -/
def untraced (x : Ctx) : Ctx := { x with traceWritten := 0, traceDropped := 0 }
/-- What no command of a thread's own touches beside the machine of its core. -/
def restOf (s : State) : Tally × Tab Port × StepState × Option StepState × Risk × Secure × List PegReq × Power × Mgmt × List Move × Dword × Nat × Nat :=
  (s.tally, s.ports, s.step, s.withheld, s.risk, s.secure, s.pegs, s.power, s.mgmt, s.moves, s.now, s.fine, s.freeCount)

/-- What a command that its thread runs leaves as it was, apart from the scalar registers of that thread: every register word but those of the
issuer's queue scheduler and sync pages and of the head's scheduler page; every other core, but for held commands of the issuer's queue; the core's tiles, accumulators, slots and descriptors;
every other thread; every queue of another thread, and every binding; every context but its trace counters; the fabric ports,
the step, the risk monitor, securing, pegs, power and management, the tally, the clock. -/
structure ThreadFrame (u : Issue) (s t : State) : Prop where
  words : ∀ r p o, p < 64 → o < 4096 → r ≠ u.site → ¬(r = 76 ∧ p = 0x28) → regWord t r p o = regWord s r p o
  ownWords : ∀ p o, p < 64 → o < 4096 → p ≠ 0x10 → p ≠ 0x11 → regWord t u.site p o = regWord s u.site p o
  cores : ∀ a, a ≠ u.site → withoutQueue u.q (coreAt t a) = withoutQueue u.q (coreAt s a)
  units : coreRest (coreAt t u.site) = coreRest (coreAt s u.site)
  threads : ∀ b, b ≠ u.t → threadAt t u.site b = threadAt s u.site b
  bindings : ∀ q, (queueAt t q).map bindingOf = (queueAt s q).map bindingOf
  queues : ∀ q e, queueAt s q = some e → e.core ≠ u.core ∨ e.thread.toNat ≠ u.t → queueAt t q = some e
  ctxs : ∀ c, (ctxAt t c).map untraced = (ctxAt s c).map untraced
  rest : restOf t = restOf s

/-- The memory of the module: stacks, scratchpads, the fabric tier. -/
def sameMemory (s t : State) : Prop :=
  ∀ a, memByte t.store.stack a = memByte s.store.stack a ∧ memByte t.store.scratch a = memByte s.store.scratch a ∧
    memByte t.store.fabric a = memByte s.store.fabric a

/-- The stains of the three tiers. -/
def sameStains (s t : State) : Prop :=
  t.store.stainStack = s.store.stainStack ∧ t.store.stainScratch = s.store.stainScratch ∧ t.store.stainFabric = s.store.stainFabric

/-- The scalar registers of the issuing thread. -/
def sameRegs (u : Issue) (s t : State) : Prop := ∀ i, regOf (threadAt t u.home u.t) i = regOf (threadAt s u.home u.t) i

/-- Whether a command writes a trace record (R183). -/
def isTraced (s : State) (u : Issue) (h : Hdr) : Bool := h.trace || (entryD s u.q).trace

/-- Host memory, where the command is not traced. -/
def sameHost (s t : State) (u : Issue) (h : Hdr) : Prop := isTraced s u h = false → ∀ a, memByte t.store.host a = memByte s.store.host a

/-- What every command of a thread that runs to its end does around its own effect: the frame, the tokens, host memory. -/
def RanAround (s t : State) (u : Issue) (h : Hdr) : Prop :=
  ThreadFrame u s t ∧ (∀ k, (tokenOf (coreAt t u.site) k).toNat = tokenAfter s u h k) ∧ sameHost s t u h

/-- One scalar register of the issuing thread takes v; the others keep their values. -/
def onlyReg (u : Issue) (s t : State) (dst : Nat) (v : Dword) : Prop :=
  ∀ i, regOf (threadAt t u.home u.t) i = if i = dst then v else regOf (threadAt s u.home u.t) i

/-- A command that writes v to a scalar register of its thread, and nothing else but what surrounds every command. -/
def WritesReg (i : Instr) (s : State) (u : Issue) (h : Hdr) (dst : Nat) (v : Dword) : Prop :=
  atRingHead s u i = true → ∃ t, exec i s = .next t ∧ onlyReg u s t dst v ∧ RanAround s t u h ∧ sameMemory s t ∧ sameStains s t

/-- A command that changes neither register nor memory. -/
def OnlySyncs (i : Instr) (s : State) (u : Issue) (h : Hdr) : Prop :=
  atRingHead s u i = true → ∃ t, exec i s = .next t ∧ RanAround s t u h ∧ sameRegs u s t ∧ sameMemory s t ∧ sameStains s t

/-- The token a command signals on its own core stays within 65,535 (R93). -/
def signalFits (s : State) (u : Issue) (h : Hdr) : Bool :=
  h.sigRemote || decide ((tokenOf (coreAt s u.site) h.sigTok.toNat).toNat - (if h.sigTok = h.waitTok then h.waitCnt.toNat else 0) +
    h.sigCnt.toNat ≤ 65535)

/-- The two sources of a scalar command at its thread (R165). -/
def srcA (s : State) (u : Issue) (o : ScalarOps) : Dword := sourceA (threadAt s u.site u.t) o.srcA
def srcB (s : State) (u : Issue) (o : ScalarOps) : Dword := sourceB (threadAt s u.site u.t) o.srcB o.imm

/-- The issuing thread. -/
def ownThread (s : State) (u : Issue) : Thread := threadAt s u.site u.t

/-- Whether the thread has a command to fetch at a position: any in a code object, and on the ring one that is not TAIL. -/
def moreAt (s : State) (u : Issue) (p : Nat) : Bool := (ownThread s u).code.isSome || decide (p ≠ (entryD s u.q).tail)

/-- The position after the next command. -/
def nextPos (s : State) (u : Issue) : Nat := wrapPos s u ((curPos s u : Nat) + 1)

/-- A command that moves its thread's fetch and loops but writes neither register nor memory: what the thread holds afterwards. -/
def Moves (i : Instr) (s : State) (u : Issue) (h : Hdr) (pos : Nat) (loops : List Loop) (rets : List Ret) (code : Option Dword) : Prop :=
  atRingHead s u i = true → ∃ t, exec i s = .next t ∧ curPos t u = pos ∧ (ownThread t u).loops = loops ∧ (ownThread t u).rets = rets ∧ (ownThread t u).code = code ∧
    RanAround s t u h ∧ sameRegs u s t ∧ sameMemory s t ∧ sameStains s t

/-- An arrival of a command at the collective tree (R176, R191, R339). -/
def arrivalOf (u : Issue) (kind op : Nat) (value : Dword) (i : Instr) : Arrival :=
  { kind := kind, ctx := u.ctx, thread := u.t, core := u.core, queue := u.q, op := op, value := value, refused := none, instr := i }

/-- The arrivals of a meeting once one more has come, in ascending logical core; none while a core of the layout is missing. -/
def meetingWith (s : State) (a : Arrival) : Option (List Arrival) :=
  meeting { s with mesh := { s.mesh with arrivals := s.mesh.arrivals ++ [a] } } a.kind a.ctx a.thread a.op

/-- No command of the arrival's core stands in the meeting yet. -/
def othersHere (s : State) (a : Arrival) : Bool := s.mesh.arrivals.all (fun x => !sameMeeting a.kind a.ctx a.thread a.op x || decide (x.core ≠ a.core))

/-- A command that arrives and waits for the other cores: its thread holds it, the tree has its arrival, nothing else of it has happened. -/
def WaitsForOthers (i : Instr) (s : State) (u : Issue) (h : Hdr) (a : Arrival) : Prop :=
  atRingHead s u i = true → ∃ t, exec i s = .next t ∧ (ownThread t u).waits = .collective ∧ (ownThread t u).held = some i ∧
    t.mesh.arrivals = s.mesh.arrivals ++ [a] ∧ ThreadFrame u s t ∧ sameRegs u s t ∧ sameMemory s t ∧ sameHost s t u h

/-! ### Engines -/

/-- What no engine touches beside the core, memory and the step. -/
def engineRest (s : State) : Tally × Option StepState × Risk × Secure × List PegReq × Power × Mgmt × List Move × Dword × Nat × Nat :=
  (s.tally, s.withheld, s.risk, s.secure, s.pegs, s.power, s.mgmt, s.moves, s.now, s.fine, s.freeCount)

/-- What a command of an engine queue that acts where u says leaves as it was: every register word but those of that core's engine pages (0x10 to
0x16), of the issuing core's scheduler page and of the head's scheduler page; every other core, but for held commands of the issuer's queue, and of the issuing core all but its threads; every
other thread; the queues of other threads, and every binding. -/
structure EngineFrame (u : Issue) (s t : State) : Prop where
  words : ∀ r p o, p < 64 → o < 4096 → r ≠ u.site → ¬(r = u.home ∧ (p = 0x10 ∨ p = 0x11)) → ¬(r = 76 ∧ p = 0x28) → regWord t r p o = regWord s r p o
  ownWords : ∀ p o, p < 64 → o < 4096 → p < 0x10 ∨ 0x16 < p → regWord t u.site p o = regWord s u.site p o
  cores : ∀ a, a ≠ u.site → a ≠ u.home → withoutQueue u.q (coreAt t a) = withoutQueue u.q (coreAt s a)
  home : u.home ≠ u.site → coreRest (coreAt t u.home) = coreRest (coreAt s u.home)
  threads : ∀ a b, a ≠ u.home ∨ b ≠ u.t → threadAt t a b = threadAt s a b
  bindings : ∀ q, (queueAt t q).map bindingOf = (queueAt s q).map bindingOf
  queues : ∀ q e, queueAt s q = some e → siteOf s e.core ≠ some u.home ∨ e.thread.toNat ≠ u.t → queueAt t q = some e
  rest : engineRest t = engineRest s

/-- A command that entered its engine queue and started: it stands among the started ones of its place, and its wait took its count (R93). -/
def Started (s t : State) (u : Issue) (h : Hdr) (p : Place) : Prop :=
  (coreAt t u.site).started = (coreAt s u.site).started ++ [(p, h)] ∧
    (∀ k, (tokenOf (coreAt t u.site) k).toNat = (tokenOf (coreAt s u.site) k).toNat - (if k = h.waitTok.toNat then h.waitCnt.toNat else 0)) ∧
    EngineFrame u s t

/-- Whether the sources that a vector operation uses can be read: in range, without a stain in the rows processed, and those in the scratchpad with a frame
slot for the vector engine (R163, R278, R319). -/
def sourcesReady (s : State) (u : Issue) (o : VecOps) (n rows : Nat) : Bool :=
  ([o.a, o.b, o.c].take n).all (fun w => (sourceFault s u o rows w).isNone && !sourceStained s u o rows w && (decide (specKind w ≠ 3) || spServed s u.site 3))

/-- ROWS of a vector operation; 0 means all of the shape's. -/
def vecRows (o : VecOps) (shape : Nat) : Nat := if o.rows = 0 then shape else o.rows.toNat

/-- A vector operation whose result goes to an accumulator: the value of each element of its rows; the other rows, accumulators, tiles, slots and
descriptors, the scalar registers and all memory keep theirs. -/
def ToAccumulator (i : Instr) (s : State) (u : Issue) (h : Hdr) (o : VecOps) (val : Nat → Nat → F32) : Prop :=
  ∃ t, exec i s = .next t ∧ Started s t u h .vector ∧
    (∀ r c, r < vecRows o 1024 → c < 1024 → tGet 0 (accAt (coreAt t u.site) (specAcc o.d)) (r * 1024 + c) = val r c) ∧
    (∀ k, vecRows o 1024 ≤ k / 1024 → tGet 0 (accAt (coreAt t u.site) (specAcc o.d)) k = tGet 0 (accAt (coreAt s u.site) (specAcc o.d)) k) ∧
    (∀ j, j ≠ specAcc o.d → accAt (coreAt t u.site) j = accAt (coreAt s u.site) j) ∧
    (coreAt t u.site).tiles = (coreAt s u.site).tiles ∧ (coreAt t u.site).slots = (coreAt s u.site).slots ∧
    (coreAt t u.site).descs = (coreAt s u.site).descs ∧ sameRegs u s t ∧ sameMemory s t ∧ sameStains s t

/-- What SPARSE_CHECK finds: nothing wrong, or a code and the offset of the byte refused; none where it would read a stain (R240 to R242). -/
def checkVerdict (s : State) (u : Issue) (o : SparseOps) : Option (Option (Nat × Nat)) :=
  if !sparseKnown o.sparseFormat.toNat then some (some (0x0114, 0))
  else if 0x10 < o.product.wFormat.toNat then some (some (0x0120, 0))
  else match readMeta s u o.metaRow.toNat o.sparseFormat.toNat o.product.wFormat with
    | .range => some (some (0x0308, 0))
    | .stained => none
    | .ok m => some (metaCheck o.sparseFormat.toNat o.product.wFormat m)

/-- Whether unit n of a descriptor brings bytes from context memory or a scratchpad into the core's scratchpad and can move now: in range on
both sides (R257), on no offline page (R281), with no line of it at the host (R411), frame slots for the scratchpads it uses (R319), no HOLD at its source
(R332), and a route between its sides (R331). -/
def unitComesIn (s : State) (u : Issue) (d : DescImage) (n : Nat) : Bool :=
  !d.out && decide (d.nearKind = 0) && decide (d.farKind ≠ 3) && !converts d &&
    ((unitPieces d n).findSome? (fun p => farFault s u d (farOf d n + (p.1 : Int)) p.2.2)).isNone && (nearFault s u d n).isNone &&
    !unitOffline s u d n && (unitHost s u d n).isEmpty && unitServed s u d && !unitHeld s u d n && (unitDrop s u d n).isNone

/-- A stream command that leaves its engine's other machinery alone: the frame, the tokens after the wait, the registers. -/
def StreamStep (s t : State) (u : Issue) (h : Hdr) : Prop :=
  EngineFrame u s t ∧ sameRegs u s t ∧
    (∀ k, (tokenOf (coreAt t u.site) k).toNat = (tokenOf (coreAt s u.site) k).toNat - (if k = h.waitTok.toNat then h.waitCnt.toNat else 0))

/-- The codes of the fault records on their way to the head keeper. -/
def inboxCodes (s : State) : List Nat := s.head.inbox.map (fun r => r.code.toNat)

/-! ### Routines -/

/-- The status word of a routine that ran, from the counts before and after it (R207, R208): each count that grew is a warning, and the first of them gives
code and detail. -/
def routineStatus (before after : List Nat) : Dword :=
  let grown := (after.zip before).map (fun (x : Nat × Nat) => x.1 - x.2)
  let warn := (grown.zipIdx.map (fun (x : Nat × Nat) => if x.1 = 0 then 0 else 2 ^ x.2)).foldl (· + ·) 0
  match grown.zipIdx.find? (fun (x : Nat × Nat) => x.1 ≠ 0) with
  | some (n, i) => statusWord (i + 1) 0 warn n
  | none => 0

/-- A routine's two tokens (R200) are 0 after it, but for the signal of its own command. -/
def routineTokens (t : State) (u : Issue) (h : Hdr) : Prop :=
  ∀ k, k = 224 + 2 * u.t ∨ k = 225 + 2 * u.t → h.sigRemote = true ∨ h.sigTok.toNat ≠ k → tokenOf (coreAt t u.site) k = 0

/-- What a routine leaves after its inner commands, which ended in e: its status and results in the scalar registers, the others as in e; memory, and every tile, accumulator
and descriptor that the routine does not leave undefined (R200), as in e; its two tokens 0, and the lock of R202 not with its thread. -/
def RoutineRan (s e t : State) (u : Issue) (h : Hdr) (p : Plan) : Prop :=
  regOf (ownThread t u) 0 = routineStatus (warnCounts s u) (warnCounts e u) ∧
    (∀ x ∈ p.results e, regOf (ownThread t u) x.1 = x.2) ∧
    (∀ i, i ≠ 0 → i ∉ (p.results e).map (·.1) → regOf (ownThread t u) i = regOf (ownThread e u) i) ∧
    routineTokens t u h ∧ (coreAt t u.site).lock ≠ some u.t ∧
    (∀ k, k ∉ p.tiles → tileAt (coreAt t u.site) k = tileAt (coreAt e u.site) k) ∧
    (∀ k, k ∉ p.accs → accAt (coreAt t u.site) k = accAt (coreAt e u.site) k) ∧
    (∀ d, d < 60 → descAt t u.site d = descAt e u.site d) ∧ sameMemory e t

/-- A state with the lock of a core (R202) as it stood before: for what a routine leaves as it was but for the lock. -/
def lockedAs (s t : State) (u : Issue) : State :=
  modCore t u.site (fun c => { c with lock := (coreAt s u.site).lock, lastLock := (coreAt s u.site).lastLock })

/-- A routine that returns with a status word and does nothing else: S0 takes the word, the routine's two tokens are 0, its thread does not hold the lock. -/
def OnlyReturns (i : Instr) (s : State) (u : Issue) (h : Hdr) (word : Dword) : Prop :=
  atRingHead s u i = true → ∃ t, exec i s = .next t ∧ onlyReg u s t 0 word ∧ ThreadFrame u s (lockedAs s t u) ∧ sameMemory s t ∧ sameStains s t ∧ sameHost s t u h ∧
    (∀ k, k ≠ 224 + 2 * u.t → k ≠ 225 + 2 * u.t → (tokenOf (coreAt t u.site) k).toNat = tokenAfter s u h k) ∧ routineTokens t u h ∧
    (coreAt t u.site).lock = (if (coreAt s u.site).lock = some u.t then none else (coreAt s u.site).lock)

/-- The local routines with their argument checks (R209). -/
def localRoutines (h : Hdr) : List (Instr × (State → Issue → Check)) :=
  [(.tileProduct h, tileProductCheck), (.stripProduct h, stripProductCheck), (.chainProduct h, chainProductCheck), (.rmsnormFwd h, normFwdCheck false),
   (.rmsnormBwd h, normBwdCheck false), (.layernormFwd h, normFwdCheck true), (.layernormBwd h, normBwdCheck true), (.softmaxFwd h, softmaxFwdCheck),
   (.softmaxBwd h, softmaxBwdCheck), (.quant h, quantCheck false), (.dequant h, dequantCheck), (.transcode h, quantCheck true),
   (.rowReduce h, rowReduceCheck), (.tensorNorm2 h, tensorNorm2Check), (.libInfo h, libInfoCheck)]

/-- The attention routines: their identifiers, whether they are backward, whether global (R209). -/
def attentionRoutines (h : Hdr) : List (Instr × Nat × Bool × Bool) :=
  [(.attnWindowFwd h, 0x0201, false, false), (.attnWindowBwd h, 0x0202, true, false), (.attnGlobalFwd h, 0x0203, false, true),
   (.attnGlobalBwd h, 0x0204, true, true)]

/-- A layout of one core, whose collective routines end with their own arrival. -/
def loneCore (s : State) (u : Issue) : Bool := decide (layoutWidth s u.ctx = 1) && decide (u.core = 0) && s.mesh.arrivals.isEmpty

/-! ### Commands of the host -/

/-- A host access to a page is answered and its block is there (R513 to R515). -/
def hostCan (s : State) (r p : Nat) : Bool := s.hdm.h0Up && decide (r ≤ 77) && answers s r && blockPresent s r p

/-- Every word in force keeps its value but those at the listed offsets of one page, and so does every shadow and captured set. -/
def WordsBut (s t : State) (r p : Nat) (os : List Nat) : Prop :=
  t.pages.shadow = s.pages.shadow ∧ t.pages.captured = s.pages.captured ∧
    ∀ r' p' o', p' < 64 → o' < 4096 → ¬(r' = r ∧ p' = p ∧ o' ∈ os) → regWord t r' p' o' = regWord s r' p' o'

/-- Nothing changes but the words at the listed offsets of one page. -/
def OnlyWords (s t : State) (r p : Nat) (os : List Nat) : Prop := WordsBut s t r p os ∧ t = { s with pages := t.pages }

/-- MSI-X vector 64 goes out exactly when b holds, or becomes pending while it or the function is masked or H0 is down (R408, R525). -/
def Interrupts (s t : State) (b : Bool) : Prop :=
  let quiet := s.hdm.functionMask || s.hdm.msixMasked.contains 64 || !s.hdm.h0Up
  t.outbox = (if b && !quiet then s.outbox ++ [.msix 64] else s.outbox) ∧
    t.hdm = (if b && quiet then { s.hdm with msixPending := addOnce s.hdm.msixPending 64 } else s.hdm)

/-- A block event on a page whose other changed words stand at the listed offsets: its IRQ_STATUS bit is set, and vector 64 goes out where the page
passes from not pending to pending (R524, R525). -/
def Event (s t : State) (r p bit : Nat) (os : List Nat) : Prop :=
  regWord t r p 0x010 = regWord s r p 0x010 ||| BitVec.ofNat 32 (2 ^ bit) ∧ WordsBut s t r p (0x010 :: os) ∧
    Interrupts s t (!irqPending s r p && irqPending t r p)

/-- BUSY, LOST and RESULT of the queue scheduler (R529). -/
def qsBusy (s : State) : Nat := fld s 76 0x28 ⟨0x054, 31, 31⟩
def qsResult (s : State) : Nat := fld s 76 0x28 ⟨0x054, 15, 0⟩

/-- A queue operation that was accepted: BUSY is 1 and RESULT 0; of the rest only queues and threads can change (R529, R530). -/
def QueueRan (s t : State) : Prop :=
  qsBusy t = 1 ∧ qsResult t = 0 ∧ WordsBut s t 76 0x28 [0x054] ∧ t = { s with pages := t.pages, queues := t.queues, cores := t.cores }

/-- What a queue keeps when only its state changes: its binding, HEAD and TAIL. -/
def placeOfQueue (e : QEntry) : (BitVec 48 × Nat × Nat × Nat × BitVec 4 × Bool) × Nat × Nat := (bindingOf e, e.head, e.tail)
def OtherQueuesKeep (s t : State) (q : Nat) : Prop := ∀ p, p ≠ q → (queueAt t p).map placeOfQueue = (queueAt s p).map placeOfQueue

/-- A counter of a whole word counts one more, and stays at all ones (R565). -/
def Counts (s t : State) (r p o : Nat) : Prop := (regWord t r p o).toNat = min ((regWord s r p o).toNat + 1) (2 ^ 32 - 1)

/-- The BAR0 address of a word (R510). -/
def barAddr (r p o : Nat) : BitVec 26 := if r = headPage then BitVec.ofNat 26 o else BitVec.ofNat 26 (0x1000000 + r * 0x40000 + p * 0x1000 + o)

/-- The value that a captured set gives a word: its RWS fields from the set, or their reset values where the set lists none; the others as they are. -/
def takenWord (s : State) (set : Tab Word) (r p o : Nat) : Word :=
  let m := accMask (rowsAt r p o) .rws
  (regWord s r p o &&& ~~~m) ||| ((tFind set (pageKey r p o)).getD (resetWord r p o) &&& m)

/-- Blocks whose registers all take a write by their fields alone. -/
def plainBlock (b : Block) : Bool := !([.qsMod, .commit, .wt, .hp, .fp, .sp, .pg, .tl, .bt, .st, .ck].contains b)

/-- One such write: reach, page, offset, value, and the row. -/
def writeOf (r p o v : Nat) (i : Instr) : Nat × Nat × Nat × Nat × Instr := (r, p, o, v, i)

/-- Register writes that are rows of their own: the register, the value written, and the row (R282, R519, R521, R525, R529, R535). -/
def rowWrites (r : BitVec 7) (p : BitVec 6) (q : BitVec 20) (w : BitVec 6) (v : Word) : List (Nat × Nat × Nat × Nat × Instr) :=
  [writeOf r.toNat p.toNat 0x010 v.toNat (.irqStatusClear r p v), writeOf r.toNat p.toNat 0x018 (2 ^ 31) (.faultClear r p), writeOf r.toNat p.toNat 0x024 1 (.shadowCommit r p)] ++
  [writeOf 76 0x28 0x040 (1 * 2 ^ 28 + q.toNat) (.qsCreate q), writeOf 76 0x28 0x040 (2 * 2 ^ 28 + q.toNat) (.qsRestart q), writeOf 76 0x28 0x040 (3 * 2 ^ 28 + q.toNat) (.qsDisable q),
   writeOf 76 0x28 0x040 (4 * 2 ^ 28 + q.toNat) (.qsEnable q), writeOf 76 0x28 0x040 (5 * 2 ^ 28 + q.toNat) (.qsDestroy q), writeOf 76 0x28 0x06C q.toNat (.qsPeek q),
   writeOf 76 0x29 0x040 1 .stepArm, writeOf 76 0x29 0x040 2 .stepDisarm, writeOf 76 0x29 0x054 (2 ^ 30) .resolveCommit, writeOf 76 0x29 0x058 1 .prime,
   writeOf 76 0x29 0x064 1 (.secureStart false), writeOf 76 0x29 0x064 3 (.secureStart true), writeOf 76 0x29 0x068 1 .secureSeal] ++
  (if r.toNat < 72 then [writeOf r.toNat 0x18 0x040 w.toNat (.wtOpen r w), writeOf r.toNat 0x18 0x040 (64 + w.toNat) (.wtClose r w), writeOf r.toNat 0x18 0x040 (128 + w.toNat) (.wtDrain r w),
     writeOf r.toNat 0x18 0x040 (192 + w.toNat) (.wtAbort r w), writeOf r.toNat 0x17 0x040 1 (.xbarSet r true), writeOf r.toNat 0x17 0x040 0 (.xbarSet r false), writeOf r.toNat 0x17 0x04C v.toNat (.xbarWordWrite r v)] else [])

/-! ### Windows and messages of other modules -/

/-- The last WT_CMD's status (R287). -/
def windowStatus (s : State) (site : Nat) : Nat := fld s site 0x18 ⟨0x044, 15, 0⟩

/-- Control messages of a type go out to modules, in order, through the control port; none without a job record or with that port out of service (R418, R432). -/
def Notices (s t : State) (typ : Nat) (dests : List Nat) (key : Nat) : Prop :=
  ∃ ms : List Tow, t.outbox = s.outbox ++ ms.map Out.tow ∧
    ms.map (fun (m : Tow) => (m.typ, m.dst, m.key, m.payload)) =
      (if s.head.job.isSome && inService s (controlPort s) then
        dests.map (fun k => (BitVec.ofNat 8 typ, BitVec.ofNat 16 k, BitVec.ofNat 64 key, ([] : List Byte))) else [])

/-- A window that reaches CLOSED: its CLOSE_DONE bit and the page's event are set, and its secure groups come free on every port (R283, R287, R423). -/
def WindowClosed (s t : State) (site w : Nat) (os : List Nat) : Prop :=
  let o := if w < 32 then 0x048 else 0x04C
  windowState t site w = 0 ∧ regWord t site 0x18 o = regWord s site 0x18 o ||| BitVec.ofNat 32 (2 ^ (w % 32)) ∧
    Event s t site 0x18 0 ([o, windowOff w + 0x0C] ++ os) ∧
    (∀ p, (portAt t p).groups = (portAt s p).groups.filter (fun g => !(g.2.1 = site ∧ g.2.2.1 = w)))

/-- Whether a window admits an access by its sender and its permission (R282, R284). -/
def windowAdmits (s : State) (site w : Nat) (src : Option Nat) (write : Bool) : Bool :=
  src.isSome && (windowAny s site w || src = some (windowSource s site w)) && (if write then windowWrites s site w else windowReads s site w)

/-- Whether a window takes an access: OPEN or CLOSING, wholly within LENGTH, from a permitted module, with the permission, on pages that are
mapped (R257, R282, R284). -/
def windowTakes (s : State) (site w o n : Nat) (src : Option Nat) (write : Bool) : Bool :=
  (windowState s site w = 1 || windowState s site w = 2) && decide (o + n ≤ windowBytes s site w) &&
    windowAdmits s site w src write && !windowUnmapped s site w o n

/-- Whether the oldest accepted write of a window can land: on pages that are mapped and no page offline, or in a scratchpad that serves remote DMA, with no line of it
at the host, and with the mesh carrying it (R257, R281, R319, R332, R411). -/
def landsNow (s : State) (site w : Nat) (l : Landing) : Bool :=
  !windowWaits s site w l.offset l.data.length && !packetHeld s (72 + l.port) site && (windowLines s site w l.offset l.data.length true).isEmpty &&
    !windowUnmapped s site w l.offset l.data.length

/-- A tow message that its port takes in: the port in service, the module not stopped, the form of its type, a sender of the job (R413, R418 to
R420, R424, R442). -/
def towArrives (s : State) (typ : Nat) (m : Tow) : Bool := !s.head.stopped && inService s m.port.toNat && towFormatOk typ m && towSourceOk s m

/-- A message dropped: counted, recorded at the port, refused at its sender (R424, R425). -/
def TowDropped (s t : State) (m : Tow) (code : Nat) : Prop :=
  Counts s t (72 + m.port.toNat) 0x20 0x058 ∧ Counts s t (72 + m.port.toNat) 0x20 0x05C ∧ inboxCodes t = inboxCodes s ++ [code] ∧ t.store = s.store ∧
    t.ports = s.ports ∧ t.step = s.step ∧ t.secure = s.secure ∧ t.cores = s.cores ∧
    ∃ before addr, t.outbox = before ++ [.completion m.tag.toNat (BitVec.ofNat 16 code) [] false, .refusal m.port.toNat m.tag.toNat (BitVec.ofNat 16 code) m.mark addr]

/-- A message already taken: counted, completed, and nothing else (R421, R427). -/
def TowRepeated (s t : State) (m : Tow) : Prop :=
  Counts s t (72 + m.port.toNat) 0x20 0x058 ∧ WordsBut s t (72 + m.port.toNat) 0x20 [0x058] ∧
    t = { s with pages := t.pages, outbox := s.outbox ++ [.completion m.tag.toNat 0 [] false] }

/-- The rows of the tow messages and their types (R418). -/
def towRows (m : Tow) : List (Nat × Instr) :=
  [(0x01, .gradChunk m), (0x02, .weightRequest m), (0x03, .weightData m), (0x04, .commitVote m), (0x05, .commit m), (0x06, .barrierMessage m), (0x07, .pegMessage m),
   (0x08, .mirrorWrite m), (0x09, .parityWrite m), (0x0A, .replayRequest m), (0x0B, .digest m), (0x0C, .windowOpen m), (0x0D, .windowClose m)]

/-- The last operation of the commit page and its status (R535). -/
def LastOp (t : State) (source code : Nat) : Prop := regWord t 76 0x29 0x070 = BitVec.ofNat 32 (source * 2 ^ 24 + code)

/-- A command refused by the commit page: a record of effect REFUSED, the status, and nothing of the step, the memory or the queues (R535, R536). -/
def CommitRefused (s t : State) (source code : Nat) : Prop :=
  LastOp t source code ∧ inboxCodes t = inboxCodes s ++ [code] ∧ t.step = s.step ∧ t.store = s.store ∧ t.queues = s.queues ∧ t.cores = s.cores ∧
    t.secure = s.secure ∧ commitState t = commitState s

/-- No access waits for a page or a port, and no weight request is held. -/
def nothingWaits (s : State) : Prop := s.hdm.waiting = [] ∧ s.mesh.reads = [] ∧ ∀ k < 4, (portAt s k).heldRequests = []

/-- No access and no work of the module's own waits for a line of the host. -/
def nothingResumes (s : State) : Prop := s.hdm.waiting = [] ∧ s.mesh.reads = [] ∧ s.step.primeWaits = false ∧ s.secure.active = none

/-- A record raised at a page: its code joins those on their way. -/
def Recorded (s t : State) (code : Nat) : Prop := inboxCodes t = inboxCodes s ++ [code]

/-- The records that came between two states. -/
def newCodes (s t : State) : List Nat := (inboxCodes t).drop (inboxCodes s).length

/-- Whether a host access to the HDM window is served at once: present, no line of an earlier window still out, its line not asked of the host, its page not
offline, the mesh carrying it now, and room in the snoop filter for a line that a read grants (R281, R332, R410 to R412). -/
def hdmReady (s : State) (offset : Nat) (write : Bool) (n : Nat) : Bool :=
  s.hdm.h0Up && !hdmAbsent s offset n && !s.hdm.draining && !s.hdm.asked.any (fun y => y.1 = offset / 64) &&
    (match ctxAt s (hdmCtx s) with | some x => !offline s x (hdmBase s + offset / 64 * 64) 64 && !hdmHeld s x (hdmBase s + offset) | none => false) &&
    (write || s.hdm.filter.any (fun y => y.1 = offset / 64) || decide (s.hdm.filter.length < filterLines))

/-- The 64 bytes of a line of the HDM window, and whether a granule of it is stained. -/
def hdmLine (s : State) (line : Nat) : List Byte × Bool :=
  match ctxAt s (hdmCtx s) with
  | some x => (memBytes (ctxSlice s x (hdmBase s + line * 64) 64) 0 64, ctxStained s x (hdmBase s + line * 64) 64)
  | none => ([], false)

/-- Bytes of one page of a context take new values, and no other byte of any memory changes. -/
def PageBytes (s t : State) (e : Pte) (off : Nat) (data : List Byte) : Prop :=
  let k := pteKey e off
  let set := fun (before after : Mem) => ∀ a, memByte after a = if k ≤ a ∧ a < k + data.length then data.getD (a - k) 0 else memByte before a
  (e.fabric = false → set s.store.stack t.store.stack ∧ t.store.fabric = s.store.fabric) ∧
  (e.fabric = true → set s.store.fabric t.store.fabric ∧ t.store.stack = s.store.stack) ∧
  t.store.scratch = s.store.scratch ∧ t.store.host = s.store.host

/-- HP_STATUS and HP_HDM_CTRL (R439). -/
def hdmActive (s : State) : Bool := fld s 76 0x20 ⟨0x050, 0, 0⟩ = 1

/-- A peg that is raised: it is on its way, or while snapshots are held it is counted, with its source and PEG_ID kept (R504 to R506). -/
def PegRaised (s t : State) (source : Nat) (remote : Option (Nat × Nat × Dword × Nat)) : Prop :=
  (pegHeld s = false → t = { s with pegs := s.pegs ++ [{ sources := 2 ^ source, remote := remote }], outbox := t.outbox }) ∧
  (pegHeld s = true → Counts s t 76 0x2B 0x05C ∧ t.pegs = s.pegs ∧ WordsBut s t 76 0x2B [0x05C, 0x060] ∧
    regWord t 76 0x2B 0x060 = BitVec.ofNat 32 (2 ^ source * 2 ^ 27 + (match remote with | some x => x.2.1 | none => (s.pegCount + 1) % 2 ^ 32) % 2 ^ 27))

/-! ### Start-up, the mailbox, the tally -/

/-- The module as the ROM starts it again: nothing of a context, a queue, a core or a stack is left; the fuses, the flash, the logs and the fabric tier stay; the ROM is checking the
image, or stopped over the fuses (R486, R489, R493). -/
def Restarted (s t : State) : Prop :=
  t.power.up = [76] ∧ bootPhase t = (if fusesOk s then 1 else 6) ∧ t.queues = [] ∧ t.cores = [] ∧ t.ctxs = [] ∧ t.ports = [] ∧ t.store.stack = [] ∧ t.store.scratch = [] ∧
    t.store.fabric = s.store.fabric ∧ t.store.host = s.store.host ∧ t.head.flash = s.head.flash ∧ t.hdm.h0Up = false ∧ t.step.record = none ∧
    t.tally.sticky = s.tally.sticky ∧ t.tally.faultLog = s.tally.faultLog ∧ t.tally.stepLog = s.tally.stepLog ∧ t.pending = s.pending ∧
    (∀ k < 72, siteGood t k = siteGood s k) ∧ inboxCodes t = (if fusesOk s then [] else [0x0705])

/-- A request that the mailbox serves, its header in form (R501, R503). -/
def mbTakes (s : State) (code : Nat) (r : Req) : Bool :=
  mbServes s code && decide (r.status = 0) && decide (r.length.toNat ≤ r.payload.length) && decide (r.length.toNat ≤ 65520)

/-- A request's payload. -/
def mbBody (r : Req) : List Byte := r.payload.take r.length.toNat

/-- The mailbox reads DONE with a response: code, status, payload length, tag, payload (R501). -/
def Answered (t : State) (code : Nat) (r : Req) (status : Nat) (payload : List Byte) : Prop :=
  t.head.mbStatus = 2 ∧ t.head.response = leBytes 2 code ++ leBytes 2 status ++ leBytes 4 payload.length ++ leBytes 8 r.tag.toNat ++ payload

/-- A request refused: its record, the answer with its code, and no context, memory or job of the module changed. -/
def MbRefused (s t : State) (code : Nat) (r : Req) (fault : Nat) : Prop :=
  Answered t code r fault [] ∧ Recorded s t fault ∧ t.ctxs = s.ctxs ∧ t.store = s.store ∧ t.head.job = s.head.job ∧ t.head.shard = s.head.shard ∧ t.queues = s.queues ∧ t.cores = s.cores

/-- The rows of the mailbox and their codes (R502). -/
def mailRows (r : Req) (image remote : List Byte) : List (Nat × Instr) :=
  [(0x01, .imagePush r), (0x02, .identityRead r), (0x03, .tallyRead r), (0x10, .contextCreate r), (0x11, .contextEnd r), (0x12, .alloc r), (0x13, .free r), (0x14, .fabricMap r),
   (0x15, .load r image), (0x16, .jobRecord r), (0x17, .shardRecord r), (0x18, .restore r remote), (0x19, .moduleRing r)]

/-- A new image is accepted for the flash: it stands there, and the write is under way (R484, R485). -/
def ImageTaken (s t : State) (image : Mem) : Prop :=
  t.head.flash = image ∧ t.head.pushed = [] ∧ t.head.pushing = true ∧ fld t 76 0x2D ⟨0x050, 1, 1⟩ = 1 ∧ t.ctxs = s.ctxs ∧ t.store = s.store ∧ t.queues = s.queues

/-! ### Training -/

/-- The tow messages among what a command sends. -/
def sentTows (s t : State) : List Tow := (t.outbox.drop s.outbox.length).filterMap (fun x => match x with | .tow m => some m | _ => none)

/-- Where a chunk's SEQ stands ahead of what its port has released (R421). -/
def seqAhead (s : State) (m : Tow) : Nat := (m.seq.toNat + 2 ^ 32 - (portAt s m.port.toNat).released % 2 ^ 32) % 2 ^ 32

/-- A GRAD_CHUNK of the ring predecessor into a free slot of this port's arrival buffer (R376, R421, R424). -/
def chunkArrives (s : State) (m : Tow) : Bool :=
  let q := portAt s m.port.toNat
  let seq := q.released + seqAhead s m
  towArrives s 0x01 m && decide (1 < jobModules s) && ringPort s m.port.toNat && decide (m.src.toNat = ringPred s) && decide (seqAhead s m < 256) && decide (q.nextSeq ≤ seq) &&
    !q.arrival.any (fun a => a.1 = seq) && !m.poison && !s.step.lost

/-- One port changes, and no other. -/
def OnlyPort (s t : State) (p : Nat) : Prop := ∀ k, k ≠ p → portAt t k = portAt s k

/-- The RUNNING step of a module takes a vote now (R391). -/
def mayVote (s : State) : Bool :=
  decide (commitState s = 2) && !s.step.voted && layoutEnded s && manglesDone s && ownerDone s && decide (s.secure.uncompleted = 0) && (loadedOf s (trainCtx s)).isSome

/-- Whether a step is suspect at its vote: already, or by the risk monitor (R391, R454). -/
def suspectAtVote (s : State) : Bool :=
  s.step.suspect || (match loadedOf s (trainCtx s) with | some l => flt32 l.policy.rhoSuspect s.risk.rho | none => false)

/-- A step committed: IDLE, the other generation active, one more committed step, and its entry in the log (R393, R398, R472). -/
def Committed (s t : State) : Prop :=
  commitState t = 1 ∧ activeGen t = 1 - activeGen s ∧ t.risk.committed = s.risk.committed + 1 ∧ tGet 0 t.tally.writes 3 = tGet 0 s.tally.writes 3 + 1

/-- A step discarded: IDLE, the same generation (R392, R398). -/
def Discarded (s t : State) : Prop :=
  commitState t = 1 ∧ activeGen t = activeGen s ∧ t.risk.committed = s.risk.committed ∧ tGet 0 t.tally.writes 3 = tGet 0 s.tally.writes 3 + 1

/-- Bytes of one page of a context, by tier. -/
def pageBytes (s : State) (e : Pte) (off n : Nat) : List Byte := memBytes (if e.fabric then s.store.fabric else s.store.stack) (pteKey e off) n

/-! ### Memory upkeep, arbiters, the mesh, reaches that go and come back -/

/-- A context page. -/
def pageOf (s : State) (c v : Nat) : Option Pte := (ctxAt s c).bind (fun x => tFind x.pt v)

/-- The accesses that an epoch counted on a context page (R265). -/
def epochCount (counts : List (Nat × Nat × Nat)) (c v : Nat) : Nat := ((counts.filter (fun n => n.1 = c ∧ n.2.1 = v)).map (fun n => n.2.2)).foldl (· + ·) 0

/-- A record numbered and logged: the next SEQ, the last of the fault log, and of the sticky log where it belongs there and fits (R443, R471, R473). -/
def Numbered (s t : State) (f : FaultRec) : Prop :=
  let g := { f with seq := s.head.seq + 1 }
  t.head.seq = s.head.seq + 1 ∧ t.head.lastSeq = s.head.seq + 1 ∧ t.tally.faultLog.getLast? = some g ∧
    (isSticky f = true → s.tally.sticky.length < stickySize → t.tally.sticky = s.tally.sticky ++ [g]) ∧ (isSticky f = false → t.tally.sticky = s.tally.sticky)

/-- Every mapped page on the stacks of a reach changes so, with its place and heat kept. -/
def ReachPages (s t : State) (r : Nat) (f : Pte → Pte) : Prop :=
  ∀ c v e, pageOf s c v = some e → e.fabric = false → e.place / 2 = r → pageOf t c v = some (f e)

/-- A reach switched off: it no longer answers, its cause is kept, its core and scratchpad are empty, the keepers are to rebuild the routes (R281, R332, R355). -/
def ReachGone (s t : State) (r cause : Nat) : Prop :=
  reachUp t r = false ∧ tFind t.power.off r = some cause ∧ t.mesh.dirty = true ∧ tGet 0 t.tally.counters (7 * 4096 + r) = tGet 0 s.tally.counters (7 * 4096 + r) + 1 ∧
    (r < 72 → (coreAt t r).held = [] ∧ (coreAt t r).started = [] ∧ (coreAt t r).threads = [] ∧ ∀ k < 2 ^ 28, memByte t.store.scratch (r * 2 ^ 28 + k) = 0)

/-- A reach switched off as planned: its stack pages are offline but for those already lost. -/
def ReachOff (s t : State) (r cause : Nat) : Prop :=
  ReachGone s t r cause ∧ (r < 72 → ReachPages s t r (fun e => if e.state = 2 then e else { e with state := 3 }))

/-- The neighbours that answer see a reach as planned-off (R355). -/
def NeighboursTold (s t : State) (r : Nat) : Prop := ∀ l ∈ linksOf r, reachUp s l.2 = true → linkState t l.2 (opposite l.1) = 3 ∧ 0x0603 ∈ newCodes s t

/-- A reach that is back: it answers, its links to neighbours that answer are up, its offline pages are resident or moving, the routes are to be rebuilt (R281, R332, R357). -/
def ReachBack (s t : State) (r : Nat) : Prop :=
  reachUp t r = true ∧ tFind t.power.off r = none ∧ t.mesh.dirty = true ∧
    (∀ l ∈ linksOf r, reachUp s l.2 = true → l.2 ≠ 76 → linkState t r l.1 = 1 ∧ linkState t l.2 (opposite l.1) = 1) ∧
    (∀ c v e, pageOf s c v = some e → onReach r e = true →
      pageOf t c v = some (if e.state = 3 then { e with state := boolNat (s.moves.any (fun m => m.ctx = c && m.page = v)) } else e)) ∧
    (r < 76 → ∀ p o, p < 64 → o < 4096 → p ≠ 0x01 → p ≠ 0x03 → regWord t r p o = resetWord r p o)

/-- The requesters of an arbiter that ask and are not masked, and how far each stands behind the round-robin point (R347, R350). -/
def askers (s : State) (r p requests : Nat) : List Nat := (List.range (arbRequesters p)).filter (fun n => bitOf requests n && !overQuota s r p n)
def turnOf (s : State) (r p n : Nat) : Nat := (n + 16 - ((arbAt s r p).last + 1) % 16) % 16

/-- Grants counted to a requester, and the masks as they stand by quota and use. -/
def arbGrants (s : State) (r p n : Nat) : Nat := fld s r p (wordFld (0x408 + 16 * n))
def MasksStand (s t : State) (r p : Nat) : Prop := ∀ n < arbRequesters p, bitOf (fld t r p ⟨0x050, 15, 0⟩) n = overQuota s r p n

/-! ### Calls, the sticky log -/

/-- The state in which an attention routine runs on a layout of one core: it holds the lock (R202), and its own arrival has ended the meeting. -/
def metAlone (s : State) (u : Issue) (h : Hdr) (i : Instr) : State :=
  modThread (modThread (takeLock (begun s u h) u) u.site u.t (fun th => { th with waits := .collective, held := some i })) u.site u.t (fun th => { th with waits := .none, held := none })

/-- The call of an attention routine on a layout of one core, as it stands with that core's arrival (R204, R214). -/
def attentionCall (s : State) (u : Issue) (h : Hdr) (x : Instr × Nat × Bool × Bool) : State × Attn :=
  let b := begun s u h
  let there := arriveRoutine (takeLock b u) u x.2.1 (attnDigest b u) none x.1
  (there, attnOf there x.2.1 x.2.2.1 x.2.2.2 [u] u)

/-- The core's own part of that call: its outputs, formed and written (R214 to R216). -/
def attentionRun (s : State) (u : Issue) (h : Hdr) (x : Instr × Nat × Bool × Bool) (outs : List TRef) : State × Ran :=
  let c := attentionCall s u h x
  runInner (tracedHdr s u h) u [(2, attnRun c.2 x.2.2.1 u.core outs c.1)] (metAlone s u h x.1)

/-- The commands that take a level of the return stack (R178, R200). -/
def pushers (h : Hdr) (offset entry : Word) (l : Loaded) (failing : List Nat) (first : Word) : List Instr :=
  [.call h offset, .enter h entry l.handle, .layoutReduce h, .sparseProductRoutine h, .selfCheck h failing first] ++ (localRoutines h).map (·.1) ++ (attentionRoutines h).map (·.1)

/-- A command that faults and halts its queue: the record, the queue's halt with the command's mark, no register or memory changed. -/
def FaultsAndHalts (i : Instr) (s : State) (u : Issue) (h : Hdr) (code : Nat) : Prop :=
  atRingHead s u i = true → ∃ t, exec i s = .next t ∧ Recorded s t code ∧ (queueAt t u.q).map QEntry.stopping = some (some (BitVec.ofNat 16 code, h.mark)) ∧ sameMemory s t

/-- The codes of records that STICKY takes whatever their effect, and those effects: CONTEXT, STEP, MODULE (R441, R471). -/
def stickyCodes : List Nat := [0x0305, 0x0306, 0x0903, 0x0905, 0x0907, 0x090A]
def goesSticky (f : FaultRec) : Prop := f.effect ∈ [4, 7, 8] ∨ f.code.toNat ∈ stickyCodes

end Sys2Proof.Machine
end

