-- ==== Sys2Proof/Certificates/Slice0/Obligations.lean ====
section
/-!
DEFINITION. Obligations.lean: the statements about the Calyan module, in the terms of Safety.lean.
-/
open Sys2Proof Sys2Proof.Machine

/-! ## The block -/

/-- A step takes the command at the front of the queue and runs it on the state with the queue's rest. -/
def Obligations.StepRunsFront : Prop :=
  ∀ (s : State) (c : Instr) (r : List Instr), s.pending = c :: r → step s = exec c { s with pending := r }

/-- On an empty queue a reference period passes (R342, R344, R359, R483): while the module is powered and the reference is there the timestamp counts one and the fine count stays below
144; a link in training is up, a core that throttles counts its swallowed groups, and after the boot the rollback fuses follow the running image one bit at a time; nothing but register words and the clock changes.
Without the reference nothing changes.
That a step on an empty queue is one period is the model's choice (log entry 2), and so are its parts (log entries 142 to 144). -/
def Obligations.IdlePeriod : Prop :=
  ∀ (s : State), s.pending = [] →
    ((reachUp s 76 && s.power.refclk) = false → step s = .next s) ∧
    ((reachUp s 76 && s.power.refclk) = true → ∃ t, step s = .next t ∧ t.now = s.now + 1 ∧ t.fine < 144 ∧
      t = { s with pages := t.pages, now := s.now + 1, fine := t.fine, freeCount := s.freeCount + 1 } ∧
      t.pages.shadow = s.pages.shadow ∧ t.pages.captured = s.pages.captured ∧
      (∀ r d, r < 77 → reachUp s r = true → d ∈ [1, 2, 3, 4] → linkState t r d = (if linkState s r d = 2 then 1 else linkState s r d)) ∧
      (let n := fld s 76 0x2C ⟨0x05C, 7, 0⟩
       fld t 76 0x2C ⟨0x05C, 7, 0⟩ = if bootPhase s = 5 ∧ n < leAt s.head.running 0x0C 4 then (n + 1) % 2 ^ 8 else n) ∧
      (∀ r, r < 77 → reachUp s r = true →
        let groups := if fld s r 0x01 ⟨0x044, 4, 0⟩ < 16 then groupsIn s.now.toNat else 0
        (regWord t r 0x01 0x054).toNat = min ((regWord s r 0x01 0x054).toNat + groups) (2 ^ 32 - 1)))

/-- Every command of the table ends in a next state: the module answers a command it cannot carry out with a record, a response or no
change, and does not stop.
It rests on the model's choice of log entry 7. -/
def Obligations.EveryCommandGoesOn : Prop := ∀ (c : Instr) (s : State), ∃ t, exec c s = .next t

/-- The bounds of the logs and of the snoop filter hold at reset.
It rests on the model's choice of log entry 4. -/
def Obligations.BoundedAtReset : Prop := Bounded State.reset

/-- Every step keeps them: no log grows past its region (R470), STICKY says it is full only when it is (R471), and the snoop filter
tracks at most 2^20 lines (R411). -/
def Obligations.StepKeepsBounds : Prop := ∀ (s t : State), Bounded s → step s = .next t → Bounded t

/-! ## Scalar commands -/

/-- MOV, ADD, SUB, MUL, AND, OR, XOR, SHL, SHR, SRA, FADD and FMUL (R165): a command that can run writes DST with its operation on the two sources,
and leaves the other registers, all memory and everything outside its thread's own machinery.
It rests on the model's choice of log entry 25. -/
def Obligations.ScalarOperations : Prop :=
  ∀ (s : State) (u : Issue) (h : Hdr) (o : ScalarOps), threadRuns s u h = true →
    let a := srcA s u o
    let b := srcB s u o
    let d := o.dst.toNat
    WritesReg (.mov h o) s u h d b ∧ WritesReg (.add h o) s u h d (a + b) ∧ WritesReg (.sub h o) s u h d (a - b) ∧
    WritesReg (.mul h o) s u h d (a * b) ∧ WritesReg (.bitAnd h o) s u h d (a &&& b) ∧ WritesReg (.bitOr h o) s u h d (a ||| b) ∧
    WritesReg (.bitXor h o) s u h d (a ^^^ b) ∧ WritesReg (.shl h o) s u h d (a <<< (b.toNat % 64)) ∧
    WritesReg (.shr h o) s u h d (a >>> (b.toNat % 64)) ∧ WritesReg (.sra h o) s u h d (a.sshiftRight (b.toNat % 64)) ∧
    WritesReg (.fadd h o) s u h d ((add32 (a.setWidth 32) (b.setWidth 32)).setWidth 64) ∧
    WritesReg (.fmul h o) s u h d ((mul32 (a.setWidth 32) (b.setWidth 32)).setWidth 64)

/-- SET and FSET (R165, R570): 1 where the condition of COND holds and 0 where it does not. SET compares 64-bit integers under EQ to GEU
and FP32 values under FLT and FGE; FSET compares FP32 values under EQ to GE, FLT and FGE.
It rests on the model's choice of log entry 26. -/
def Obligations.ScalarCompares : Prop :=
  ∀ (s : State) (u : Issue) (h : Hdr) (o : ScalarOps), threadRuns s u h = true →
    let a := srcA s u o
    let b := srcB s u o
    let d := o.dst.toNat
    let x : F32 := a.setWidth 32
    let y : F32 := b.setWidth 32
    let set := fun (c : Bool) => WritesReg (.setCond h o) s u h d (if c then 1 else 0)
    let fset := fun (c : Bool) => WritesReg (.fset h o) s u h d (if c then 1 else 0)
    (o.cond = 0 → set (a == b) ∧ fset (fge32 x y && fge32 y x)) ∧ (o.cond = 1 → set (a != b) ∧ fset (!(fge32 x y && fge32 y x))) ∧
    (o.cond = 2 → set (a.slt b) ∧ fset (flt32 x y)) ∧ (o.cond = 3 → set (b.sle a) ∧ fset (fge32 x y)) ∧
    (o.cond = 4 → set (a.ult b) ∧ fset (x.ult y)) ∧ (o.cond = 5 → set (b.ule a) ∧ fset (y.ule x)) ∧
    (o.cond = 6 → set (flt32 x y) ∧ fset (flt32 x y)) ∧ (o.cond = 7 → set (fge32 x y) ∧ fset (fge32 x y)) ∧
    (o.cond = 8 → set true ∧ fset true)

/-- SCALAR_LOAD (R165, R257, R316): DST takes the 8-byte little-endian word at an aligned address inside the context's scratchpad region, where its row is
not stained and the narrow view has a frame slot (R319).
SCALAR_STORE (R165, R257, R316): the 8 bytes at an aligned address inside the context's region take the word, little-endian; every other byte of
the scratchpads, the stacks and the fabric tier keeps its value, and no scratchpad stain is added.
It rests on the model's choice of log entry 25. -/
def Obligations.ScalarMemory : Prop :=
  (∀ (s : State) (u : Issue) (h : Hdr) (o : ScalarOps), threadRuns s u h = true → spServed s u.site 5 = true → o.imm.toNat % 8 = 0 →
     o.imm.toNat / 128 < spRows s u.ctx → rowsStained s u.site (spBase s u.ctx + o.imm.toNat / 128) 1 = false →
     WritesReg (.scalarLoad h o) s u h o.dst.toNat
       (BitVec.ofNat 64 (leNat (memBytes s.store.scratch (rowKey u.site (spBase s u.ctx) + o.imm.toNat) 8)))) ∧
  (∀ (s : State) (u : Issue) (h : Hdr) (o : ScalarOps), threadRuns s u h = true → spServed s u.site 5 = true → o.imm.toNat % 8 = 0 →
     o.imm.toNat / 128 < spRows s u.ctx → atRingHead s u (.scalarStore h o) = true →
     ∃ t, exec (.scalarStore h o) s = .next t ∧ RanAround s t u h ∧ sameRegs u s t ∧
       (∀ a, memByte t.store.scratch a =
         let k := rowKey u.site (spBase s u.ctx) + o.imm.toNat
         if k ≤ a ∧ a < k + 8 then (leBytes 8 (srcA s u o).toNat).getD (a - k) 0 else memByte s.store.scratch a) ∧
       (∀ a, memByte t.store.stack a = memByte s.store.stack a ∧ memByte t.store.fabric a = memByte s.store.fabric a) ∧
       (∀ g, g ∈ t.store.stainScratch → g ∈ s.store.stainScratch))

/-- A scalar command or WAIT that its thread cannot run yet, since its fence or wait is not met (R93, R159): HEAD is past it, the thread holds it and waits, no token of
the core and no memory has changed, and no scalar register.
WAIT (R93, R191) carries only its sync block: its wait is taken, its signal given (on another core's token as a message of the mesh), and neither register nor memory changes.
It rests on the model's choice of log entry 79. -/
def Obligations.WaitsAtThread : Prop :=
  (∀ (s : State) (u : Issue) (h : Hdr) (o : ScalarOps), fetchable s u h = true → h.engine = 0 → unheld s u h = false →
    ∀ i ∈ [Instr.mov h o, .add h o, .sub h o, .mul h o, .bitAnd h o, .bitOr h o, .bitXor h o, .shl h o, .shr h o, .sra h o, .setCond h o,
      .fadd h o, .fmul h o, .fset h o, .scalarLoad h o, .scalarStore h o, .wait h],
    atRingHead s u i = true → ∃ t, exec i s = .next t ∧ (threadAt t u.site u.t).waits = .token ∧ (threadAt t u.site u.t).held = some i ∧
      curPos t u = wrapPos s u ((curPos s u : Nat) + 1) ∧ ThreadFrame u s t ∧ sameRegs u s t ∧ t.store = s.store ∧
      (coreAt t u.site).tokens = (coreAt s u.site).tokens) ∧
  (∀ (s : State) (u : Issue) (h : Hdr), threadRuns s u h = true → OnlySyncs (.wait h) s u h)

/-! ## Control -/

/-- CALL and RETURN (R177, R178): CALL keeps the position after it on the return stack and goes OFFSET commands from its own; RETURN takes the last
return point off the stack and goes on there.
ENTER and EXIT (R177, R178, R180): ENTER starts an entry function of the code object loaded in the context, and keeps on the return stack where it stood; EXIT takes that point
off and goes on there, outside a step of its context.
It rests on the model's choices of log entries 15, 130 and 154. -/
def Obligations.CallsAndCodeObjects : Prop :=
  (∀ (s : State) (u : Issue) (h : Hdr), threadRuns s u h = true → signalFits s u h = true →
     let th := ownThread s u
     (∀ offset : Word, th.rets.length < 8 → Moves (.call h offset) s u h (wrapPos s u ((curPos s u : Nat) + offset.toInt)) th.loops
       (th.rets ++ [{ pc := nextPos s u, code := th.code, isEnter := false }]) th.code) ∧
     (∀ r : Ret, th.rets.getLast? = some r → r.isEnter = false → th.loops = [] → moreAt s u (wrapPos s u (r.pc : Nat)) = true →
       Moves (.returnCmd h) s u h (wrapPos s u (r.pc : Nat)) [] th.rets.dropLast th.code)) ∧
  (∀ (s : State) (u : Issue) (h : Hdr), threadRuns s u h = true → signalFits s u h = true →
     let th := ownThread s u
     (∀ (entry : Word) (l : Loaded) (f : Nat × Nat × Nat), loadedOf s u.ctx = some l → l.entries[entry.toNat]? = some f → f.2.2 = 0 → th.rets.length < 8 →
       Moves (.enter h entry l.handle) s u h (entry.toNat * 2 ^ 32) th.loops (th.rets ++ [{ pc := nextPos s u, code := th.code, isEnter := true }]) (some l.handle)) ∧
     (∀ r : Ret, th.rets.getLast? = some r → r.isEnter = true → th.loops = [] → s.step.ctx ≠ u.ctx →
       let head := if th.code.isSome then (entryD s u.q).head else nextPos s u
       (r.code.isSome = true ∨ head ≠ (entryD s u.q).tail) →
       Moves (.exitCmd h) s u h (if r.code.isSome then r.pc else head) [] th.rets.dropLast r.code))

/-- LOOP (R167 to R170): a count above 0 enters a loop of BODY commands at index 0, below four loops; outside loops, a count of 0 goes on behind the body.
BRANCH_SCALAR (R173) outside loops: taken, it goes OFFSET commands from its own position; not taken, to the next command.
It rests on the model's choices of log entries 9 and 124. -/
def Obligations.LoopsAndBranches : Prop :=
  (∀ (s : State) (u : Issue) (h : Hdr) (o : LoopOps), threadRuns s u h = true → signalFits s u h = true → o.body ≠ 0 →
     let th := ownThread s u
     let count := if bitOf o.countSrc.toNat 7 then o.countImm.toNat else (regOf th (o.countSrc.toNat % 32)).toNat % 2 ^ 32
     (0 < count → th.loops.length < 4 → Moves (.loop h o) s u h (nextPos s u)
       (th.loops ++ [{ start := wrapPos s u (curPos s u : Nat), body := o.body.toNat, count := count, index := 0, level := th.rets.length }]) th.rets th.code) ∧
     (count = 0 → th.loops = [] → moreAt s u (wrapPos s u ((curPos s u : Nat) + 1 + o.body.toNat)) = true →
       Moves (.loop h o) s u h (wrapPos s u ((curPos s u : Nat) + 1 + o.body.toNat)) [] th.rets th.code)) ∧
  (∀ (s : State) (u : Issue) (h : Hdr) (o : ScalarOps) (offset : Word), threadRuns s u h = true → signalFits s u h = true →
     (ownThread s u).loops = [] →
     let th := ownThread s u
     let there := wrapPos s u ((curPos s u : Nat) + offset.toInt)
     (condScalar o.cond (srcA s u o) (srcB s u o) = some true → moreAt s u there = true → Moves (.branchScalar h o offset) s u h there [] th.rets th.code) ∧
     (condScalar o.cond (srcA s u o) (srcB s u o) = some false → moreAt s u (nextPos s u) = true →
       Moves (.branchScalar h o offset) s u h (nextPos s u) [] th.rets th.code))

/-- YIELD (R189): outside loops, the thread leaves its queue, which is ready again where commands remain and idle where none do, and attaches to the one ready queue bound to it
whose number is higher.
It rests on the model's choice of log entry 24. -/
def Obligations.YieldAttachesNext : Prop :=
  ∀ (s : State) (u : Issue) (h : Hdr) (q : Nat), threadRuns s u h = true → signalFits s u h = true → u.q < q →
    readyFor s u.core u.t q = true → (∀ p, readyFor s u.core u.t p = true → u.q < p → p = q) → (ownThread s u).loops = [] →
    atRingHead s u (.yieldQueue h) = true → ∃ t, exec (.yieldQueue h) s = .next t ∧ (ownThread t u).attached = some q ∧ (queueAt t q).map QEntry.state = some 2 ∧
      (queueAt t u.q).map QEntry.state = some (if nextPos s u = (entryD s u.q).tail ∧ (ownThread s u).code.isNone then 0 else 1) ∧
      RanAround s t u h ∧ sameRegs u s t ∧ sameMemory s t

/-! ## Collective commands, layers and steps -/

/-- BARRIER (R191): the core arrives with its command and its thread waits. A BARRIER or SCALAR_REDUCE that finds no route to the root (R329, R331) is told as unreachable; its core waits on without an arrival (log entry 152).
BARRIER_RELEASE (R191, R339): with a barrier of every core of the layout there, each of those threads that still waits in it goes on; with one missing nothing changes.
SCALAR_REDUCE (R176): a core that is not the last of its layout arrives with its value and its thread waits; the last core's DST takes the value that the fixed tree gives over the
cores' values in ascending logical core.
BRANCH_TENSOR (R173 to R175): on its own core (SCOPE 0), the reduction of an unstained operand is written to REG and then, outside loops, the branch goes OFFSET commands from its own position
where the condition of the value and source B holds, and to the next command where it does not; over the layout (SCOPE 1) a core that is not the last arrives with its own reduction and waits, and the last
core's REG takes the combination of all.
It rests on the model's choices of log entries 27, 123, 145 and 152. -/
def Obligations.Collectives : Prop :=
  (∀ (s : State) (u : Issue) (h : Hdr), threadRuns s u h = true →
     (toRoot s u.site = .arrives → WaitsForOthers (.barrier h) s u h (arrivalOf u 0 0 0 (.barrier h))) ∧
     (∀ (r : Nat) (dst src op : Byte), toRoot s u.site = .dropped r → op.toNat ≤ 4 → dst.toNat ≤ 31 → src.toNat ≤ 31 →
       ∀ i ∈ [Instr.barrier h, .scalarReduce h dst src op], atRingHead s u i = true → ∃ t, exec i s = .next t ∧ (ownThread t u).waits = .collective ∧
         (ownThread t u).held = some i ∧ t.mesh.arrivals = s.mesh.arrivals ∧ 0x0405 ∈ inboxCodes t ∧ sameRegs u s t ∧ sameMemory s t)) ∧
  (∀ (s : State) (ctx : BitVec 6) (thread : BitVec 4),
     (meeting s 0 ctx.toNat 0 0 = none → exec (.barrierRelease ctx thread) s = .next s) ∧
     (∀ as, meeting s 0 ctx.toNat 0 0 = some as → ∃ t, exec (.barrierRelease ctx thread) s = .next t ∧
       t.mesh.arrivals = s.mesh.arrivals.filter (fun a => !as.contains a) ∧ sameMemory s t ∧
       (∀ a ∈ as, ∀ u, issueBase s a.queue = some u → (∃ h, a.instr = .barrier h) → (ownThread s u).waits = .collective →
         (ownThread s u).held = some a.instr → (ownThread s u).attached = some u.q →
         (ownThread t u).held = none ∧ (ownThread t u).waits ≠ .collective))) ∧
  (∀ (s : State) (u : Issue) (h : Hdr) (dst src op : Byte), threadRuns s u h = true → op.toNat ≤ 4 → dst.toNat ≤ 31 → src.toNat ≤ 31 →
     let i := Instr.scalarReduce h dst src op
     let a := arrivalOf u 1 op.toNat (regOf (ownThread s u) src.toNat) i
     (toRoot s u.site = .arrives → meetingWith s a = none → WaitsForOthers i s u h a) ∧
     (∀ as, toRoot s u.site = .arrives → u.core < layoutWidth s u.ctx → othersHere s a = true → meetingWith s a = some as → atRingHead s u i = true →
       ∃ t, exec i s = .next t ∧ regOf (ownThread t u) dst.toNat = treeFold (reduceOp op.toNat) 0 7 (as.map (·.value)) ∧
         t.mesh.arrivals = (s.mesh.arrivals ++ [a]).filter (fun x => !as.contains x) ∧ sameMemory s t)) ∧
  (∀ (s : State) (u : Issue) (h : Hdr) (o : BranchTensorOps) (reg rows cols : Nat) (vals : Tab F32), threadRuns s u h = true →
     tensorOperand (coreAt s u.site) o.spec = some (reg, rows, cols, vals) → o.redOp.toNat ≤ 3 → o.reg.toNat ≤ 31 → condKnown o.cond = true →
     regStained (coreAt s u.site) reg rows = false → atRingHead s u (.branchTensor h o) = true →
     let v := gridReduce o.redOp.toNat rows cols vals
     let i := Instr.branchTensor h o
     let a := arrivalOf u 2 o.redOp.toNat (v.setWidth 64) i
     (o.scope = 0 → signalFits s u h = true →
       ∃ t, exec i s = .next t ∧ onlyReg u s t o.reg.toNat (v.setWidth 64) ∧ RanAround s t u h ∧ sameMemory s t ∧ sameStains s t ∧
         let b := if bitOf o.srcB.toNat 6 then (o.imm.setWidth 32).setWidth 64 else sourceB (ownThread t u) o.srcB o.imm
         ∀ c, (ownThread s u).loops = [] → condScalar o.cond (v.setWidth 64) b = some c →
           let p := if c then wrapPos s u ((curPos s u : Nat) + o.offset.toInt) else nextPos s u
           moreAt s u p = true → curPos t u = p) ∧
     (o.scope = 1 → toRoot s u.site = .arrives → meetingWith s a = none → WaitsForOthers i s u h a) ∧
     (∀ as, o.scope = 1 → toRoot s u.site = .arrives → u.core < layoutWidth s u.ctx → othersHere s a = true → meetingWith s a = some as →
       ∃ t, exec i s = .next t ∧ regOf (ownThread t u) o.reg.toNat =
           ((treeFold (coreOp o.redOp.toNat) 0 7 (as.map (fun x => x.value.setWidth 32))).setWidth 64) ∧
         t.mesh.arrivals = (s.mesh.arrivals ++ [a]).filter (fun x => !as.contains x) ∧ sameMemory s t))

/-- LAYER without SKIP (R141): the layer that the declared order gives next becomes the core's place in it; with SKIP, the core is counted as having skipped it (R313).
STEP_BEGIN (R364, R399): on a ready module with an armed record of kind TRAIN or INTERLUDE the step begins: the record is taken, the commit state is RUNNING or INTERLUDE, the arming ends, and the core counts as begun and has its slice of the tokens (R366); a further core of the layout joins
the step under way.
It rests on the model's choice of log entry 39. -/
def Obligations.LayersAndSteps : Prop :=
  (∀ (s : State) (u : Issue) (h : Hdr) (id : BitVec 16) (direction : Byte) (l : Loaded), threadRuns s u h = true → loadedOf s u.ctx = some l →
    direction.toNat ≤ 3 →
    let n := match (coreAt s u.site).layerPos with | none => 0 | some k => k + 1
    layerAt l (decide (commitState s = 5)) n = some (id.toNat, direction.toNat % 2) → atRingHead s u (.layer h id direction) = true →
    ∃ t, exec (.layer h id direction) s = .next t ∧ (coreAt t u.site).layerPos = some n ∧
      (direction.toNat ≤ 1 → t.step = s.step ∧ sameRegs u s t ∧ sameMemory s t) ∧
      (2 ≤ direction.toNat → u.core ∈ tGet [] t.step.skipped (direction.toNat % 2 * 65536 + id.toNat))) ∧
  (∀ (s : State) (u : Issue) (h : Hdr), threadRuns s u h = true → atRingHead s u (.stepBegin h) = true → s.step.markPending = false → s.step.votes = [] → s.step.resolution = none →
    (let r := parseRecord (recordBytes s)
     commitState s = 1 → armed s = true → r.kind ≤ 1 → (r.kind = 0 → rangesWait s [(genBase s (activeGen s), 28, false)] = none) →
      ∃ t, exec (.stepBegin h) s = .next t ∧ t.step.record = some r ∧ t.step.ctx = u.ctx ∧ armed t = false ∧
        commitState t = (if r.kind = 0 then 2 else 5) ∧ t.step.begun = [u.core] ∧ (coreAt t u.site).layerPos = none ∧
        ((coreAt t u.site).firstToken, (coreAt t u.site).sliceTokens) = coreSlice t u) ∧
    (∀ r, commitState s = 2 ∨ commitState s = 5 → s.step.record = some r → s.step.ctx = u.ctx → u.core ∉ s.step.begun →
      ∃ t, exec (.stepBegin h) s = .next t ∧ t.step = { s.step with begun := s.step.begun ++ [u.core] } ∧ commitState t = commitState s ∧
        (coreAt t u.site).layerPos = none ∧ ((coreAt t u.site).firstToken, (coreAt t u.site).sliceTokens) = coreSlice t u ∧ regWord t u.site 0x14 0x05C = r.step ∧ sameRegs u s t ∧ sameMemory s t))

/-! ## The vector engine -/

/-- The element-wise operations of the vector engine with a result in an accumulator (R163, R568, R570): each element of the rows processed is the operation on
the elements of its sources; a source gives +0 outside its shape, and a broadcast its one value. CVT copies the decoded value.
VRED into an accumulator (R87, R163, R568): every element of a row takes the reduction of A's row.
It rests on the model's choices of log entries 12 and 23. -/
def Obligations.VectorResults : Prop :=
  (∀ (s : State) (u : Issue) (h : Hdr) (o : VecOps), specKind o.d = 2 → o.round.toNat ≤ 3 → o.rows.toNat ≤ 1024 →
     let rows := vecRows o 1024
     let a := fun (r c : Nat) => sourceAt (sourceOf s u o rows o.a) r c
     let b := fun (r c : Nat) => sourceAt (sourceOf s u o rows o.b) r c
     let z := fun (r c : Nat) => sourceAt (sourceOf s u o rows o.c) r c
     let runs := fun (i : Instr) (n : Nat) => engineRuns s u h i .vector 2 = true ∧ sourcesReady s u o n rows = true
     let gives := fun (i : Instr) (val : Nat → Nat → F32) => ToAccumulator i s u h o val
     (runs (.vadd h o) 2 → gives (.vadd h o) (fun r c => add32 (a r c) (b r c))) ∧
     (runs (.vsub h o) 2 → gives (.vsub h o) (fun r c => sub32 (a r c) (b r c))) ∧
     (runs (.vmul h o) 2 → gives (.vmul h o) (fun r c => mul32 (a r c) (b r c))) ∧
     (runs (.vfma h o) 3 → gives (.vfma h o) (fun r c => fma32 (a r c) (b r c) (z r c))) ∧
     (runs (.vmin h o) 2 → gives (.vmin h o) (fun r c => min32 (a r c) (b r c))) ∧
     (runs (.vmax h o) 2 → gives (.vmax h o) (fun r c => max32 (a r c) (b r c))) ∧
     (runs (.vabs h o) 1 → gives (.vabs h o) (fun r c => abs32 (a r c))) ∧
     (runs (.vneg h o) 1 → gives (.vneg h o) (fun r c => neg32 (a r c))) ∧
     (runs (.vsel h o) 3 → gives (.vsel h o) (fun r c => quiet32 (if isZero32 (z r c) then b r c else a r c))) ∧
     (runs (.vcmp h o) 2 → condKnown o.cond = true →
       gives (.vcmp h o) (fun r c => if condVector o.cond (a r c) (b r c) then 0x3F800000 else 0)) ∧
     (runs (.vexp2 h o) 1 → gives (.vexp2 h o) (fun r c => exp2F (a r c))) ∧
     (runs (.vlog2 h o) 1 → gives (.vlog2 h o) (fun r c => log2F (a r c))) ∧
     (runs (.vrsqrt h o) 1 → gives (.vrsqrt h o) (fun r c => rsqrt32 (a r c))) ∧
     (runs (.vrecip h o) 1 → gives (.vrecip h o) (fun r c => recip32 (a r c))) ∧
     (runs (.vtanh h o) 1 → gives (.vtanh h o) (fun r c => tanhF (a r c))) ∧
     (runs (.cvt h o) 1 → o.formatOut = 0 → gives (.cvt h o) (fun r c => quiet32 (a r c)))) ∧
  (∀ (s : State) (u : Issue) (h : Hdr) (o : VecOps), specKind o.d = 2 → o.round.toNat ≤ 3 → o.rows.toNat ≤ 1024 → o.cond.toNat ≤ 3 →
     engineRuns s u h (.vred h o) .vector 2 = true → sourcesReady s u o 1 (vecRows o 1024) = true →
     ToAccumulator (.vred h o) s u h o (fun r _ => rowResult o.cond.toNat (sourceOf s u o (vecRows o 1024) o.a) r))

/-- CVT into a tile register (R101, R163, R566, R568): a tile of FORMAT_OUT with the encoded data and block scales. A tile-scaled format is converted through
the slot, whose owner and target must be the vector engine's and the format's, and takes the slot's scale; the slot takes its history.
It rests on the model's choices of log entries 23, 81 and 94. -/
def Obligations.ConversionsEncode : Prop :=
  ∀ (s : State) (u : Issue) (h : Hdr) (o : VecOps) (sh : Shape), specKind o.d = 1 → shapeOf o.formatOut = some sh → o.round.toNat ≤ 3 →
    o.rows.toNat ≤ sh.rows → engineRuns s u h (.cvt h o) .vector 2 = true → sourcesReady s u o 1 (vecRows o sh.rows) = true →
    let vals := elementwise (fun a _ _ => quiet32 a) (sourceOf s u o (vecRows o sh.rows) o.a) (.bcast 0) (.bcast 0) (vecRows o sh.rows) sh.cols
    let rnd := rounding s u o.round.toNat o.tensorId o.tileIndex
    let old := tileAt (coreAt s u.site) (specTile o.d)
    let x := slotAt s u.site o.slot.toNat
    let e := encodeTile o.formatOut 0x3F800000 rnd vals
    (tileScaled o.formatOut = false → ∃ t, exec (.cvt h o) s = .next t ∧ Started s t u h .vector ∧
      tileAt (coreAt t u.site) (specTile o.d) =
        { format := o.formatOut, data := e.data, scales := e.scales, tileScale := old.tileScale, orient := false, rows := 0, cols := 0 } ∧
      (∀ j, j ≠ specTile o.d → tileAt (coreAt t u.site) j = tileAt (coreAt s u.site) j) ∧ sameRegs u s t ∧ sameMemory s t) ∧
    (tileScaled o.formatOut = true → slotFault x 0 o.formatOut (some old.tileScale) = none →
      let r := slotConvert s u.site x o.formatOut rnd vals old.tileScale
      ∃ t, exec (.cvt h o) s = .next t ∧ (coreAt t u.site).started = (coreAt s u.site).started ++ [(.vector, h)] ∧ EngineFrame u s t ∧
        tileAt (coreAt t u.site) (specTile o.d) =
          { format := o.formatOut, data := r.enc.data, scales := r.enc.scales, tileScale := r.scale, orient := false, rows := 0, cols := 0 } ∧
        slotAt t u.site o.slot.toNat = r.slot ∧ (∀ j, j ≠ o.slot.toNat → slotAt t u.site j = slotAt s u.site j) ∧
        (∀ j, j ≠ specTile o.d → tileAt (coreAt t u.site) j = tileAt (coreAt s u.site) j) ∧ sameRegs u s t ∧ sameMemory s t)

/-- SLOT_SETUP on the queues of the vector, stream and sparse engines (R100, R113, R164): a slot of the engine's own takes mode, target, headroom and initial
scale, and its history starts anew.
It rests on the model's choices of log entries 23 and 77. -/
def Obligations.SlotsSetUp : Prop :=
  ∀ (s : State) (u : Issue) (h : Hdr) (o : SetupOps), o.reserved = false → o.owner.toNat ≠ 3 → (o.hasInit = true → -126 ≤ o.initExp.toInt) →
    (o.mode = 2 → o.hasInit = true) →
    ∀ x ∈ [(Instr.vectorSlotSetup h o, Place.vector, (2 : Byte), (0 : Nat)), (.streamSlotSetup h o, .stream 0, 3, 1), (.sparseSlotSetup h o, .sparse, 4, 2)],
      engineRuns s u h x.1 x.2.1 x.2.2.1 = true → o.owner.toNat = x.2.2.2 →
      ∃ t, exec x.1 s = .next t ∧ Started s t u h x.2.1 ∧
        slotAt t u.site o.slot.toNat =
          { target := o.target, owner := o.owner, mode := o.mode, headroom := o.headroom, hasInit := o.hasInit
            initExp := o.initExp.toInt, valid := false, clean := 0, corr := 0, scaleExp := 0, est := 0 } ∧
        (∀ j, j ≠ o.slot.toNat → slotAt t u.site j = slotAt s u.site j) ∧ (coreAt t u.site).tiles = (coreAt s u.site).tiles ∧
        (coreAt t u.site).accs = (coreAt s u.site).accs ∧ sameRegs u s t ∧ sameMemory s t

/-! ## The matrix and sparse engines -/

/-- On the exact paths (R72) the sum of an output is that of all 1,024 products of its row of X and its row of W, where both registers hold canonical data. -/
def Obligations.ExactSumsAreWhole : Prop :=
  ∀ (x w : TileReg) (xT wT : Bool) (r n : Nat), pathOf w.format = .exact → pathOf x.format = .exact → Memory.wf x.data = true → Memory.wf w.data = true →
    r < 1024 → n < 1024 →
    exactSum (denseOperand [x] xT) (denseOperand [w] wT) r n =
      ((List.range 1024).map (fun k => fixed10 (effective (denseOperand [x] xT) r k) * fixed10 (effective (denseOperand [w] wT) n k))).sum

/-- PRODUCT (R65 to R77, R162): with operands that the command accepts and can read, the region of its accumulator takes the outputs, or their sums with what it held; every
other accumulator, the scalar registers and the bytes and stains of the memories keep their contents, and the array holds the weight set.
It rests on the model's choice of log entry 23. -/
def Obligations.ProductsAccumulate : Prop :=
  ∀ (s : State) (u : Issue) (h : Hdr) (o : ProductOps), engineRuns s u h (.product h o) .matrix 1 = true → productFault s u o 1 = none → (o.xFromSp = true → spServed s u.site 0 = true) →
    productStained s u o 1 = false →
    let w := tileAt (coreAt s u.site) o.wReg.toNat
    let xs := streamedTiles s u o 1
    let p : ProductIn :=
      { x := denseOperand xs o.xTranspose, w := denseOperand [w] o.wTranspose, wT := o.wTranspose
        sx := scaleFactor o.xFormat (streamedScale xs), sw := scaleFactor o.wFormat w.tileScale
        rows := productRows o, side := outSide o.wFormat, upsets := o.upsets, wideZero := false }
    ∃ t, exec (.product h o) s = .next t ∧ (coreAt t u.site).started = (coreAt s u.site).started ++ [(.matrix, h)] ∧ EngineFrame u s t ∧
      accAt (coreAt t u.site) o.acc.toNat = accWrite (accAt (coreAt s u.site) o.acc.toNat) (quadrantRow o.wFormat o) (quadrantCol o.wFormat o)
        p.rows p.side o.accumulate ((productOutputs p).map (fun x => (x.1, x.2.1))) ∧
      (∀ j, j ≠ o.acc.toNat → accAt (coreAt t u.site) j = accAt (coreAt s u.site) j) ∧
      (coreAt t u.site).loaded = some (o.wReg.toNat, o.wTranspose) ∧ sameRegs u s t ∧ sameMemory s t ∧ sameStains s t

/-- SPARSE_PRODUCT (R244 to R252): with metadata that passes its checks and operands that the command accepts and can read, the accumulator takes the outputs of the
decompressed weight, and SP_PRODUCTS counts one.
SPARSE_CHECK (R240 to R242): metadata that passes writes 0 to the scalar register; metadata, an operand or a range that is refused writes the code with its offset above,
sends the record, and halts no queue.
It rests on the model's choices of log entries 23 and 158. -/
def Obligations.SparseCommands : Prop :=
  (∀ (s : State) (u : Issue) (h : Hdr) (o : SparseOps) (m : Mem), engineRuns s u h (.sparseProduct h o) .sparse 4 = true →
     let p := o.product
     let sf := o.sparseFormat.toNat
     let g : Geometry := { sf := sf, fmt := p.wFormat, span := (sparseHead m).span }
     let d := g.span / denseWidth g.fmt
     sparseKnown sf = true → p.wFormat.toNat ≤ 0x10 → spServed s u.site 0 = true → readMeta s u o.metaRow.toNat sf p.wFormat = .ok m → metaCheck sf p.wFormat m = none →
     (p.xFromSp = true ∨ p.xReg.toNat % d = 0) → productFault s u p d = none → (p.wTranspose = false ∨ (nOf4 sf = false ∧ d = 1)) →
     productStained s u p d = false →
     let w := tileAt (coreAt s u.site) p.wReg.toNat
     let xs := streamedTiles s u p d
     let pin : ProductIn :=
       { x := denseOperand xs p.xTranspose, w := sparseOperand g m w p.wTranspose, wT := p.wTranspose
         sx := scaleFactor p.xFormat (streamedScale xs), sw := scaleFactor p.wFormat w.tileScale
         rows := productRows p, side := outSide p.wFormat, upsets := p.upsets, wideZero := true }
     ∃ t, exec (.sparseProduct h o) s = .next t ∧ (coreAt t u.site).started = (coreAt s u.site).started ++ [(.sparse, h)] ∧ EngineFrame u s t ∧
       accAt (coreAt t u.site) p.acc.toNat = accWrite (accAt (coreAt s u.site) p.acc.toNat) (quadrantRow p.wFormat p) (quadrantCol p.wFormat p)
         pin.rows pin.side p.accumulate ((productOutputs pin).map (fun x => (x.1, x.2.1))) ∧
       (∀ j, j ≠ p.acc.toNat → accAt (coreAt t u.site) j = accAt (coreAt s u.site) j) ∧
       regWord t u.site 0x15 0x044 = regWord s u.site 0x15 0x044 + 1 ∧ sameRegs u s t ∧ sameMemory s t ∧ sameStains s t) ∧
  (∀ (s : State) (u : Issue) (h : Hdr) (o : SparseOps) (verdict : Option (Nat × Nat)), engineRuns s u h (.sparseCheck h o) .sparse 4 = true →
     checkVerdict s u o = some verdict → spServed s u.site 0 = true →
     ∃ t, exec (.sparseCheck h o) s = .next t ∧ Started s t u h .sparse ∧ sameMemory s t ∧
       match verdict with
       | none => onlyReg u s t o.reg.toNat 0 ∧ t.head.inbox = s.head.inbox
       | some (code, offset) => onlyReg u s t o.reg.toNat (BitVec.ofNat 64 (offset * 65536 + code)) ∧
           (t.head.inbox.map FaultRec.code) = (s.head.inbox.map FaultRec.code) ++ [BitVec.ofNat 16 code] ∧
           (queueAt t u.q).map QEntry.stopping = some none)

/-- SPARSE_ENCODE of a BITMAP or BLOCKLIST image (R234, R235, R237 to R239): from an unstained source in range, the metadata and the body stand in the scratchpad from their rows
on, where the two do not overlap, and every other byte of the scratchpads keeps its value.
It rests on the model's choices of log entries 20, 23, 88 and 158. -/
def Obligations.EncodesImages : Prop :=
  ∀ (s : State) (u : Issue) (h : Hdr) (o : EncodeOps), engineRuns s u h (.sparseEncode h o) .sparse 4 = true →
    let sf := o.sparseFormat.toNat
    let span := 2 ^ o.kspanLog2.toNat
    let e0 : EncSource := { fmt := o.valueFormat, span := span, rows := sparseRows o.valueFormat, m := [] }
    let bytes := encData e0 + encScaleBytes e0
    let e : EncSource := { e0 with m := rowsSlice s u.site (spBase s u.ctx + o.srcRow.toNat) bytes }
    let g : Geometry := { sf := sf, fmt := o.valueFormat, span := span }
    let b := if sf = 3 then buildBitmap e g else buildList e g
    let mk := rowKey u.site (spBase s u.ctx + o.metaRow.toNat)
    let bk := rowKey u.site (spBase s u.ctx + o.bodyRow.toNat)
    sparseKnown sf = true → nOf4 sf = false → o.valueFormat.toNat ≤ 0x10 → o.srcFormat = o.valueFormat → valueAccepted sf o.valueFormat = true →
    spServed s u.site 0 = true → 9 ≤ o.kspanLog2.toNat → o.kspanLog2.toNat ≤ 12 → spanOk sf o.valueFormat span = true →
    o.srcRow.toNat + (bytes + 127) / 128 ≤ spRows s u.ctx → rowsStained s u.site (spBase s u.ctx + o.srcRow.toNat) bytes = false →
    b.units ≤ perPass o.valueFormat → builtFits s u o b = true →
    (mk + 64 + b.tailBytes ≤ bk ∨ bk + b.valueBytes + b.scaleBytes ≤ mk) →
    ∃ t, exec (.sparseEncode h o) s = .next t ∧ Started s t u h .sparse ∧ sameRegs u s t ∧
      (∀ a, memByte t.store.scratch a =
        if mk ≤ a ∧ a < mk + 64 + b.tailBytes then memByte (builtMeta g b) (a - mk)
        else if bk ≤ a ∧ a < bk + b.valueBytes + b.scaleBytes then memByte (memSplice b.values b.valueBytes b.scaleBytes b.scales) (a - bk)
        else memByte s.store.scratch a)

/-! ## Streams -/

/-- DESC_LOAD (R289, R295, R297): a free or loaded descriptor with nothing in flight takes a legal image from an unstained row of the region.
RETIRE (R297): a loaded or admitted descriptor becomes free at once with nothing in flight, and is RETIRING otherwise.
It rests on the model's choice of log entry 23. -/
def Obligations.DescriptorsLoadAndRetire : Prop :=
  (∀ (s : State) (u : Issue) (h : Hdr) (desc : BitVec 6) (row : BitVec 21), engineRuns s u h (.descLoad h desc row) (.stream desc) 3 = true →
     (descAt s u.site desc.toNat).state ≤ 1 → (descAt s u.site desc.toNat).flight = [] → (descAt s u.site desc.toNat).running = none → spServed s u.site 1 = true → row.toNat < spRows s u.ctx → rowsStained s u.site (spBase s u.ctx + row.toNat) 128 = false →
     let d := parseDesc (memBytes s.store.scratch (rowKey u.site (spBase s u.ctx + row.toNat)) 128)
     descOk d = true →
     ∃ t, exec (.descLoad h desc row) s = .next t ∧ Started s t u h (.stream desc) ∧
       descAt t u.site desc.toNat = { freshDesc with state := 1, image := some d, ctx := u.ctx } ∧
       (∀ j, j ≠ desc.toNat → descAt t u.site j = descAt s u.site j) ∧ sameRegs u s t ∧ sameMemory s t) ∧
  (∀ (s : State) (u : Issue) (h : Hdr) (desc : BitVec 6), engineRuns s u h (.retire h desc) (.stream desc) 3 = true →
     let x := descAt s u.site desc.toNat
     x.state = 1 ∨ x.state = 2 → x.running = none →
     ∃ t, exec (.retire h desc) s = .next t ∧ (coreAt t u.site).started = (coreAt s u.site).started ++ [(.stream desc, h)] ∧ sameRegs u s t ∧ sameMemory s t ∧
       descAt t u.site desc.toNat = (if x.flight = [] then freshDesc else { x with state := 3 }) ∧
       (∀ j, j ≠ desc.toNat → descAt t u.site j = descAt s u.site j))

/-- ADMIT (R302 to R305): a loaded stream with a deadline that passes the tests is admitted, with 0 in the register; one that fails stays loaded, with the outcome
word in the register and the record STREAM_REFUSED.
It rests on the model's choices of log entries 21, 23 and 89. -/
def Obligations.AdmissionsDecide : Prop :=
  ∀ (s : State) (u : Issue) (h : Hdr) (desc : BitVec 6) (reg : BitVec 5) (d : DescImage),
    engineRuns s u h (.admitStream h desc reg) (.stream desc) 3 = true →
    let x := descAt s u.site desc.toNat
    x.image = some d → x.state = 1 → d.kind = 1 → peerFault s u d = none →
    (d.farKind = 0 → ((List.range (unitTotal d)).findSome? (fun n =>
      (unitPieces d n).findSome? (fun p => farFault s u d (farOf d n + (p.1 : Int)) p.2.2))) = none) →
    ∃ t, exec (.admitStream h desc reg) s = .next t ∧ (coreAt t u.site).started = (coreAt s u.site).started ++ [(.stream desc, h)] ∧
      onlyReg u s t reg.toNat (BitVec.ofNat 64 (admitWord s u desc.toNat d)) ∧ sameMemory s t ∧
      (admitWord s u desc.toNat d = 0 → (descAt t u.site desc.toNat).state = 2 ∧ t.head.inbox = s.head.inbox) ∧
      (admitWord s u desc.toNat d ≠ 0 → descAt t u.site desc.toNat = x ∧ inboxCodes t = inboxCodes s ++ [0x0A02])

/-- NEXT (R291, R296, R297): the next unit of a stream into the scratchpad stands in its buffer, every other byte keeps its value, and the unit is in flight until
it completes.
RUN (R296, R297): all remaining units of a stream without a deadline start, in order, and stand in flight; the last one's completion completes the command.
It rests on the model's choices of log entries 23, 29 and 152. -/
def Obligations.UnitsStart : Prop :=
  (∀ (s : State) (u : Issue) (h : Hdr) (desc : BitVec 6) (d : DescImage), engineRuns s u h (.nextUnit h desc) (.stream desc) 3 = true →
     let x := descAt s u.site desc.toNat
     let n := x.nextUnit
     let before := ((coreAt s u.site).started.filter (fun y => y.1 = .stream desc)).length
     x.image = some d → (x.state = 2 ∨ (x.state = 1 ∧ d.kind = 0)) → x.running = none → n < unitTotal d → (n = 0 → d.kind = 0 → peerFault s u d = none) →
     unitComesIn s u d n = true →
     ∃ t, exec (.nextUnit h desc) s = .next t ∧ StreamStep s t u h ∧
       descAt t u.site desc.toNat = { x with nextUnit := n + 1, flight := x.flight ++ [(n, h, true, before)] } ∧
       (∀ a, memByte t.store.scratch a =
         let k := nearKey s u d n
         if k ≤ a ∧ a < k + unitBytes d then memByte (gather s u d n).1 (a - k) else memByte s.store.scratch a) ∧
       (∀ a, memByte t.store.stack a = memByte s.store.stack a ∧ memByte t.store.fabric a = memByte s.store.fabric a)) ∧
  (∀ (s : State) (u : Issue) (h : Hdr) (desc : BitVec 6) (d : DescImage), engineRuns s u h (.run h desc) (.stream desc) 3 = true →
     let x := descAt s u.site desc.toNat
     let left := unitTotal d - x.nextUnit
     let before := ((coreAt s u.site).started.filter (fun y => y.1 = .stream desc)).length
     x.image = some d → x.state = 1 → d.kind = 0 → x.running = none → 0 < left → (x.nextUnit = 0 → peerFault s u d = none) →
     ((List.range left).all (fun i => unitComesIn s u d (x.nextUnit + i))) = true →
     ∃ t, exec (.run h desc) s = .next t ∧ StreamStep s t u h ∧
       descAt t u.site desc.toNat = { x with nextUnit := unitTotal d, flight := x.flight ++ (List.range left).map (fun i => (x.nextUnit + i, h, decide (i + 1 = left), before)) } ∧
       (∀ a, memByte t.store.stack a = memByte s.store.stack a ∧ memByte t.store.fabric a = memByte s.store.fabric a))

/-- STREAM_UNIT_COMPLETE (R296, R297, R298, R306): while a command of the descriptor that started before the oldest unit in flight has not retired, nothing changes; else, with no RUN under way, that unit completes and is counted, and a descriptor in RETIRING with nothing more in flight becomes free. Where it is
the last unit of its command, that command's signal on the core is added. Past the deadline of a stream that is not revoked, the breach is counted and recorded.
It rests on the model's choice of log entry 23. -/
def Obligations.UnitsComplete : Prop :=
  ∀ (s : State) (site : BitVec 7) (desc : BitVec 6) (late n : Nat) (h : Hdr) (last : Bool) (before : Nat) (rest : List (Nat × Hdr × Bool × Nat)),
    let x := descAt s site.toNat desc.toNat
    x.flight = (n, h, last, before) :: rest → (before ≠ 0 → exec (.streamUnitComplete site desc late) s = .next s) ∧ (before = 0 → x.running = none →
    ∃ t, exec (.streamUnitComplete site desc late) s = .next t ∧
      descAt t site.toNat desc.toNat = (if x.state = 3 ∧ rest = [] then freshDesc else { x with flight := rest, unitsDone := x.unitsDone + 1 }) ∧ sameMemory s t ∧
      (∀ (u : Issue) (c : Ctx), issueBase s h.queue.toNat = some u → (actOn s u h).site = site.toNat → ctxAt s x.ctx = some c → c.ending = none →
        (∀ k, (tokenOf (coreAt t site.toNat) k).toNat = if last ∧ !h.sigRemote ∧ k = h.sigTok.toNat
          then min ((tokenOf (coreAt s site.toNat) k).toNat + h.sigCnt.toNat) 65535 else (tokenOf (coreAt s site.toNat) k).toNat) ∧
        (∀ d, 0 < late → x.revoked = false → x.image = some d → d.kind = 1 → site.toNat < 72 → Counts s t site.toNat 0x16 0x05C ∧ 0x0A01 ∈ inboxCodes t)))

/-- GRAD_EMIT (R333, R370): outside an interlude, from a core whose router has a route to the port and no HOLD, every chunk of the tile's gradient enters the tree of its port at the core's leaf.
It rests on the model's choices of log entries 23, 40, 77 and 152. -/
def Obligations.GradientsEnterTheTree : Prop :=
  ∀ (s : State) (u : Issue) (h : Hdr) (o : GradOps) (l : Loaded) (g : Nat) (p : Param), engineRuns s u h (.gradEmit h o) (.stream 0) 3 = true →
    portPresent s o.port.toNat = true → commitState s ≠ 5 → loadedOf s u.ctx = some l → tileOf l o.tensorId.toNat o.tileIndex.toNat = some (g, p) →
    specKind o.source = 2 → tilePort s g = o.port.toNat → packetHeld s u.site (72 + o.port.toNat) = false → dropAt s u.site (72 + o.port.toNat) = none →
    ∃ t, exec (.gradEmit h o) s = .next t ∧ (coreAt t u.site).started = (coreAt s u.site).started ++ [(.stream 0, h)] ∧ sameRegs u s t ∧ sameMemory s t ∧
      (portAt t o.port.toNat).nodes = (portAt s o.port.toNat).nodes ++ (List.range (tileChunks p.format)).map (fun j =>
        let e := encodeChunk ((List.range 2048).map (fun i => emitElement (coreAt s u.site) (specAcc o.source) o.transpose (shapeD p.format).cols (2048 * j + i)))
        liftNode (layoutWidth s u.ctx) 8 { level := 0, index := u.core, chunk := { tensorId := o.tensorId.toNat, tileIndex := o.tileIndex.toNat, number := j, step := currentStep s, mark := h.mark, exps := e.1, mants := e.2.1 } })

/-! ## What happens to commands later -/

/-- TOKEN_WAIT_MET (R91, R93, R159): a WAIT held at its thread whose token has come runs to its end; a vector SLOT_SETUP at the head of its engine's queue starts.
It rests on the model's choices of log entries 23 and 77. -/
def Obligations.WaitsAreMet : Prop :=
  ∀ (s : State) (site : BitVec 7) (h : Hdr) (u : Issue), site.toNat < 72 → reachUp s site.toNat = true → s.step.votes = [] → issueBase s h.queue.toNat = some u →
    (∀ thread : BitVec 4, threadHead s site.toNat thread.toNat = some (.wait h, h.queue.toNat) → u.site = site.toNat → u.t = thread.toNat →
      (h.fence = false ∨ fenceMet s h.queue.toNat = true) → served s site.toNat (.thread thread) h = true →
      ∃ t, exec (.tokenWaitMet site (.thread thread)) s = .next t ∧ (ownThread t u).held = none ∧ (ownThread t u).waits ≠ .token ∧
        (∀ k, (tokenOf (coreAt t u.site) k).toNat = tokenAfter s u h k) ∧ sameRegs u s t ∧ sameMemory s t) ∧
    (∀ (o : SetupOps) (n : Nat), placeHead (coreAt s site.toNat) .vector = some (.vectorSlotSetup h o, n) → (actOn s u h).site = site.toNat → served s site.toNat .vector h = true →
      o.reserved = false → o.owner = 0 → o.mode.toNat ≤ 1 → o.hasInit = false →
      ∃ t, exec (.tokenWaitMet site .vector) s = .next t ∧ (coreAt t site.toNat).started = (coreAt s site.toNat).started ++ [(.vector, h)] ∧
        (slotAt t site.toNat o.slot.toNat).mode = o.mode ∧ (slotAt t site.toNat o.slot.toNat).valid = false ∧
        (coreAt t site.toNat).held.length ≤ (coreAt s site.toNat).held.length ∧ sameMemory s t)

/-- ENGINE_COMMAND_RETIRE (R93): the oldest started command of a place leaves the engine, and its signal on its own core is added, up to 65,535; a RETIRE goes once its descriptor has nothing in flight.
REMOTE_SIGNAL_ARRIVAL (R94): the oldest signal between two cores with a route is taken from the mesh and added to the token of the core it goes to, up to 65,535.
It rests on the model's choices of log entries 23, 108 and 152. -/
def Obligations.SignalsAreGiven : Prop :=
  (∀ (s : State) (site : BitVec 7) (p : Place) (n : Nat) (h : Hdr) (u : Issue) (x : Ctx), site.toNat < 72 → reachUp s site.toNat = true →
     (coreAt s site.toNat).started.findIdx? (fun y => y.1 = p) = some n → (coreAt s site.toNat).started[n]? = some (p, h) →
     (∀ d, p = .stream d → (descAt s site.toNat d.toNat).state ≠ 3 ∨ (descAt s site.toNat d.toNat).flight = []) →
     (∀ d, p = .stream d → ∀ f ∈ (descAt s site.toNat d.toNat).flight, f.2.2.2 ≠ 0) →
     issueBase s h.queue.toNat = some u → (actOn s u h).site = site.toNat → ctxAt s u.ctx = some x → x.ending = none →
     ∃ t, exec (.engineCommandRetire site p) s = .next t ∧ (coreAt t site.toNat).started = (coreAt s site.toNat).started.eraseIdx n ∧
       (∀ k, (tokenOf (coreAt t site.toNat) k).toNat = if !h.sigRemote ∧ k = h.sigTok.toNat
         then min ((tokenOf (coreAt s site.toNat) k).toNat + h.sigCnt.toNat) 65535 else (tokenOf (coreAt s site.toNat) k).toNat) ∧ sameMemory s t) ∧
  (∀ (s : State) (src dst : BitVec 7) (ctx : BitVec 6) (x : Signal) (site : Nat) (c : Ctx),
     s.mesh.signals.find? (fun y => y.src = src.toNat && y.dst = dst.toNat && y.ctx = ctx.toNat) = some x →
     siteOf s dst.toNat = some site → ctxAt s ctx.toNat = some c → routeEnd s site 160 ((siteOf s src.toNat).getD 76) = .arrives →
     ∃ t, exec (.remoteSignalArrival src dst ctx) s = .next t ∧
       t.mesh.signals = s.mesh.signals.eraseP (fun y => y.src = src.toNat && y.dst = dst.toNat && y.ctx = ctx.toNat) ∧
       (∀ k, (tokenOf (coreAt t site) k).toNat = if k = x.token then min ((tokenOf (coreAt s site) k).toNat + x.count) 65535
         else (tokenOf (coreAt s site) k).toNat) ∧ sameMemory s t)

/-- SYNC_TIMEOUT and STACK_OFFLINE (R95, R281): on a core with a limit on waits, a wait past it stops the queue with SYNC_TIMEOUT and counts it; a command whose page is on a
reach switched off stops its queue with its own code.
It rests on the model's choice of log entry 69. -/
def Obligations.WaitLimitsStopQueues : Prop :=
  ∀ (s : State) (site : BitVec 7) (p : Place) (h : Hdr) (u : Issue) (e : QEntry), site.toNat < 72 → reachUp s site.toNat = true → limited s site.toNat = true →
    queueAt s u.q = some e → e.state ≠ 3 → e.stopping = none →
    (timedWait s site.toNat p = some (h, u) →
      ∃ t, exec (.syncTimeout site p) s = .next t ∧ inboxCodes t = inboxCodes s ++ [0x0123] ∧
        (queueAt t u.q).map QEntry.stopping = some (some (0x0123, h.mark)) ∧
        fld t site.toNat 0x11 (wordFld 0x048) = min (fld s site.toNat 0x11 (wordFld 0x048) + 1) (2 ^ 32 - 1) ∧ sameMemory s t) ∧
    (offlineAt s site.toNat p = some (h, u) →
      ∃ t, exec (.stackOffline site p) s = .next t ∧ inboxCodes t = inboxCodes s ++ [0x030A] ∧
        (queueAt t u.q).map QEntry.stopping = some (some (0x030A, h.mark)) ∧ sameMemory s t)

/-! ## The resident routines -/

/-- A local routine's argument check (R197, R198, R205, R207): OPTIONS above 3 and an argument that its check refuses are told in the status word, and with OPTIONS bit 0 good arguments give
status 0; in each case the routine does nothing else but clear its two tokens (R200).
It rests on the model's choice of log entry 70. -/
def Obligations.RoutinesCheckArguments : Prop :=
  ∀ (s : State) (u : Issue) (h : Hdr), threadRuns s u h = true → (ownThread s u).rets.length < 8 →
    ∀ x ∈ localRoutines h,
      (4 ≤ argOf s u 0 → OnlyReturns x.1 s u h (statusWord 0x0100 0 0 0)) ∧
      (∀ code pos, argOf s u 0 < 4 → x.2 (begun s u h) u = .error (code, pos) → OnlyReturns x.1 s u h (statusWord code pos 0 0)) ∧
      (∀ p, argOf s u 0 < 4 → x.2 (begun s u h) u = .ok p → bitOf (argOf s u 0) 0 = true → OnlyReturns x.1 s u h 0)

/-- The local routines TILE_PRODUCT to TENSOR_NORM2 and LIB_INFO (R197, R199, R200, R206 to R208): a routine whose arguments pass, which finds its engines idle and the lock free where it takes it, and none
of whose inner commands waits or halts the queue, returns after them, in order, with its results and its status.
It rests on the model's choices of log entries 33, 70, 90, 131 and 155. -/
def Obligations.LocalRoutinesRun : Prop :=
  ∀ (s : State) (u : Issue) (h : Hdr), threadRuns s u h = true → (ownThread s u).rets.length < 8 → argOf s u 0 < 4 → bitOf (argOf s u 0) 0 = false →
    ∀ x ∈ localRoutines h, ∀ (p : Plan) (e : State), atRingHead s u x.1 = true → x.2 (begun s u h) u = .ok p →
      enginesWait (coreAt s u.site) (p.inner.map (·.1)) = false → (p.locks = true → lockFree (begun s u h) u = true) →
      runInner (tracedHdr s u h) u p.inner (if p.locks then takeLock (begun s u h) u else begun s u h) = (e, .done) →
      ∃ t, exec x.1 s = .next t ∧ RoutineRan s e t u h p

/-- LIB_INFO (R217): S1 to S3 take the numeric level, the version and the number of routines, and S0 the status 0.
SELF_CHECK (R228): with nothing of the context in the engines, the areas asked for that fail are told in S1 and the first vector in S2, with the status SELF_CHECK and its record; with
none, S0 to S2 are 0.
It rests on the model's choice of log entry 90. -/
def Obligations.InformationRoutines : Prop :=
  (∀ (s : State) (u : Issue) (h : Hdr), threadRuns s u h = true → (ownThread s u).rets.length < 8 → argOf s u 0 < 4 → bitOf (argOf s u 0) 0 = false →
     atRingHead s u (.libInfo h) = true → ∃ t, exec (.libInfo h) s = .next t ∧
       (∀ i, regOf (ownThread t u) i = match i with | 0 => 0 | 1 => 1 | 2 => 0x01000000 | 3 => 22 | k => regOf (ownThread s u) k) ∧
       sameMemory s t ∧ sameStains s t) ∧
  (∀ (s : State) (u : Issue) (h : Hdr) (failing : List Nat) (first : Word), threadRuns s u h = true → (ownThread s u).rets.length < 8 →
     argOf s u 0 < 4 → bitOf (argOf s u 0) 0 = false → argOf s u 1 < 128 → contextBusy s u = false → atRingHead s u (.selfCheck h failing first) = true →
     let bad := failing.filter (fun a => decide (a < 7) && (decide (argOf s u 1 = 0) || bitOf (argOf s u 1) a))
     ∃ t, exec (.selfCheck h failing first) s = .next t ∧ sameMemory s t ∧
       (bad = [] → regOf (ownThread t u) 0 = 0 ∧ regOf (ownThread t u) 1 = 0 ∧ regOf (ownThread t u) 2 = 0 ∧ (0x0903 ∈ inboxCodes t → 0x0903 ∈ inboxCodes s)) ∧
       (bad ≠ [] → regOf (ownThread t u) 0 = statusWord 0x0110 0 0 first.toNat ∧ regOf (ownThread t u) 2 = first.setWidth 64 ∧
         regOf (ownThread t u) 1 = BitVec.ofNat 64 ((bad.eraseDups.map (fun a => 2 ^ a)).foldl (· + ·) 0) ∧ 0x0903 ∈ inboxCodes t))

/-- The SPARSE_PRODUCT routine (R243): with metadata, formats and a range of X that pass, and a product that neither waits nor halts the queue, it runs that one sparse product and returns.
It rests on the model's choices of log entries 31, 90 and 131. -/
def Obligations.SparseRoutineRuns : Prop :=
  ∀ (s : State) (u : Issue) (h : Hdr) (m : Mem) (e : State), threadRuns s u h = true → atRingHead s u (.sparseProductRoutine h) = true → (ownThread s u).rets.length < 8 →
    argOf s u 0 < 4 → bitOf (argOf s u 0) 0 = false → enginesWait (coreAt s u.site) [4] = false → spServed s u.site 0 = true →
    let b := begun s u h
    let o := sparseRoutineOps b u
    let f := argOf s u 4
    let d := (sparseHead m).span / denseWidth o.product.wFormat
    let inner : SparseOps := { o with product := { o.product with xReg := if d = 1 then 1 else 0 } }
    argOf s u 1 < spRows b u.ctx → 1 ≤ argOf s u 2 → argOf s u 2 ≤ 4 → argOf s u 3 ≤ 3 → bitOf f 3 = false → bitOf f 6 = false → bitsOf f 31 29 = 0 →
    readMeta b u (argOf s u 1) (argOf s u 2) o.product.wFormat = .ok m → metaCheck (argOf s u 2) o.product.wFormat m = none →
    (o.product.xFromSp = true ∨ d = 1) → (o.product.wTranspose = false ∨ (nOf4 (argOf s u 2) = false ∧ d = 1)) →
    (o.product.xFromSp = false ∨ ((tileScaled o.product.xFormat = false ∨ posNormal32 o.product.xScale = true) ∧
      o.product.xRow.toNat + d * imageRows o.product.xFormat ≤ spRows b u.ctx)) →
    (pairGroup o.product.wFormat ≠ 0 ∨ o.product.wFormat = 7) → pairOk o.product.wFormat o.product.xFormat = true →
    (o.product.xTranspose = false ∨ streamsTransposed o.product.xFormat = true) →
    runInner (tracedHdr s u h) u [(4, sparseProductBody inner)] (checkTraced b u h) = (e, .done) →
    ∃ t, exec (.sparseProductRoutine h) s = .next t ∧ RoutineRan s e t u h { inner := [], results := fun _ => [], tiles := [], accs := [] }

/-- LAYOUT_REDUCE on a layout of one core (R204, R209): an unstained source goes to the accumulator of the destination, row by row; an argument that its check refuses is told in the status word.
The attention routines (R202, R204, R206, R214 to R216): a core of a larger layout that comes first takes the lock, arrives and waits; on a layout of one core an argument that the check refuses is told in the
status word, VALIDATE_ONLY gives status 0, and with good arguments on pages that are not offline the routine, if its part neither waits nor halts the queue, returns after it.
It rests on the model's choices of log entries 16, 32, 90, 91, 131, 152 and 155. -/
def Obligations.CollectiveRoutinesEnd : Prop :=
  (∀ (s : State) (u : Issue) (h : Hdr), threadRuns s u h = true → atRingHead s u (.layoutReduce h) = true → (ownThread s u).rets.length < 8 → loneCore s u = true →
     holdSet s u.site = false → toRoot s u.site = .arrives → spServed s u.site 3 = true →
     (∀ a d op rows, bitOf (argOf s u 0) 0 = false → layoutReduceCheck s u = .ok (a, d, op, rows) → specKind d = 2 →
       sourceStained s u (vecOps d a 0 1 0 0 rows 0) rows a = false →
       ∃ t, exec (.layoutReduce h) s = .next t ∧ sameMemory s t ∧ t.mesh.arrivals = [] ∧
         (specAcc d ≠ 3 → ∀ r c, r < rows → c < 1024 → tGet 0 (accAt (coreAt t u.site) (specAcc d)) (r * 1024 + c) =
           tGet 0 (layoutInput s u 1024) (r * 1024 + c))) ∧
     (∀ code pos, layoutReduceCheck s u = .error (code, pos) →
       ∃ t, exec (.layoutReduce h) s = .next t ∧ onlyReg u s t 0 (BitVec.ofNat 64 (pos * 2 ^ 24 + code)) ∧ t.mesh.arrivals = [] ∧ sameMemory s t)) ∧
  (∀ (s : State) (u : Issue) (h : Hdr), threadRuns s u h = true → (ownThread s u).rets.length < 8 → lockFree (begun s u h) u = true →
     ∀ x ∈ attentionRoutines h, atRingHead s u x.1 = true →
       (layoutWidth s u.ctx ≠ 1 → s.mesh.arrivals = [] → ∃ t a, exec x.1 s = .next t ∧ (ownThread t u).waits = .collective ∧
         (ownThread t u).held = some x.1 ∧ t.mesh.arrivals = [a] ∧ a.core = u.core ∧ a.op = x.2.1 ∧ (coreAt t u.site).lock = some u.t ∧ ThreadFrame u s (lockedAs s t u) ∧ sameRegs u s t ∧ sameMemory s t) ∧
       (∀ code pos, loneCore s u = true → attnCheck x.2.2.1 x.2.2.2 (begun s u h) u = .error (code, pos) →
         ∃ t, exec x.1 s = .next t ∧ onlyReg u s t 0 (BitVec.ofNat 64 (pos * 2 ^ 24 + code)) ∧ t.mesh.arrivals = [] ∧ sameMemory s t) ∧
       (∀ ins outs, loneCore s u = true → attnCheck x.2.2.1 x.2.2.2 (begun s u h) u = .ok (ins, outs) →
         attnWaits (begun s u h) (attnOf (begun s u h) x.2.1 x.2.2.1 x.2.2.2 [u] u) [(u, outs)] = false →
         (bitOf (argOf s u 0) 0 = true → ∃ t, exec x.1 s = .next t ∧ onlyReg u s t 0 0 ∧ t.mesh.arrivals = [] ∧ sameMemory s t) ∧
         (∀ e, bitOf (argOf s u 0) 0 = false → attentionRun s u h x outs = (e, .done) →
           ∃ t, exec x.1 s = .next t ∧ RoutineRan s e t u h { inner := [], results := fun _ => [], tiles := List.range 12, accs := List.range 4 })))

/-! ## Queues and registers -/

/-- Queue operations (R529, R530), on an idle scheduler page. CREATE writes the entry from the arguments with HEAD and TAIL 0 and binds the thread, whose registers are 0 where no context held it;
RESTART takes HEAD from QS_ARG_HEAD and keeps TAIL; DISABLE and ENABLE change STATE; DESTROY removes the entry; an operation on a queue not created is refused
with BAD_OPERAND and changes no queue; a module stopped by a fault of effect MODULE takes none of them (R442); QS_PEEK shows the entry in QS_ENTRY; the end of an operation clears BUSY and sets the event of the page.
It rests on the model's choices of log entries 34, 97, 111 and 150. -/
def Obligations.QueueOperations : Prop :=
  ∀ (s : State) (q : BitVec 20), hostCan s 76 0x28 = true →
    (∀ x site, s.head.stopped = false → qsBusy s = 0 → ctxAt s (qsCtx s) = some x → x.ending = none → siteOf s (qsCore s) = some site → queueAt s q.toNat = none →
      4 ≤ qsLog2 s → qsLog2 s ≤ 20 → qsBase s % 4096 = 0 → qsCore s < coreCount s → qsCore s < layoutWidth s (qsCtx s) →
      (∀ c, (threadAt s site (qsThread s)).holder = some c → c = qsCtx s) →
      ∃ t, exec (.qsCreate q) s = .next t ∧ QueueRan s t ∧
        queueAt t q.toNat = some { base := BitVec.ofNat 48 (qsBase s), log2 := qsLog2 s, state := 0, thread := BitVec.ofNat 4 (qsThread s), ctx := qsCtx s, core := qsCore s, trace := qsTrace s, head := 0, tail := 0, haltMark := 0, haltFault := 0, stopping := none, saved := none } ∧
        (∀ p, p ≠ q.toNat → queueAt t p = queueAt s p) ∧
        (∀ a b, threadAt t a b =
          if a = site ∧ b = qsThread s ∧ (threadAt s a b).holder = none then { threadAt s a b with holder := some (qsCtx s), regs := [] } else threadAt s a b)) ∧
    (∀ e, s.head.stopped = false → qsBusy s = 0 → queueAt s q.toNat = some e → e.state = 3 → qsHead s < 2 ^ e.log2 →
      ∃ t e', exec (.qsRestart q) s = .next t ∧ QueueRan s t ∧ OtherQueuesKeep s t q.toNat ∧ queueAt t q.toNat = some e' ∧
        placeOfQueue e' = (bindingOf e, qsHead s, e.tail) ∧ (qsHead s = e.tail → e'.state = 0) ∧ (qsHead s ≠ e.tail → e'.state = 1 ∨ e'.state = 2)) ∧
    (∀ e u, s.head.stopped = false → qsBusy s = 0 → queueAt s q.toNat = some e → issueBase s q.toNat = some u → e.state ≤ 2 → e.stopping = none →
      ∃ t e', exec (.qsDisable q) s = .next t ∧ QueueRan s t ∧ OtherQueuesKeep s t q.toNat ∧ queueAt t q.toNat = some e' ∧
        placeOfQueue e' = placeOfQueue e ∧ e'.state = 4 ∧
        ((ownThread s u).attached = some q.toNat → (ownThread s u).waits = .none → (ownThread t u).attached ≠ some q.toNat)) ∧
    (∀ e u, s.head.stopped = false → qsBusy s = 0 → queueAt s q.toNat = some e → issueBase s q.toNat = some u → e.state = 4 →
      ∃ t e', exec (.qsEnable q) s = .next t ∧ QueueRan s t ∧ OtherQueuesKeep s t q.toNat ∧ queueAt t q.toNat = some e' ∧
        placeOfQueue e' = placeOfQueue e ∧
        ((ownThread s u).attached = some q.toNat → e'.state = 2) ∧
        ((ownThread s u).attached ≠ some q.toNat → e.saved = none → (e.head = e.tail → e'.state = 0) ∧ (e.head ≠ e.tail → e'.state = 1 ∨ e'.state = 2))) ∧
    (∀ e, s.head.stopped = false → qsBusy s = 0 → queueAt s q.toNat = some e → e.state ≠ 1 → e.state ≠ 2 →
      ∃ t, exec (.qsDestroy q) s = .next t ∧ QueueRan s t ∧ queueAt t q.toNat = none ∧ (∀ p, p ≠ q.toNat → queueAt t p = queueAt s p)) ∧
    (s.head.stopped = false → qsBusy s = 0 → queueAt s q.toNat = none → ∀ i ∈ [Instr.qsRestart q, .qsDisable q, .qsEnable q, .qsDestroy q],
      ∃ t, exec i s = .next t ∧ qsResult t = 0x0114 ∧ t.queues = s.queues ∧ t.cores = s.cores ∧ inboxCodes t = inboxCodes s ++ [0x0114]) ∧
    (s.head.stopped = true → ∀ i ∈ [Instr.qsCreate q, .qsRestart q, .qsDisable q, .qsEnable q, .qsDestroy q], exec i s = .next s) ∧
    (∃ t, exec (.qsPeek q) s = .next t ∧ OnlyWords s t 76 0x28 [0x080, 0x084, 0x088, 0x08C, 0x090, 0x094, 0x098, 0x09C] ∧
      (queueAt s q.toNat = none → ∀ i < 8, (regWord t 76 0x28 (0x080 + 4 * i)).toNat = if i = 2 then 7 * 2 ^ 8 else 0) ∧
      (∀ e, queueAt s q.toNat = some e → ∀ i < 8, (regWord t 76 0x28 (0x080 + 4 * i)).toNat =
        [e.base.toNat % 2 ^ 32, e.base.toNat / 2 ^ 32, e.log2 % 256 + e.state % 256 * 2 ^ 8 + e.thread.toNat * 2 ^ 16 + e.ctx % 256 * 2 ^ 24,
         e.core % 256 + boolNat e.trace * 2 ^ 8, e.head % 2 ^ 32, e.tail % 2 ^ 32, e.haltMark.toNat, e.haltFault.toNat].getD i 0)) ∧
    (qsBusy s = 1 → ∃ t, exec .qsCmdDone s = .next t ∧ qsBusy t = 0 ∧ qsResult t = qsResult s ∧ Event s t 76 0x28 0 [0x054] ∧
      t = { s with pages := t.pages, hdm := t.hdm, outbox := t.outbox })

/-- Doorbells (R185, R187, R531). A value that brings TAIL no nearer to HEAD becomes TAIL, and an idle queue with commands becomes ready or is taken up;
one of a queue not created is ignored and counted. A 4-byte write to the high half never changes TAIL: of 0 it has no effect, of another value it is fault DOORBELL_RANGE and counted;
an access of another size is unsupported. The ROM that waits for an image serves no doorbell (R484), and a module stopped by a fault of effect MODULE takes none (R442).
It rests on the model's choices of log entries 99 and 150. -/
def Obligations.Doorbells : Prop :=
  ∀ (s : State) (q : BitVec 20) (size : Byte) (high : Bool) (v : Dword), s.hdm.h0Up = true →
    (romWaits s = true ∨ s.head.stopped = true → exec (.doorbellWrite q size high v) s = .next s) ∧
    (romWaits s = false → s.head.stopped = false →
    let n := if size = 4 then v.toNat % 2 ^ 32 else v.toNat
    (size ≠ 4 → size ≠ 8 → exec (.doorbellWrite q size high v) s = .next (emit s .unsupported)) ∧
    (∀ e, queueAt s q.toNat = some e → size = 4 → high = true →
      (v.setWidth 32 = 0#32 → exec (.doorbellWrite q size high v) s = .next s) ∧
      (v.setWidth 32 ≠ 0#32 → ∃ t, exec (.doorbellWrite q size high v) s = .next t ∧ Counts s t 76 0x28 0x05C ∧ inboxCodes t = inboxCodes s ++ [0x0104] ∧ t.queues = s.queues ∧ t.cores = s.cores)) ∧
    (size = 8 ∨ (size = 4 ∧ high = false) →
      (queueAt s q.toNat = none → ∃ t, exec (.doorbellWrite q size high v) s = .next t ∧ Counts s t 76 0x28 0x060 ∧ OnlyWords s t 76 0x28 [0x060]) ∧
      (∀ e, queueAt s q.toNat = some e →
        let ahead := fun (x : Nat) => (x + 2 ^ e.log2 - e.head) % 2 ^ e.log2
        (n < 2 ^ e.log2 → n < 2 ^ 20 → ahead e.tail ≤ ahead n → ∃ t e', exec (.doorbellWrite q size high v) s = .next t ∧ queueAt t q.toNat = some e' ∧
          placeOfQueue e' = (bindingOf e, e.head, n) ∧ OtherQueuesKeep s t q.toNat ∧ t = { s with queues := t.queues, cores := t.cores } ∧
          (e.state = 0 → (n = e.head → e'.state = 0) ∧ (n ≠ e.head → e'.state = 1 ∨ e'.state = 2)) ∧ (2 ≤ e.state → e'.state = e.state)))))

/-- Register writes (R11, R12, R512, R520, R521, R523). A 4-byte write to a page whose registers have no rule of their own: RW fields take the value, W1C
fields clear where 1 is written, shadows of RWS fields take the value, and nothing else changes. A register that is a row of its own does what the row does. An aligned
8-byte write is two 4-byte writes, the lower address first; any other access is unsupported.
SHADOW_COMMIT captures the shadows of the page and counts in COMMITS; its effect gives the RWS fields the captured values as a whole and clears REFUSED; a slot map that the
scratchpad refuses sets REFUSED and changes no value in force. -/
def Obligations.RegisterWrites : Prop :=
  (∀ (s : State) (r p o : Nat) (v : Dword), hostCan s r p = true → p < 64 → o < 4096 → o % 4 = 0 → (∀ b, blockOf r p = some b → plainBlock b = true) → o ∉ [0x010, 0x014, 0x018, 0x024] →
     let w := v.setWidth 32
     let m := fun a => accMask (rowsAt r p o) a
     ∃ t, exec (.registerWrite (barAddr r p o) 4 v) s = .next t ∧ t = { s with pages := t.pages } ∧ t.pages.captured = s.pages.captured ∧
       regWord t r p o = (((regWord s r p o &&& ~~~(m .rw)) ||| (w &&& m .rw)) &&& ~~~(w &&& m .w1c)) ∧
       shadowWord t r p o = ((shadowWord s r p o &&& ~~~(m .rws)) ||| (w &&& m .rws)) ∧
       (∀ r' p' o', p' < 64 → o' < 4096 → ¬(r' = r ∧ p' = p ∧ o' = o) → regWord t r' p' o' = regWord s r' p' o' ∧ shadowWord t r' p' o' = shadowWord s r' p' o')) ∧
  (∀ (s : State) (r : BitVec 7) (p : BitVec 6) (q : BitVec 20) (w : BitVec 6) (v : Word), r.toNat < 77 →
     ∀ x ∈ rowWrites r p q w v, exec (.registerWrite (barAddr x.1 x.2.1 x.2.2.1) 4 (BitVec.ofNat 64 x.2.2.2.1)) s = exec x.2.2.2.2 s) ∧
  (∀ (s t : State) (a : BitVec 26) (v : Dword), a.toNat % 8 = 0 → exec (.registerWrite a 4 v) s = .next t → s.hdm.h0Up = true → t.hdm.h0Up = true →
     exec (.registerWrite a 8 v) s = exec (.registerWrite (a + 4) 4 (v >>> (32 : Nat))) t) ∧
  (∀ (s : State) (a : BitVec 26) (size : Byte) (v : Dword), s.hdm.h0Up = true → ¬(size = 4 ∧ a.toNat % 4 = 0) → ¬(size = 8 ∧ a.toNat % 8 = 0) →
     exec (.registerWrite a size v) s = .next (emit s .unsupported)) ∧
  (∀ (s : State) (r : BitVec 7) (p : BitVec 6), hostCan s r.toNat p.toNat = true →
     ∃ t, exec (.shadowCommit r p) s = .next t ∧ capturedSet t (r.toNat * 64 + p.toNat) = some (pageShadows s r.toNat p.toNat) ∧
       (∀ k, k ≠ r.toNat * 64 + p.toNat → capturedSet t k = capturedSet s k) ∧ t.pages.shadow = s.pages.shadow ∧
       fld t r.toNat p.toNat ⟨0x024, 31, 16⟩ = (fld s r.toNat p.toNat ⟨0x024, 31, 16⟩ + 1) % 2 ^ 16 ∧
       (∀ r' p' o', p' < 64 → o' < 4096 → ¬(r' = r.toNat ∧ p' = p.toNat ∧ o' = 0x024) → regWord t r' p' o' = regWord s r' p' o') ∧
       (blockOf r.toNat p.toNat = some .mh → t = { s with pages := t.pages, mesh := { s.mesh with hostCommits := addOnce s.mesh.hostCommits r.toNat } }) ∧
       (blockOf r.toNat p.toNat ≠ some .mh → t = { s with pages := t.pages })) ∧
  (∀ (s : State) (r : BitVec 7) (p : BitVec 6) (b : Block) (set : Tab Word), blockOf r.toNat p.toNat = some b →
     capturedSet s (r.toNat * 64 + p.toNat) = some set → (set.all (fun x => onPage r.toNat p.toNat x.1)) = true → b ≠ .mh →
     let map := ((tFind set (pageKey r.toNat p.toNat 0x044)).getD (resetWord r.toNat p.toNat 0x044)).toNat
     ∃ t, exec (.shadowCommitEffect r p) s = .next t ∧ capturedSet t (r.toNat * 64 + p.toNat) = none ∧ t.pages.shadow = s.pages.shadow ∧
       (b = .sp → slotMapRefused { s with pages := { s.pages with captured := s.pages.captured.filter (fun x => x.1 ≠ r.toNat * 64 + p.toNat) } } r.toNat map = true →
         fld t r.toNat p.toNat ⟨0x024, 1, 1⟩ = 1 ∧ inboxCodes t = inboxCodes s ++ [0x0A06] ∧ (∀ o, 0x040 ≤ o → o < 4096 → regWord t r.toNat p.toNat o = regWord s r.toNat p.toNat o)) ∧
       ((b = .sp → slotMapRefused { s with pages := { s.pages with captured := s.pages.captured.filter (fun x => x.1 ≠ r.toNat * 64 + p.toNat) } } r.toNat map = false) → b ≠ .ab →
         fld t r.toNat p.toNat ⟨0x024, 1, 1⟩ = 0 ∧ t = { s with pages := t.pages } ∧
         (∀ o, o < 4096 → o ≠ 0x024 → regWord t r.toNat p.toNat o = takenWord s set r.toNat p.toNat o) ∧
         (∀ r' p' o', p' < 64 → o' < 4096 → ¬(r' = r.toNat ∧ p' = p.toNat) → regWord t r' p' o' = regWord s r' p' o')) ∧
       (b = .ab → capturedSet t (windowKey r.toNat p.toNat) = some (set.filter (fun x => x.1 % 2 ^ 12 = 0x040)) ∧ fld t r.toNat p.toNat ⟨0x024, 1, 1⟩ = 0 ∧
         regWord t r.toNat p.toNat 0x040 = regWord s r.toNat p.toNat 0x040 ∧
         (∀ o, o < 4096 → o ∉ [0x024, 0x040, 0x050] → ¬(0x400 ≤ o ∧ o % 16 = 12) → regWord t r.toNat p.toNat o = takenWord s set r.toNat p.toNat o)))

/-- The common header and reads that change state. FAULT_CLEAR clears the latched fault (R519); IRQ_STATUS_CLEAR the bits written 1 (R525); a read of
a word with read-clear fields returns the word and leaves those fields at their reset values (R11); TIMESTAMP_READ returns the timestamp's low word and latches its high word and the fine
count (R359). A read of a reach that does not answer returns all ones and is counted (R515). -/
def Obligations.HeadersAndReads : Prop :=
  ∀ (s : State) (r : BitVec 7) (p : BitVec 6),
    (hostCan s r.toNat p.toNat = true →
      (∃ t, exec (.faultClear r p) s = .next t ∧ OnlyWords s t r.toNat p.toNat [0x018, 0x01C, 0x020] ∧ ∀ o ∈ [0x018, 0x01C, 0x020], regWord t r.toNat p.toNat o = 0) ∧
      (∀ v, ∃ t, exec (.irqStatusClear r p v) s = .next t ∧ OnlyWords s t r.toNat p.toNat [0x010] ∧
        regWord t r.toNat p.toNat 0x010 = (regWord s r.toNat p.toNat 0x010 &&& ~~~v)) ∧
      (∀ o : BitVec 12, o.toNat % 4 = 0 → accMask (rowsAt r.toNat p.toNat o.toNat) .rc ≠ 0 →
        let m := accMask (rowsAt r.toNat p.toNat o.toNat) .rc
        ∃ t, exec (.counterReadClear r p o) s = .next t ∧ WordsBut s t r.toNat p.toNat [o.toNat] ∧
          regWord t r.toNat p.toNat o.toNat = ((regWord s r.toNat p.toNat o.toNat &&& ~~~m) ||| (resetWord r.toNat p.toNat o.toNat &&& m)) ∧
          t = { s with pages := t.pages, outbox := s.outbox ++ [.readData (readWord s r.toNat p.toNat o.toNat)] })) ∧
    (s.hdm.h0Up = true → r.toNat < 77 → answers s r.toNat = true → ∃ t, exec (.timestampRead r) s = .next t ∧ WordsBut s t r.toNat 0x01 [0x04C, 0x050] ∧
      (regWord t r.toNat 0x01 0x04C).toNat = s.now.toNat / 2 ^ 32 ∧ regWord t r.toNat 0x01 0x050 = BitVec.ofNat 32 s.fine ∧
      t = { s with pages := t.pages, outbox := s.outbox ++ [.readData (BitVec.ofNat 32 s.now.toNat)] }) ∧
    (s.hdm.h0Up = true → r.toNat < 77 → answers s r.toNat = false →
      ∃ t, exec (.timestampRead r) s = .next t ∧ Counts s t 77 0 0x060 ∧ WordsBut s t 77 0 [0x060] ∧ t = { s with pages := t.pages, outbox := s.outbox ++ [.readData 0xFFFFFFFF] })

/-- The crossbar view (R321, R322): XBAR may be set only while no context holds the core, and a write of 1 at another time is ignored with fault XBAR_STATE; under XBAR a
read of SP_XB_DATA gives the word at SP_XB_ADDR and a write stores it, little-endian, every stain as it was. -/
def Obligations.CrossbarWords : Prop :=
  ∀ (s : State) (site : BitVec 7), hostCan s site.toNat 0x17 = true →
    (∀ v, (v = true → (coreAt s site.toNat).threads.any (fun t => t.2.holder.isSome) = false) →
      ∃ t, exec (.xbarSet site v) s = .next t ∧ OnlyWords s t site.toNat 0x17 [0x040] ∧ xbarOn t site.toNat = v) ∧
    ((coreAt s site.toNat).threads.any (fun t => t.2.holder.isSome) = true →
      ∃ t, exec (.xbarSet site true) s = .next t ∧ xbarOn t site.toNat = xbarOn s site.toNat ∧ inboxCodes t = inboxCodes s ++ [0x0A09]) ∧
    (xbarOn s site.toNat = true →
      exec (.xbarWordRead site) s = .next { s with outbox := s.outbox ++ [.readData (BitVec.ofNat 32 (leNat (memBytes s.store.scratch (xbarKey s site.toNat) 4)))] } ∧
      (∀ v, ∃ t, exec (.xbarWordWrite site v) s = .next t ∧ t = { s with store := { s.store with scratch := t.store.scratch } } ∧
        (∀ a, memByte t.store.scratch a = if xbarKey s site.toNat ≤ a ∧ a < xbarKey s site.toNat + 4 then
          (leBytes 4 v.toNat).getD (a - xbarKey s site.toNat) 0 else memByte s.store.scratch a)))

/-! ## Windows and the commit page -/

/-- The operations of the window table (R282 to R287, R423). OPEN of a closed window whose target lies in its context and within the context's WINDOWS; CLOSE of
an open one; DRAIN of a closing one and ABORT of an open or closing one, which close it at once when nothing is in flight. The first two send notices to the permitted senders. An operation not allowed
in the window's state is refused with WINDOW_STATE and changes no window.
It rests on the model's choices of log entries 35 and 96. -/
def Obligations.WindowOperations : Prop :=
  ∀ (s : State) (site : BitVec 7) (w : BitVec 6), hostCan s site.toNat 0x18 = true →
    let a := site.toNat
    let n := w.toNat
    let st := windowState s a n
    let state := windowOff n + 0x0C
    (∀ x, st = 0 → windowTargetOk s a n = true → ctxAt s (windowCtx s a n) = some x →
      ((List.range 64).filter (fun v => windowState s a v ≠ 0 ∧ windowCtx s a v = windowCtx s a n)).length < x.windows →
      ∃ t, exec (.wtOpen site w) s = .next t ∧ windowState t a n = 1 ∧ windowStatus t a = 0 ∧ WordsBut s t a 0x18 [0x044, state] ∧
        Notices s t 0x0C (windowSenders s a n) (noticeKey s a n) ∧ t = { s with pages := t.pages, ports := t.ports, outbox := t.outbox }) ∧
    (st = 1 → ∃ t, exec (.wtClose site w) s = .next t ∧ windowState t a n = 2 ∧ windowStatus t a = 0 ∧ WordsBut s t a 0x18 [0x044, state] ∧
      Notices s t 0x0D (windowSenders s a n) (noticeKey s a n) ∧ t = { s with pages := t.pages, outbox := t.outbox }) ∧
    (∀ i ∈ [(2, Instr.wtDrain site w), (1, .wtAbort site w), (2, .wtAbort site w)], st = i.1 →
      ∃ t, exec i.2 s = .next t ∧ windowStatus t a = 0 ∧
        (windowInflight s a n ≠ 0 → windowState t a n = 3 ∧ OnlyWords s t a 0x18 [0x044, state]) ∧
        (windowInflight s a n = 0 → WindowClosed s t a n [0x044] ∧ t = { s with pages := t.pages, ports := t.ports, hdm := t.hdm, outbox := t.outbox })) ∧
    (∀ i ∈ [([1, 2, 3], Instr.wtOpen site w), ([0, 2, 3], .wtClose site w), ([0, 1, 3], .wtDrain site w), ([0, 3], .wtAbort site w)], st ∈ i.1 →
      ∃ t, exec i.2 s = .next t ∧ windowStatus t a = 0x0506 ∧ inboxCodes t = inboxCodes s ++ [0x0506] ∧ t.ports = s.ports ∧
        (∀ v, v < 64 → windowState t a v = windowState s a v))

/-- WINDOW_WRITE, WINDOW_READ and WINDOW_WRITE_LANDED (R276, R283, R284, R353, R403), at a core with a route from the port. An element of more than 4 KiB is refused with BAD_OPERAND. A window that
takes a write counts it in flight and accepted; a read of bytes that are at hand returns them, with poison where one is stained; a refused access is counted, changes no byte, and completes with its
fault: WINDOW_CLOSED, WINDOW_BOUNDS, WINDOW_SOURCE, or the code of a page not mapped. The oldest accepted write of a window, once it can land, stands in the scratchpad or the page it targets, exclusive-ored with what was there for parity,
and is no longer in flight; a draining window closes with the last one; its signal is added to the core's token.
It rests on the model's choices of log entries 96 and 148. -/
def Obligations.WindowAccesses : Prop :=
  (∀ (s : State) (port : BitVec 2) (core : BitVec 7) (w : BitVec 6) (o n : Nat) (data : List Byte) (src : BitVec 12) (tag : BitVec 16) (poison : Bool) (site : Nat),
     inService s port.toNat = true → s.head.stopped = false → siteOf s core.toNat = some site → dropAt s (72 + port.toNat) site = none →
     let m := moduleOf s port.toNat src.toNat
     (windowTakes s site w.toNat o data.length m true = true → data.length ≤ 4096 →
       ∃ t, exec (.windowWrite port core w o data src tag poison) s = .next t ∧ windowInflight t site w.toNat = (windowInflight s site w.toNat + 1) % 2 ^ 32 ∧
         Counts s t site 0x18 (windowOff w.toNat + 0x18) ∧ WordsBut s t site 0x18 [windowOff w.toNat + 0x10, windowOff w.toNat + 0x18] ∧
         t.mesh.landings = s.mesh.landings ++ [{ port := port.toNat, site := site, window := w.toNat, offset := o, data := data, poison := poison, parity := false, signal := none, tag := none }] ∧
         t = { s with pages := t.pages, mesh := { s.mesh with landings := t.mesh.landings }, outbox := s.outbox ++ [.completion tag.toNat 0 [] false] }) ∧
     (windowTakes s site w.toNat o n m false = true → n ≤ 4096 → windowWaits s site w.toNat o n = false → packetHeld s (72 + port.toNat) site = false → packetHeld s site (72 + port.toNat) = false →
       windowLines s site w.toNat o n false = [] →
       let b := windowBytesAt s site w.toNat o n
       exec (.windowRead port core w o n src tag) s = .next { s with outbox := s.outbox ++ [.completion tag.toNat 0 (memBytes b.1 0 n) (b.2 && decide (n ≠ 0))] }) ∧
     (∀ i ∈ [(true, data.length, Instr.windowWrite port core w o data src tag poison), (false, n, .windowRead port core w o n src tag)],
       let code := if windowState s site w.toNat = 0 ∨ windowState s site w.toNat = 3 then 0x0503 else if windowBytes s site w.toNat < o + i.2.1 then 0x0504
         else if windowAdmits s site w.toNat m i.1 then 0x0307 else 0x0505
       (windowTakes s site w.toNat o i.2.1 m i.1 = false → i.2.1 ≤ 4096 →
         ∃ t addr, exec i.2.2 s = .next t ∧ Counts s t site 0x18 (windowOff w.toNat + 0x14) ∧ Counts s t site 0x18 0x050 ∧
           t = { s with pages := t.pages, outbox := s.outbox ++ [.completion tag.toNat (BitVec.ofNat 16 code) [] false, .refusal port.toNat tag.toNat (BitVec.ofNat 16 code) 0 addr] }) ∧
       (4096 < i.2.1 → ∃ t addr, exec i.2.2 s = .next t ∧
         t = { s with pages := t.pages, outbox := s.outbox ++ [.completion tag.toNat 0x0114 [] false, .refusal port.toNat tag.toNat 0x0114 0 addr] }))) ∧
  (∀ (s : State) (site : BitVec 7) (w : BitVec 6) (l : Landing) (x : Ctx), site.toNat < 72 →
     s.mesh.landings.find? (fun l => l.site = site.toNat ∧ l.window = w.toNat) = some l → ctxAt s (windowCtx s site.toNat w.toNat) = some x →
     l.signal = none → 0 < windowInflight s site.toNat w.toNat → landsNow s site.toNat w.toNat l = true →
     let a := windowBase s site.toNat w.toNat + l.offset
     ∃ t, exec (.windowWriteLanded site w) s = .next t ∧
       (windowIsCtx s site.toNat w.toNat = false →
         let key := rowKey site.toNat x.spBase + a
         (∀ b, memByte t.store.scratch b =
           if key ≤ b ∧ b < key + l.data.length then (if l.parity then memByte s.store.scratch b ^^^ l.data.getD (b - key) 0 else l.data.getD (b - key) 0)
           else memByte s.store.scratch b) ∧
         t.store = { s.store with scratch := t.store.scratch, stainScratch := t.store.stainScratch } ∧ t.ctxs = s.ctxs) ∧
       (∀ e, windowIsCtx s site.toNat w.toNat = true → tFind x.pt (a / 2 ^ 21) = some e → e.state ≠ 2 → a % 2 ^ 21 + l.data.length ≤ 2 ^ 21 →
         PageBytes s t e (a % 2 ^ 21) (if l.parity then (pageBytes s e (a % 2 ^ 21) l.data.length).zipWith (· ^^^ ·) l.data else l.data)) ∧
       t.cores = s.cores ∧ t.queues = s.queues ∧
       t.mesh.landings = s.mesh.landings.eraseP (fun l => l.site = site.toNat ∧ l.window = w.toNat) ∧
       windowInflight t site.toNat w.toNat = windowInflight s site.toNat w.toNat - 1 ∧
       (windowState t site.toNat w.toNat = if windowState s site.toNat w.toNat = 3 ∧ windowInflight s site.toNat w.toNat = 1 then 0 else windowState s site.toNat w.toNat)) ∧
  (∀ (s : State) (site : BitVec 7) (w : BitVec 6) (l : Landing) (token n : Nat) (c : Nat), site.toNat < 72 →
     s.mesh.landings.find? (fun l => l.site = site.toNat ∧ l.window = w.toNat) = some l → landsNow s site.toNat w.toNat l = true →
     l.signal = some (token, n) → (tokenOf (coreAt s site.toNat) token).toNat + n ≤ 65535 →
     ∃ t, exec (.windowWriteLanded site w) s = .next t ∧
       (tokenOf (coreAt t site.toNat) c).toNat = (tokenOf (coreAt s site.toNat) c).toNat + (if c = token then n else 0))

/-- The commands of the commit page (R364, R394, R402, R535, R536). An armed record in form; the end of the arming; a resolution refused away from module 0 or with no step to resolve,
and one that commits the withheld step on the only module of a job; priming refused without a training context, a shard record or a header in form, and waiting for pages and lines that it accesses (R281, R411); none accepted by a module stopped by a fault of effect MODULE (R442); the digest selected for reading.
It rests on the model's choices of log entries 49, 73 and 150. -/
def Obligations.CommitPageCommands : Prop :=
  ∀ (s : State), hostCan s 76 0x29 = true →
    (let r := parseRecord (recordBytes s)
     let w := match loadedOf s (recordCtx s r.kind) with | some l => l.weights.take l.width | none => []
     armed s = false → s.head.stopped = false →
      (recordOk (recordBytes s) = true → emptySlice w (tokenTiles r) = false →
        ∃ t, exec .stepArm s = .next t ∧ armed t = true ∧ LastOp t 1 0 ∧ OnlyWords s t 76 0x29 [0x044, 0x070]) ∧
      (recordOk (recordBytes s) = false → ∃ t, exec .stepArm s = .next t ∧ CommitRefused s t 1 0x0B07 ∧ armed t = false)) ∧
    (∃ t, exec .stepDisarm s = .next t ∧ armed t = false ∧ OnlyWords s t 76 0x29 [0x044]) ∧
    (∀ kind (module : BitVec 12), ∃ t, exec (.digestSelect kind module) s = .next t ∧ OnlyWords s t 76 0x29 [0x074] ∧
      regWord t 76 0x29 0x074 = BitVec.ofNat 32 (boolNat kind * 2 ^ 12 + module.toNat) ∧
      selectedDigest t = tFind s.step.digests (boolNat kind * 2 ^ 12 + module.toNat)) ∧
    (s.head.stopped = true → ∀ suspect, ∀ i ∈ [Instr.stepArm, .resolveCommit, .resolveDiscard suspect, .prime], exec i s = .next s) ∧
    (∀ suspect, ∀ i ∈ [(false, Instr.resolveCommit), (true, .resolveDiscard suspect)], s.head.stopped = false →
      (myIndex s ≠ 0 ∨ (commitState s ≠ 4 ∧ ¬(commitState s = 3 ∧ i.1 = true))) → ∃ t, exec i.2 s = .next t ∧ CommitRefused s t 2 0x0B06) ∧
    (∀ w r, s.head.stopped = false → myIndex s = 0 → jobModules s = 1 → commitState s = 4 → s.withheld = some w → w.record = some r →
      (∃ t, exec .resolveCommit s = .next t ∧ commitState t = 1 ∧ activeGen t = 1 - activeGen s ∧ t.withheld = none ∧ LastOp t 2 0 ∧
        t.risk.committed = s.risk.committed + 1 ∧ tGet 0 t.tally.writes 3 = tGet 0 s.tally.writes 3 + 1) ∧
      (∀ suspect, ∃ t, exec (.resolveDiscard suspect) s = .next t ∧ commitState t = 1 ∧ activeGen t = activeGen s ∧ t.withheld = none ∧ LastOp t 2 0 ∧
        t.risk.committed = s.risk.committed ∧ (0x090A ∈ (inboxCodes t).drop (inboxCodes s).length ↔ suspect.toNat = 0))) ∧
    (commitState s = 0 → s.head.stopped = false →
      (ctxAt s (trainCtx s) = none ∨ s.head.shard = none → ∃ t, exec .prime s = .next t ∧ CommitRefused s t 3 0x0B0A) ∧
      (∀ l x h, loadedOf s (trainCtx s) = some l → ctxAt s (trainCtx s) = some x → x.ending = none → s.head.shard = some h →
        (∀ r, rangesWait s (primeRanges s l) = some r → exec .prime s = .next { r with step := { r.step with primeWaits := true } }) ∧
        (rangesWait s (primeRanges s l) = none → ctxStained s x (genBase s 0) 4096 = false →
        (ownedTiles s l).any (fun (y : Nat × Param × Nat) => ctxStained s x (blockAddr s l 0 y.1 0 y.2.1.frozen) (tileChunks y.2.1.format * 8256)) = false →
        headerOk (trainBytes s (genBase s 0) 4096) = true → (setUpSecure s l).isSome = true →
        ∃ t, exec .prime s = .next t ∧ commitState t = 1 ∧ activeGen t = 0 ∧ LastOp t 3 0 ∧ t.step.record = none ∧ t.risk.rho = l.policy.rhoPrior ∧
          t.risk.expected = 0 ∧ t.secure.planned = true ∧ t.withheld = none)))

/-! ## Securing, ports, pegs -/

/-- Securing (R457 to R461, R437). SECURE_START opens a full round, or a delta round onto a sealed slot, and is refused in a job of one module or while a round is under way; SECURE_SENT, once both parts are sent,
makes the round SENT; SECURE_SEAL seals it, and is refused before that. A MIRROR_WRITE or PARITY_WRITE from its group's SOURCE, at a core with a route from the port, is taken as a write of its window, parity to be
exclusive-ored; one from elsewhere is dropped.
It rests on the model's choices of log entries 46 and 156. -/
def Obligations.Securing : Prop :=
  (∀ (s : State) (full : Bool), hostCan s 76 0x29 = true → s.head.stopped = false → (loadedOf s (trainCtx s)).isSome = true →
     (jobModules s = 1 → ∃ t, exec (.secureStart full) s = .next t ∧ CommitRefused s t 4 0x090C) ∧
     (jobModules s ≠ 1 → s.secure.active.isSome = true → ∃ t, exec (.secureStart full) s = .next t ∧ CommitRefused s t 4 0x090D) ∧
     (jobModules s ≠ 1 → s.secure.planned = true → commitState s ≠ 0 → fld s 76 0x29 (wordFld 0x060) = genStep s → s.secure.active = none →
       let e := match newestSealed s with | some e => 1 - e | none => 0
       (full = true ∨ (secSlot s e).isSealed = true) →
       ∃ t, exec (.secureStart full) s = .next t ∧ t.secure.active = some (e, full) ∧ t.secure.rounds = s.secure.rounds + 1 ∧ securePhase t = 1 ∧ LastOp t 4 0 ∧
         commitState t = commitState s ∧ (e < s.secure.slots.length → (secSlot t e).round = s.secure.rounds + 1 ∧ (secSlot t e).isSealed = false ∧
           (secSlot t e).genStep = genStep s))) ∧
  (∀ (s : State) (e : Nat) (full : Bool), s.secure.active = some (e, full) →
     (securePhase s = 1 → s.secure.sent = 3 →
       ∃ t, exec .secureSent s = .next t ∧ securePhase t = 2 ∧ Event s t 76 0x29 1 [0x06C] ∧
         t = { s with pages := t.pages, hdm := t.hdm, outbox := t.outbox, secure := { s.secure with uncompleted := 0, first := false } }) ∧
     (hostCan s 76 0x29 = true → s.head.stopped = false → (loadedOf s (trainCtx s)).isSome = true → securePhase s = 2 →
       ∃ t, exec .secureSeal s = .next t ∧ securePhase t = 3 ∧ t.secure.active = none ∧ LastOp t 5 0 ∧ t.risk.expected = 0 ∧
         t.risk.committed = s.risk.committed - s.secure.mark ∧ (e < s.secure.slots.length → (secSlot t e).isSealed = true ∧ (secSlot t e).round = (secSlot s e).round)) ∧
     (hostCan s 76 0x29 = true → s.head.stopped = false → securePhase s ≠ 2 → ∃ t, exec .secureSeal s = .next t ∧ CommitRefused s t 5 0x090D)) ∧
  (∀ (s : State) (m : Tow) (site w src : Nat), ∀ i ∈ [(0x08, false, Instr.mirrorWrite m), (0x09, true, .parityWrite m)], towArrives s i.1 m = true →
     (slotGroup s m = none ∨ (∃ x, slotGroup s m = some x ∧ (siteOf s (m.key.toNat % 128) ≠ some x.1 ∨ x.2.1 ≠ m.key.toNat / 256 % 64 ∨ x.2.2 ≠ m.src.toNat)) →
       ∃ t, exec i.2.2 s = .next t ∧ TowDropped s t m 0x0502) ∧
     (slotGroup s m = some (site, w, src) → siteOf s (m.key.toNat % 128) = some site → m.key.toNat / 256 % 64 = w → m.src.toNat = src →
       let o := m.key.toNat / 65536 % 2 ^ 32 * 128
       windowTakes s site w o m.payload.length (some src) true = true → dropAt s (72 + m.port.toNat) site = none →
       ∃ t, exec i.2.2 s = .next t ∧
         t.mesh.landings = s.mesh.landings ++ [{ port := m.port.toNat, site := site, window := w, offset := o, data := m.payload, poison := m.poison, parity := i.2.1, signal := if m.flags = 1 then some (leAt m.body 0 1, leAt m.body 1 1) else none, tag := some m.tag.toNat }] ∧
         windowInflight t site w = (windowInflight s site w + 1) % 2 ^ 32 ∧ t = { s with pages := t.pages, mesh := { s.mesh with landings := t.mesh.landings } }))

/-- The fabric ports (R405, R407, R413, R424, R425, R434, R438). A tow message that comes through a port out of service, or to a module stopped by a fault of effect MODULE, does nothing; one out of form is dropped with
TOW_FORMAT, one from elsewhere with TOW_SOURCE. FABRIC_PORT_ENABLE sets ENABLE. A link that trains in full with its IDE keys, on a port that the job record names, enters service; one in service that goes
down or loses its keys leaves it with PORT_DOWN. FP_BARRIER on the only module of a job ends at once with vector 64; in a larger job its first round goes out. A BARRIER message is one known already, is kept
for a barrier that has not started, lets the next round go out, or is the last round and ends the barrier. WINDOW_OPEN is kept, WINDOW_CLOSE forgets it. A refusal record or an abort of a peer is counted and
recorded with its mark, or for a plain access that of the command that made it, and GEN_MISMATCH stops the feeder whose request has the record's tag.
It rests on the model's choices of log entries 35, 51, 150, 151 and 153. -/
def Obligations.FabricPorts : Prop :=
  (∀ (s : State) (m : Tow), ∀ i ∈ towRows m,
     (inService s m.port.toNat = false ∨ s.head.stopped = true → exec i.2 s = .next s) ∧
     (inService s m.port.toNat = true → s.head.stopped = false → towFormatOk i.1 m = false → ∃ t, exec i.2 s = .next t ∧ TowDropped s t m 0x0501) ∧
     (inService s m.port.toNat = true → s.head.stopped = false → towFormatOk i.1 m = true → towSourceOk s m = false → ∃ t, exec i.2 s = .next t ∧ TowDropped s t m 0x0502)) ∧
  (∀ (s : State) (p : BitVec 2) (pbr : BitVec 12) (base : Dword),
     let r := 72 + p.toNat
     (hostCan s r 0x20 = true → ∃ t, exec (.fabricPortEnable p) s = .next t ∧ fld t r 0x20 ⟨0x040, 0, 0⟩ = 1 ∧ OnlyWords s t r 0x20 [0x040]) ∧
     (portPresent s p.toNat = true → reachUp s r = true → reachUp s (attachSite r) = true → fld s r 0x20 ⟨0x040, 0, 0⟩ = 1 → fld s r 0x20 ⟨0x040, 3, 2⟩ ≤ 2 →
       (jobPbr s p.toNat (myIndex s)).isSome = true → inService s p.toNat = false → nothingWaits s →
       ∃ t, exec (.fabricLinkTrained p 2 true true pbr base) s = .next t ∧ inService t p.toNat = true ∧ (portAt t p.toNat).base = base ∧
         regWord t r 0x20 0x048 = BitVec.ofNat 32 pbr.toNat ∧ fld t r 0x20 ⟨0x044, 31, 30⟩ = 3 ∧ Event s t r 0x20 0 [0x044, 0x048] ∧
         t = { s with pages := t.pages, ports := t.ports, hdm := t.hdm, outbox := t.outbox }) ∧
     (∀ i ∈ [Instr.fabricLinkDown p, .ideFail (p.setWidth 3)], inService s p.toNat = true → fld s r 0x20 ⟨0x044, 31, 30⟩ = 3 →
       ∃ t, exec i s = .next t ∧ inService t p.toNat = false ∧ fld t r 0x20 ⟨0x044, 30, 30⟩ = 0 ∧ 0x050A ∈ newCodes s t)) ∧
  (∀ (s : State) (p : BitVec 2) (id : Word),
     (hostCan s (72 + p.toNat) 0x20 = true → s.head.stopped = false → jobModules s ≤ 1 → ∃ t, exec (.fpBarrier p id) s = .next t ∧ (portAt t p.toNat).barrierId = none ∧ Interrupts s t true ∧
       t = { s with ports := t.ports, hdm := t.hdm, outbox := t.outbox }) ∧
     (hostCan s (72 + p.toNat) 0x20 = true → s.head.stopped = false → 1 < jobModules s → jobModules s ≤ 4096 → s.head.job.isSome = true → inService s p.toNat = true → (portAt s p.toNat).barrierRounds.contains (id.toNat * 256) = false →
       ∃ t m, exec (.fpBarrier p id) s = .next t ∧ (portAt t p.toNat).barrierId = some id ∧ t.outbox = s.outbox ++ [.tow m] ∧ m.port = p ∧ m.typ = 0x06 ∧
         m.dst.toNat = (myIndex s + 1) % jobModules s ∧ m.key.toNat = id.toNat ∧ t = { s with ports := t.ports, outbox := t.outbox })) ∧
  (∀ (s : State) (m : Tow), towArrives s 0x06 m = true →
     let p := m.port.toNat
     let id := m.key.toNat % 2 ^ 32
     let r := m.key.toNat / 2 ^ 32 % 256
     let x := id * 256 + r
     let past := m.step.toNat * 2 ^ 40 + x
     ((portAt s p).barrierRounds.contains x = true ∨ (portAt s p).barrierPast.contains past = true → ∃ t, exec (.barrierMessage m) s = .next t ∧ TowRepeated s t m) ∧
     ((portAt s p).barrierRounds.contains x = false → (portAt s p).barrierPast.contains past = false → (portAt s p).barrierId ≠ some (BitVec.ofNat 32 id) →
       ∃ t, exec (.barrierMessage m) s = .next t ∧ (portAt t p).barrierRounds = (portAt s p).barrierRounds ++ [x] ∧ (portAt t p).barrierPast = (portAt s p).barrierPast ++ [past] ∧ (portAt t p).barrierId = (portAt s p).barrierId ∧
         t = { s with ports := t.ports, outbox := s.outbox ++ [.completion m.tag.toNat 0 [] false] }) ∧
     ((portAt s p).barrierRounds.contains x = false → (portAt s p).barrierPast.contains past = false → (portAt s p).barrierId = some (BitVec.ofNat 32 id) → barrierAt s p id = r → r + 1 < roundsOf (jobModules s) → (portAt s p).barrierRounds.contains (x + 1) = false →
       ∃ t n, exec (.barrierMessage m) s = .next t ∧ (portAt t p).barrierId = some (BitVec.ofNat 32 id) ∧ (portAt t p).barrierRounds = (portAt s p).barrierRounds ++ [x] ∧
         t.outbox = s.outbox ++ [.completion m.tag.toNat 0 [] false, .tow n] ∧ n.typ = 0x06 ∧ n.port = m.port ∧ n.dst = BitVec.ofNat 16 ((myIndex s + 2 ^ (r + 1)) % jobModules s) ∧
         n.key = BitVec.ofNat 64 (id + (r + 1) * 2 ^ 32)) ∧
     ((portAt s p).barrierRounds.contains x = false → (portAt s p).barrierPast.contains past = false → (portAt s p).barrierId = some (BitVec.ofNat 32 id) → barrierAt s p id = r → r + 1 = roundsOf (jobModules s) →
       ∃ t, exec (.barrierMessage m) s = .next t ∧ (portAt t p).barrierId = none ∧ (portAt t p).barrierPast = (portAt s p).barrierPast ++ [past] ∧ (portAt t p).barrierRounds = (portAt s p).barrierRounds.filter (fun y => y / 256 ≠ id))) ∧
  (∀ (s : State) (m : Tow),
     let key := m.key.toNat % 2 ^ 14
     let x := (m.src.toNat, key, leAt m.body 5 4)
     (towArrives s 0x0C m = true → s.secure.noticed.contains x = true → ∃ t, exec (.windowOpen m) s = .next t ∧ TowRepeated s t m) ∧
     (towArrives s 0x0C m = true → s.secure.noticed.contains x = false → ∃ t rest, exec (.windowOpen m) s = .next t ∧
       t.secure.noticed = s.secure.noticed.filter (fun y => !(y.1 = x.1 ∧ y.2.1 = x.2.1)) ++ [x] ∧ t.outbox = s.outbox ++ .completion m.tag.toNat 0 [] false :: rest) ∧
     (towArrives s 0x0D m = true →
       let mine := fun (y : Nat × Nat × Nat) => decide (y.1 = m.src.toNat ∧ y.2.1 = key)
       (s.secure.noticed.any mine = false → ∃ t, exec (.windowClose m) s = .next t ∧ TowRepeated s t m) ∧
       (s.secure.noticed.any mine = true → ∃ t, exec (.windowClose m) s = .next t ∧
         t = { s with secure := { s.secure with noticed := s.secure.noticed.filter (fun y => !mine y) }, outbox := s.outbox ++ [.completion m.tag.toNat 0 [] false] }))) ∧
  (∀ (s : State) (p : BitVec 2) (code tag : BitVec 16) (mark : Word) (addr : Dword), portPresent s p.toNat = true →
     (∃ t, exec (.refusalRecord p code tag mark addr) s = .next t ∧ Recorded s t code.toNat ∧ Counts s t (72 + p.toNat) 0x20 0x060 ∧ t.store = s.store ∧ t.queues = s.queues ∧
       t.head.inbox.getLast?.map FaultRec.mark = some (if mark = 0 then issuerMark s p.toNat addr.toNat else mark) ∧
       (code ≠ 0x0B08 → t.ports = s.ports) ∧
       (code = 0x0B08 → ∀ k < 4,
         let asks := decide (feederPort s k = p.toNat) && (portAt s k).fetches.any (fun f => !f.ready && decide (f.parts ≠ 0) && decide (f.first = tag.toNat))
         portAt t k = if asks then { portAt s k with feedStopped := true } else portAt s k)) ∧
     (∃ t, exec (.peerAbort p tag mark) s = .next t ∧ Recorded s t 0x0507 ∧ Counts s t (72 + p.toNat) 0x20 0x060 ∧ t.store = s.store ∧ t.ports = s.ports ∧ t.queues = s.queues))

/-- The host port (R408, R410 to R413, R439, R492). HDM_ENABLE starts the HDM window's decoding; HDM_DISABLE stops it, or asks the host for every tracked line first. An access served at once reads or
writes its line, and gives or takes the line in the snoop filter, and a read of stained bytes is poisoned and counted; one that finds nothing is counted, recorded, and poisons a read. A line that the host
answers for leaves the filter or stays as a clean copy, with the host's 64 bytes written to its page. A write to the vector table or to the function mask masks, or unmasks and sends what was pending and is masked no more. The link going down stops the decoding and empties the filter;
a link that trains shows its width and formats and sends the pending vectors that are not masked.
It rests on the model's choices of log entries 22 and 53. -/
def Obligations.HostPort : Prop :=
  (∀ (s : State), hostCan s 76 0x20 = true →
     (hdmEnabled s = false → (hdmFields s).2.2 ≠ 0 → s.head.stopped = false → s.hdm.draining = false → ∃ t, exec .hdmEnable s = .next t ∧ hdmEnabled t = true ∧ hdmActive t = true ∧
       WordsBut s t 76 0x20 [0x040, 0x050] ∧ t = { s with pages := t.pages, hdm := { s.hdm with window := some (hdmFields s) } }) ∧
     (hdmEnabled s = true → s.hdm.filter = [] → ∃ t, exec .hdmDisable s = .next t ∧ hdmEnabled t = false ∧ hdmActive t = false ∧
       WordsBut s t 76 0x20 [0x040, 0x050] ∧ t = { s with pages := t.pages, hdm := { s.hdm with window := none, draining := false } }) ∧
     (hdmEnabled s = true → s.hdm.filter ≠ [] → ∃ t, exec .hdmDisable s = .next t ∧ hdmEnabled t = false ∧ hdmActive t = hdmActive s ∧ t.hdm.filter = s.hdm.filter ∧
       t.hdm.window = s.hdm.window ∧ t.hdm.draining = true ∧ (∀ x ∈ s.hdm.filter, (x.1, true) ∈ t.hdm.asked))) ∧
  (∀ (s : State) (offset : Nat) (write : Bool) (data : List Byte), s.hdm.h0Up = true →
     let line := offset / 64
     (hdmAbsent s offset data.length = true → ∃ t, exec (.hdmAccess offset write data) s = .next t ∧ Recorded s t 0x0508 ∧ Counts s t 76 0x20 0x058 ∧ t.store = s.store ∧
       (write = false → .hostData none ∈ t.outbox)) ∧
     (hdmReady s offset write data.length = true →
       (write = false → (hdmLine s line).2 = false → exec (.hdmAccess offset write data) s = .next { s with outbox := s.outbox ++ [.hostData (some (hdmLine s line).1)], hdm := { s.hdm with filter := s.hdm.filter.filter (fun y => y.1 ≠ line) ++ [(line, true)] } }) ∧
       (write = false → (hdmLine s line).2 = true → ∃ t, exec (.hdmAccess offset write data) s = .next t ∧ Counts s t 76 0x20 0x058 ∧ WordsBut s t 76 0x20 [0x058] ∧
         t = { s with pages := t.pages, outbox := s.outbox ++ [.hostData none] }) ∧
       (∀ x e, write = true → ctxAt s (hdmCtx s) = some x → tFind x.pt ((hdmBase s + offset) / 2 ^ 21) = some e → e.state ≠ 2 →
         ∃ t, exec (.hdmAccess offset write data) s = .next t ∧ PageBytes s t e ((hdmBase s + offset) % 2 ^ 21) data ∧
           t.hdm = { s.hdm with filter := s.hdm.filter.filter (fun y => y.1 ≠ line) } ∧ t.pages = s.pages ∧ t.outbox = s.outbox ∧ t.ctxs = s.ctxs))) ∧
  (∀ (s : State) (line : Nat) (inv : Bool), s.hdm.asked.find? (fun x => x.1 = line) = some (line, inv) → nothingResumes s →
     (s.hdm.draining = false → exec (.backInvalidateResponse line []) s = .next { s with hdm := { s.hdm with asked := s.hdm.asked.filter (fun x => x.1 ≠ line), filter := if inv then s.hdm.filter.filter (fun x => x.1 ≠ line) else s.hdm.filter.map (fun x => if x.1 = line then (line, false) else x) } }) ∧
     (s.hdm.draining = true → hdmEnabled s = false → inv = true → s.hdm.filter.all (fun x => decide (x.1 = line)) = true →
       ∃ t, exec (.backInvalidateResponse line []) s = .next t ∧ t.hdm.filter = [] ∧ t.hdm.draining = false ∧ t.hdm.window = none ∧ hdmActive t = false)) ∧
  (∀ (s : State) (line : Nat) (inv : Bool) (data : List Byte) (x : Ctx) (e : Pte), s.hdm.asked.find? (fun x => x.1 = line) = some (line, inv) → nothingResumes s → s.hdm.draining = false →
     data.length = 64 → ctxAt s (hdmCtx s) = some x → tFind x.pt ((hdmBase s + line * 64) / 2 ^ 21) = some e → e.state ≠ 2 →
     ∃ t, exec (.backInvalidateResponse line data) s = .next t ∧ PageBytes s t e ((hdmBase s + line * 64) % 2 ^ 21) data ∧ t.hdm.asked = s.hdm.asked.filter (fun x => x.1 ≠ line)) ∧
  (∀ (s : State) (w : MsixWrite), s.hdm.h0Up = true → romWaits s = false → (∀ v, w.vector = some v → v.toNat ≤ 64) →
     let masked := match w.vector with
       | none => s.hdm.msixMasked
       | some v => if w.mask then addOnce s.hdm.msixMasked v.toNat else s.hdm.msixMasked.filter (fun x => x ≠ v.toNat)
     let all := if w.vector = none then w.mask else s.hdm.functionMask
     let goes := fun (v : Nat) => !all && !w.mask && !masked.contains v
     exec (.msixUnmask w) s = .next { s with outbox := s.outbox ++ (s.hdm.msixPending.filter goes).map .msix, hdm := { s.hdm with functionMask := all, msixMasked := masked, msixPending := s.hdm.msixPending.filter (fun v => !goes v) } }) ∧
  (∀ (s : State),
     (s.hdm.h0Up = true → ∃ t, exec .h0LinkDown s = .next t ∧ t.hdm = { s.hdm with filter := [], asked := [], waiting := [], window := none, draining := false, h0Up := false, everIde := false } ∧ hdmEnabled t = false ∧
       regWord t 76 0x20 0x050 = 0 ∧ WordsBut s t 76 0x20 [0x040, 0x050] ∧ t = { s with pages := t.pages, hdm := t.hdm, mgmt := { s.mgmt with signed := none } }) ∧
     (∀ ide, s.hdm.h0Up = false → reachUp s 76 = true → 2 ≤ bootPhase s → ∃ t, exec (.h0LinkUp 1 true true ide) s = .next t ∧ t.hdm.h0Up = true ∧ fld t 76 0x20 ⟨0x050, 31, 29⟩ = 4 + boolNat ide * 2 + 1 ∧
       fld t 76 0x20 ⟨0x050, 7, 5⟩ = 3 ∧ (s.hdm.functionMask = false → ∀ v ∈ s.hdm.msixPending, s.hdm.msixMasked.contains v = false → .msix v ∈ t.outbox)))

/-- Pegs (R435, R504 to R507, R526). A write to PG_TRIGGER, an edge on PEG_IN and a PEG message raise a peg where their source is enabled, which is on its way or missed; the oldest raised
peg latches: every page of every powered reach copies its registers, with the timestamp and the PEG_ID, and the peg page shows it; a local one goes to every other module. A release, by the host
or by time, ends the hold.
It rests on the model's choice of log entry 50. -/
def Obligations.Pegs : Prop :=
  (∀ (s : State),
     (hostCan s 76 0x2B = true → pegEnabled s 1 = true → ∃ t, exec .pgTrigger s = .next t ∧ PegRaised s t 1 none) ∧
     (hostCan s 76 0x2B = true → pegEnabled s 1 = false → exec .pgTrigger s = .next s) ∧
     (reachUp s 76 = true → pegEnabled s 0 = true → ∃ t, exec .pegInEdge s = .next t ∧ PegRaised s t 0 none) ∧
     (hostCan s 76 0x2B = true → ∃ t, exec .pgRelease s = .next t ∧ pegHeld t = false ∧ OnlyWords s t 76 0x2B [0x050]) ∧
     (pegHeld s = true → fld s 76 0x2B ⟨0x040, 31, 16⟩ ≠ 0 → ∃ t, exec .autoRelease s = .next t ∧ pegHeld t = false ∧ OnlyWords s t 76 0x2B [0x050]) ∧
     (pegHeld s = true → fld s 76 0x2B ⟨0x040, 31, 16⟩ = 0 → exec .autoRelease s = .next s)) ∧
  (∀ (s : State) (r : PegReq) (rest : List PegReq), s.pegs = r :: rest → pegHeld s = false →
     let id := match r.remote with | some x => x.2.1 | none => (s.pegCount + 1) % 2 ^ 32
     ∃ t, exec .pegLatch s = .next t ∧ t.pegs = rest ∧ pegHeld t = true ∧ fld t 76 0x2B ⟨0x050, 4, 0⟩ = r.sources % 32 ∧ (regWord t 76 0x2B 0x054).toNat = id % 2 ^ 32 ∧
       .pegOut ∈ t.outbox ∧ irqPending t 76 0x2B = decide ((regWord s 76 0x2B 0x010 ||| 1) &&& regWord s 76 0x2B 0x014 ≠ 0) ∧
       (∀ a p o, (a = 77 ∧ p = 0) ∨ (a < 77 ∧ reachUp s a = true ∧ p ∈ pageIndexes ∧ (blockOf a p).isSome = true) → o % 4 = 0 → o < 1008 →
         regWord t a p (0xC10 + o) = valueWord s a p o ∧ (regWord t a p 0xC00).toNat = s.now.toNat % 2 ^ 32 ∧ (regWord t a p 0xC0C).toNat = id % 2 ^ 32) ∧
       (∀ a p o, a < 77 → reachUp s a = false → p < 64 → o < 4096 → ¬(a = 76 ∧ p = 0x2B) → regWord t a p o = regWord s a p o) ∧
       (r.remote = none → t.pegCount = id ∧ t.pegOrigin = none ∧ (s.head.job.isSome = true → inService s (controlPort s) = true →
         (t.outbox.filterMap (fun x => match x with | .tow m => some m | _ => none)).map (·.dst) =
           (s.outbox.filterMap (fun x => match x with | .tow m => some m | _ => none)).map (·.dst) ++ (otherModules s).map (fun k => BitVec.ofNat 16 k))) ∧
       (∀ x, r.remote = some x → t.pegCount = s.pegCount ∧ t.pegOrigin = some (x.2.2.1, x.2.2.2) ∧ fld t 76 0x2B ⟨0x058, 15, 15⟩ = 1 ∧ fld t 76 0x2B ⟨0x058, 11, 0⟩ = x.1 % 2 ^ 12)) ∧
  (∀ (s : State) (m : Tow), towArrives s 0x07 m = true → pegEnabled s 3 = true → pegHeld s = false →
     let id := m.key.toNat % 2 ^ 32
     let origin := m.key.toNat / 2 ^ 32 % 2 ^ 12
     let known := s.pegs.any (fun r => match r.remote with | some x => x.1 = origin && x.2.1 = id | none => false)
     (known = true → ∃ t, exec (.pegMessage m) s = .next t ∧ TowRepeated s t m) ∧
     (known = false → ∃ t, exec (.pegMessage m) s = .next t ∧ PegRaised s t 3 (some (origin, id, BitVec.ofNat 64 (leAt m.body 0 8), leAt m.body 8 4)) ∧
       t.outbox = s.outbox ++ [.completion m.tag.toNat 0 [] false]))

/-! ## Start-up, management, contexts, programs -/

/-- Start-up and resets (R480 to R490, R493). COLD_START and each warm reset start the ROM again; while the flash is written a warm reset waits. The ROM accepts the image or waits with the fault of the first check that
fails; ten waves bring the reaches up; READY numbers the cores that are in service and reports the others. A pushed image goes to the flash once it is whole, refused before that by running firmware where a check
fails; the end of the write lets a waiting reset, or the waiting ROM, go on.
It rests on the model's choices of log entries 60, 61 and 66. -/
def Obligations.StartUp : Prop :=
  (∀ (s : State) (straps : BitVec 6), reachUp s 76 = false → s.power.refclk = true →
     ∃ t, exec (.coldStart straps) s = .next t ∧ Restarted s t ∧ t.mgmt.straps = straps ∧ t.tally.powerOns = s.tally.powerOns + 1) ∧
  (∀ (s : State) (value : Word), hostCan s 76 0x2D = true →
     (value ≠ 0x54455352 → exec (.btReset value) s = .next s) ∧
     (value = 0x54455352 → s.head.pushing = true → exec (.btReset value) s = .next { s with head := { s.head with resetWaits := true } }) ∧
     (value = 0x54455352 → s.head.pushing = false → ∃ t, exec (.btReset value) s = .next t ∧ Restarted s t ∧ t.head.mbStatus = 3)) ∧
  (∀ (s : State) (r : Req), mbTakes s 0x04 r = true →
     (s.head.pushing = false → ∃ t, exec (.reset r) s = .next t ∧ Restarted s t ∧ t.head.mbStatus = 3) ∧
     (s.head.pushing = true → exec (.reset r) s = .next { s with head := { s.head with resetWaits := true, mbStatus := 1 } })) ∧
  (∀ (s : State), managed s = true → bootPhase s ≠ 2 → bootPhase s ≠ 6 →
     (s.head.pushing = false → ∃ t, exec .pldmReset s = .next t ∧ Restarted s t ∧ t.head.mbStatus = 3) ∧
     (s.head.pushing = true → exec .pldmReset s = .next { s with head := { s.head with resetWaits := true } })) ∧
  (∀ (s : State), reachUp s 76 = true →
     (bootPhase s = 1 → imageFault s s.head.flash = none →
       ∃ t, exec .imageVerify s = .next t ∧ bootPhase t = 3 ∧ fld t 76 0x2D ⟨0x050, 0, 0⟩ = 1 ∧ fld t 76 0x2D ⟨0x040, 23, 16⟩ = 0 ∧
         (regWord t 76 0x2D 0x044).toNat = leAt (memBytes s.head.flash 0 12) 8 4 ∧ t.head.stopped = false) ∧
     (∀ code detail, bootPhase s = 1 → imageFault s s.head.flash = some (code, detail) →
       ∃ t, exec .imageVerify s = .next t ∧ bootPhase t = 2 ∧ fld t 76 0x2D ⟨0x050, 0, 0⟩ = 0 ∧ Recorded s t code) ∧
     (∀ w, bootPhase s = 3 → fld s 76 0x2D ⟨0x040, 23, 16⟩ = w → w ≤ 9 →
       ∃ t, exec .waveUp s = .next t ∧ (∀ r ∈ waveReaches w, reachUp t r = true ∧ fld t r 0x01 ⟨0x044, 31, 30⟩ = 3) ∧
         (∀ r, r ∉ waveReaches w → reachUp t r = reachUp s r) ∧
         (w < 9 → bootPhase t = 3 ∧ fld t 76 0x2D ⟨0x040, 23, 16⟩ = w + 1) ∧ (w = 9 → bootPhase t = 4)) ∧
     (∀ failed, bootPhase s = 4 →
       let sites := (List.range 72).filter (fun k => siteGood s k && reachUp s k && !failed.contains k)
       ∃ t, exec (.ready failed) s = .next t ∧ bootPhase t = 5 ∧ coreCount t = sites.length ∧ (∀ k < 72, siteOf t k = sites[k]?) ∧
         newCodes s t = ((List.range 72).filter (fun k => siteGood s k && failed.contains k)).map (fun _ => 0x0903) ∧
         (s.head.mbStatus = 3 → t.head.mbStatus = 0) ∧ (s.head.mbStatus ≠ 3 → t.head.mbStatus = s.head.mbStatus))) ∧
  (∀ (s : State) (r : Req), mbTakes s 0x01 r = true → 8 ≤ (mbBody r).length → ((mbBody r).drop 8).length ≤ 65504 →
     let p := mbBody r
     let o := leAt p 0 8 % 2 ^ 63
     let whole := memStore s.head.pushed o (p.drop 8)
     o + (p.drop 8).length ≤ imageLimit →
     (leAt p 0 8 < 2 ^ 63 → ∃ t, exec (.imagePush r) s = .next t ∧ Answered t 0x01 r 0 [] ∧ t.head.pushed = whole ∧ t.head.flash = s.head.flash) ∧
     (2 ^ 63 ≤ leAt p 0 8 → bootPhase s = 2 ∨ bootPhase s = 6 ∨ imageFault { s with head := { s.head with pushed := whole } } whole = none →
       ∃ t, exec (.imagePush r) s = .next t ∧ Answered t 0x01 r 0 [] ∧ ImageTaken s t whole) ∧
     (∀ f, 2 ^ 63 ≤ leAt p 0 8 → bootPhase s ≠ 2 → bootPhase s ≠ 6 → imageFault { s with head := { s.head with pushed := whole } } whole = some f →
       ∃ t, exec (.imagePush r) s = .next t ∧ Answered t 0x01 r f.1 [] ∧ Recorded s t f.1 ∧ t.head.flash = s.head.flash ∧ t.head.pushed = [])) ∧
  (∀ (s : State) (image : List Byte), managed s = true → image.length ≤ imageLimit →
     bootPhase s = 2 ∨ bootPhase s = 6 ∨ imageFault { s with head := { s.head with pushed := memOf image } } (memOf image) = none →
     ∃ t, exec (.pldmFirmwareUpdate image) s = .next t ∧ ImageTaken s t (memOf image) ∧ t.outbox = s.outbox ++ [.pldm (leBytes 2 0)]) ∧
  (∀ (s : State), s.head.pushing = true →
     (s.head.resetWaits = true → ∃ t, exec .imageWriteDone s = .next t ∧ Restarted s t) ∧
     (s.head.resetWaits = false → ∃ t, exec .imageWriteDone s = .next t ∧ t.head.pushing = false ∧ fld t 76 0x2D ⟨0x050, 1, 1⟩ = 0 ∧
       bootPhase t = if bootPhase s = 2 then 1 else bootPhase s))

/-- The tally and the management interface (R468 to R475, R495 to R503, R540, R557). A unit selected is loaded, and its load shows the unit's bytes and raises the page's event; the next read loads the next. Tally reads through the
mailbox and PLDM return the same bytes; IDENTITY_READ the fuse fields; MB_STATUS written 0 makes the mailbox IDLE. SPDM requests are answered on H0, with the algorithms, the alias chain and the measurements of this module, and on a fabric port but for measurements, and IDE_KM starts and stops IDE on the link; a PQ signature of 3,309 bytes needs a signed response before it. A sensor read gives the register
it mirrors.
It rests on the model's choices of log entries 13, 14 and 55. -/
def Obligations.TallyAndManagement : Prop :=
  (∀ (s : State) (region : BitVec 3) (index : BitVec 20), hostCan s 76 0x2A = true →
     ∃ t, exec (.tlSel region index) s = .next t ∧ t.tally = { s.tally with loading := some (region.toNat, index.toNat) } ∧ fld t 76 0x2A ⟨0x044, 31, 31⟩ = 1 ∧
       WordsBut s t 76 0x2A [0x044] ∧ t = { s with pages := t.pages, tally := t.tally }) ∧
  (∀ (s : State), s.hdm.h0Up = true → answers s 76 = true →
     let next := (fld s 76 0x2A ⟨0x044, 22, 20⟩, (fld s 76 0x2A ⟨0x044, 19, 0⟩ + 1) % 2 ^ 20)
     ∃ t, exec .tlDataNext s = .next t ∧ t.tally = { s.tally with loading := some next } ∧ fld t 76 0x2A ⟨0x044, 31, 31⟩ = 1 ∧
       t = { s with pages := t.pages, tally := t.tally, outbox := s.outbox ++ [.readData (regWord s 76 0x2A 0x0BC)] }) ∧
  (∀ (s : State) (region i : Nat), s.tally.loading = some (region, i) → region < 8 → i < 2 ^ 20 →
     let u := tallyUnit s region i
     let bytes := match u with | some x => x.1 | none => leBytes 64 0
     ∃ t, exec .tallyLoadDone s = .next t ∧ (∀ j < 16, (regWord t 76 0x2A (0x080 + 4 * j)).toNat = leAt bytes (4 * j) 4) ∧
       fld t 76 0x2A ⟨0x044, 31, 31⟩ = 0 ∧ fld t 76 0x2A ⟨0x044, 29, 29⟩ = boolNat u.isNone ∧ fld t 76 0x2A ⟨0x044, 30, 30⟩ = (match u with | some x => boolNat x.2 | none => 0) ∧
       fld t 76 0x2A ⟨0x044, 22, 20⟩ = region ∧ fld t 76 0x2A ⟨0x044, 19, 0⟩ = i ∧
       Event s t 76 0x2A 0 (0x044 :: (List.range 16).map (fun j => 0x080 + 4 * j)) ∧ t.tally = { s.tally with loading := none }) ∧
  (∀ (s : State) (r : Req), mbTakes s 0x03 r = true → 12 ≤ (mbBody r).length → leAt (mbBody r) 2 2 = 0 →
     let q := tallyBytes s (leAt (mbBody r) 0 1) (leAt (mbBody r) 1 1) (leAt (mbBody r) 4 4) (leAt (mbBody r) 8 4)
     (∀ b, q = some b → ∃ t, exec (.tallyRead r) s = .next t ∧ Answered t 0x03 r 0 b ∧ t = { s with head := t.head }) ∧
     (q = none → ∃ t, exec (.tallyRead r) s = .next t ∧ MbRefused s t 0x03 r 0x0706)) ∧
  (∀ (s : State) (region form : Byte) (first count : Word), managed s = true →
     exec (.pldmTallyRead region form first count) s =
       .next { s with outbox := s.outbox ++ [.pldm ((tallyBytes s region.toNat form.toNat first.toNat count.toNat).getD [])] }) ∧
  (∀ (s : State), s.hdm.h0Up = true → s.head.mbStatus = 2 → exec .mailboxStatusClear s = .next { s with head := { s.head with mbStatus := 0 } }) ∧
  (∀ (s : State) (r : Req), mbTakes s 0x02 r = true → 8 ≤ (mbBody r).length →
     let o := leAt (mbBody r) 0 4
     let n := leAt (mbBody r) 4 4
     0 < n → n ≤ 65520 → o + n ≤ 0xB00 → ∃ t bs, exec (.identityRead r) s = .next t ∧ Answered t 0x02 r 0 bs ∧ bs.length = n ∧ t = { s with head := t.head } ∧
       ∀ i < n, bs.getD i 0 = BitVec.ofNat 8 ((regWord s 76 0x2C (0x040 + (o + i) / 4 * 4)).toNat / 2 ^ (8 * ((o + i) % 4)))) ∧
  (∀ (s : State), reachUp s 76 = true → s.hdm.h0Up = true →
     (∀ r : SpdmReq, r.port = none → ∃ t, exec (.spdmRequest r) s = .next t ∧
       t.outbox = s.outbox ++ [.spdm (Config.spdmResponse s.freeCount [spdmCaps, spdmHash, spdmAsym] (aliasChain s false) (signingKey s false) r.msg (measurements s))] ∧
       (t.mgmt.signed.isSome = if asksSignature r.msg then true else if startsConnection r.msg then false else s.mgmt.signed.isSome) ∧
       (r.ide = none → t.pages = s.pages ∧ t.hdm = s.hdm) ∧
       (∀ b, r.ide = some b → fld t 76 0x20 ⟨0x050, 30, 30⟩ = boolNat b ∧ WordsBut s t 76 0x20 [0x050] ∧ t.hdm = { s.hdm with everIde := s.hdm.everIde || b }) ∧
       t = { s with pages := t.pages, hdm := t.hdm, mgmt := { s.mgmt with signed := t.mgmt.signed }, outbox := t.outbox, freeCount := t.freeCount }) ∧
     (∀ offset, exec (.getPqCert offset) s = .next { s with outbox := s.outbox ++ [.spdm (vendorResponse 1 (((aliasChain s true).drop offset).take 4000))] }) ∧
     (∀ b, s.mgmt.signed = some b → ∃ signature, signature.length = 3309 ∧ exec .getPqSignature s = .next { s with outbox := s.outbox ++ [.spdm (vendorResponse 2 signature)] }) ∧
     (s.mgmt.signed = none → ∃ t, exec .getPqSignature s = .next t ∧ Recorded s t 0x0707 ∧ .spdm Config.spdmUnexpected ∈ t.outbox)) ∧
  (∀ (s : State) (p : BitVec 2) (r : SpdmReq), r.port = some p → portPresent s p.toNat = true → reachUp s (72 + p.toNat) = true → fld s (72 + p.toNat) 0x20 ⟨0x044, 31, 31⟩ = 1 → romWaits s = false →
     (asksMeasurements r.msg = true → exec (.spdmRequest r) s = .next s) ∧
     (asksMeasurements r.msg = false → ∃ t response, exec (.spdmRequest r) s = .next t ∧ .spdm response ∈ t.outbox ∧
       (r.ide = none → t = { s with outbox := s.outbox ++ [.spdm response], freeCount := t.freeCount }) ∧
       (∀ b, r.ide = some b → b = false ∨ (portAt s p.toNat).untrusted = false → fld t (72 + p.toNat) 0x20 ⟨0x044, 30, 30⟩ = boolNat b))) ∧
  (∀ (s : State) (a : BitVec 7), reachUp s 76 = true → exec (.i3cEntdaa a) s = .next { s with mgmt := { s.mgmt with i3c := some a } }) ∧
  (∀ (s : State) (r : BitVec 7) (o : BitVec 12), managed s = true → bootPhase s ≠ 2 → bootPhase s ≠ 6 → r.toNat < 77 → reachUp s r.toNat = true →
     o.toNat ∈ [0x040, 0x044, 0x048, 0x04C, 0x050] ∨ (r.toNat = 76 ∧ o.toNat ∈ [0x084, 0x088, 0x08C, 0x090]) →
     ∃ t, exec (.pldmSensorRead r o) s = .next t ∧ t.outbox = s.outbox ++ [.pldm (leBytes 2 (regWord s r.toNat 0x02 o.toNat).toNat)] ∧
       t = { s with outbox := t.outbox, freeCount := t.freeCount })

/-- The mailbox's checks, and the life of a context (R258, R262, R270, R271, R491, R501 to R503). A request with a malformed header or payload is refused with BAD_REQUEST; one that finds the mailbox not ready has no effect. CONTEXT_CREATE
gives the lowest free ID; CONTEXT_END halts every queue of the context, one that a fault is stopping once its record is written, and stays BUSY until the release, which with no window or page move left frees its threads and pages, zeros over its pages and its scratchpad region. ALLOC maps every page of an object that overlaps no other; FREE unmaps it; FABRIC_MAP sets or
clears an entry.
It rests on the model's choices of log entries 65, 105 and 107. -/
def Obligations.ContextsAndMemory : Prop :=
  (∀ (s : State) (r : Req) (image remote : List Byte), ∀ i ∈ mailRows r image remote,
     (mbServes s i.1 = false → exec i.2 s = .next s) ∧
     (mbServes s i.1 = true → (r.status ≠ 0 ∨ r.payload.length < r.length.toNat ∨ 65520 < r.length.toNat) → ∃ t, exec i.2 s = .next t ∧ MbRefused s t i.1 r 0x0706)) ∧
  (∀ (s : State) (r : Req), mbTakes s 0x10 r = true →
     let p := mbBody r
     (createOk p = false → ∃ t, exec (.contextCreate r) s = .next t ∧ MbRefused s t 0x10 r 0x0706) ∧
     (createOk p = true → overcommits s (leAt p 0 4) (leAt p 4 4) (leAt p 8 4) (leAt p 16 1) = true → ∃ t, exec (.contextCreate r) s = .next t ∧ MbRefused s t 0x10 r 0x0302) ∧
     (∀ c, createOk p = true → overcommits s (leAt p 0 4) (leAt p 4 4) (leAt p 8 4) (leAt p 16 1) = false → c < 64 → ctxAt s c = none → (∀ d < c, (ctxAt s d).isSome = true) →
       ∃ t x, exec (.contextCreate r) s = .next t ∧ Answered t 0x10 r 0 (leBytes 8 c) ∧ ctxAt t c = some x ∧ (∀ d, d ≠ c → ctxAt t d = ctxAt s d) ∧
         x.spBase = leAt p 0 4 ∧ x.spRows = leAt p 4 4 ∧ x.stackPages = leAt p 8 4 ∧ x.fabricPages = leAt p 12 4 ∧ x.windows = leAt p 16 1 ∧ x.seed.toNat = leAt p 0x20 8 ∧
         x.faultRing = leAt p 0x28 8 ∧ x.faultLog2 = leAt p 0x30 1 ∧ x.traceRing = leAt p 0x38 8 ∧ x.traceLog2 = leAt p 0x31 1 ∧ x.objects = [] ∧ x.pt = [] ∧
         x.loaded = none ∧ x.ending = none ∧ t = { s with ctxs := t.ctxs, head := t.head })) ∧
  (∀ (s : State) (r : Req) (x : Ctx), mbTakes s 0x11 r = true → 8 ≤ (mbBody r).length → zeros (mbBody r) 1 7 = true → ctxAt s (leAt (mbBody r) 0 1) = some x → x.ending = none →
     let c := leAt (mbBody r) 0 1
     ∃ t, exec (.contextEnd r) s = .next t ∧ t.head.mbStatus = 1 ∧ t.head.ending = s.head.ending ++ [(c, r.tag)] ∧ (ctxAt t c).map Ctx.ending = some (some (0, 0)) ∧
       (∀ q e, queueAt s q = some e → e.ctx = c → ∃ e', queueAt t q = some e' ∧ (e.stopping = none → e'.state = 3) ∧ (e.stopping ≠ none → e'.stopping = e.stopping) ∧ bindingOf e' = bindingOf e) ∧
       t.mesh.arrivals = s.mesh.arrivals.filter (fun a => a.ctx ≠ c)) ∧
  (∀ (s : State) (c : BitVec 6) (x : Ctx), ctxAt s c.toNat = some x → x.ending.isSome = true → ctxWindows s c.toNat = [] → s.moves.any (fun m => m.ctx = c.toNat) = false →
     ∃ t, exec (.contextReleased c) s = .next t ∧ ctxAt t c.toNat = none ∧ (∀ d, d ≠ c.toNat → ctxAt t d = ctxAt s d) ∧
       (∀ a b, threadAt t a b = if (threadAt s a b).holder = some c.toNat then freshThread else threadAt s a b) ∧
       (∀ v e, tFind x.pt v = some e → ∀ o < 2 ^ 21, (e.fabric = false → memByte t.store.stack (pteKey e o) = 0) ∧ (e.fabric = true → memByte t.store.fabric (pteKey e o) = 0)) ∧
       (∀ l, x.loaded = some l → ∀ k < l.width, ∀ site, siteOf s k = some site → ∀ o < x.spRows * 128, memByte t.store.scratch (rowKey site x.spBase + o) = 0) ∧
       (∀ tag, s.head.ending.find? (fun e => e.1 = c.toNat) = some (c.toNat, tag) → t.head.mbStatus = 2 ∧
         t.head.response = leBytes 2 0x11 ++ leBytes 2 0 ++ leBytes 4 0 ++ leBytes 8 tag.toNat)) ∧
  (∀ (s : State) (r : Req) (x : Ctx), mbTakes s 0x12 r = true → 48 ≤ (mbBody r).length → zeros (mbBody r) 1 7 = true → zeros (mbBody r) 22 2 = true →
     liveCtx s (leAt (mbBody r) 0 1) = some x →
     let c := leAt (mbBody r) 0 1
     let a := parseAlloc ((mbBody r).drop 8)
     let n := (a.size + 2 ^ 21 - 1) / 2 ^ 21
     (∀ f, allocate s c a = .error f → ∃ t, exec (.alloc r) s = .next t ∧ MbRefused s t 0x12 r f) ∧
     (∀ u base, allocate s c a = .ok (u, base) → ∃ t y, exec (.alloc r) s = .next t ∧ Answered t 0x12 r 0 (leBytes 8 base) ∧ ctxAt t c = some y ∧ base % 2 ^ 21 = 0 ∧
       (∃ o ∈ y.objects, o.base = base ∧ o.size = n * 2 ^ 21 ∧ o.pages = n) ∧ (∀ o ∈ x.objects, base / 2 ^ 21 + n ≤ o.base / 2 ^ 21 ∨ o.base / 2 ^ 21 + o.pages ≤ base / 2 ^ 21) ∧
       (∀ v, base / 2 ^ 21 ≤ v → v < base / 2 ^ 21 + n → ∃ e, tFind y.pt v = some e ∧ e.state = 0 ∧ e.stain = false ∧ (a.tierSet = 0 → e.fabric = false) ∧ (a.tierSet = 2 → e.fabric = true)) ∧
       (∀ v, v < base / 2 ^ 21 ∨ base / 2 ^ 21 + n ≤ v → tFind y.pt v = tFind x.pt v))) ∧
  (∀ (s : State) (r : Req) (x : Ctx), mbTakes s 0x13 r = true → 16 ≤ (mbBody r).length → zeros (mbBody r) 1 7 = true → liveCtx s (leAt (mbBody r) 0 1) = some x →
     let c := leAt (mbBody r) 0 1
     let base := leAt (mbBody r) 8 8
     (x.objects.find? (fun o => o.base = base) = none → ∃ t, exec (.free r) s = .next t ∧ MbRefused s t 0x13 r 0x0706) ∧
     (∀ o, x.objects.find? (fun o => o.base = base) = some o → ∃ t y, exec (.free r) s = .next t ∧ Answered t 0x13 r 0 [] ∧ ctxAt t c = some y ∧
       (∀ d, d ≠ c → ctxAt t d = ctxAt s d) ∧ y.objects = x.objects.filter (fun o => o.base ≠ base) ∧
       (s.moves.any (fun m => m.ctx = c) = false → t.store = s.store ∧ t.moves = s.moves) ∧
       (∀ v, tFind y.pt v = if base / 2 ^ 21 ≤ v ∧ v < base / 2 ^ 21 + o.pages then none else tFind x.pt v))) ∧
  (∀ (s : State) (r : Req), mbTakes s 0x14 r = true → 16 ≤ (mbBody r).length →
     let p := mbBody r
     let e := leAt p 0 1
     leAt p 2 2 < 2 ^ 12 → leAt p 8 8 % 2 ^ 21 = 0 → entryInUse s e = false → leAt p 1 1 = 0 ∨ leAt p 1 1 = 1 ∨ leAt p 1 1 = 0xFF →
     ∃ t, exec (.fabricMap r) s = .next t ∧ Answered t 0x14 r 0 [] ∧ t = { s with head := t.head } ∧ (∀ d, d ≠ e → tFind t.head.fabricMap d = tFind s.head.fabricMap d) ∧
       tFind t.head.fabricMap e = if leAt p 1 1 = 0xFF then none else some (leAt p 2 2, leAt p 8 8, leAt p 4 4, leAt p 1 1))

/-- Programs and jobs (R129, R156, R381, R415, R443, R462, R463, R503). LOAD starts the context on the cores of its layout with the threads granted and writes its load record, or writes the record of the first check that fails. A job record takes
effect with its last piece, if it is in form and keeps its rules; a shard record and a module ring at once. RESTORE from a restorable slot answers with the round and sets the replay's digest.
It rests on the model's choices of log entries 15, 46, 63, 68 and 129. -/
def Obligations.ProgramsAndJobs : Prop :=
  (∀ (s : State) (r : Req) (file : List Byte) (x : Ctx), mbTakes s 0x15 r = true → liveCtx s (parseLoad (mbBody r)).ctx = some x → loadForm (mbBody r) = true →
     let q := parseLoad (mbBody r)
     let image := file.take q.bytes
     let u := if othersLoaded s q.ctx then s else numberCores s
     (∀ f, loadFault u q x image = some f → ∃ t, exec (.load r file) s = .next t ∧ Answered t 0x15 r 0 [] ∧ Recorded s t (f.1 % 2 ^ 16) ∧ t.ctxs = s.ctxs ∧ t.cores = s.cores ∧ t.queues = s.queues ∧
       memBytes t.store.host q.record 2 = leBytes 2 f.1 ∧ memBytes t.store.host (q.record + 4) 4 = leBytes 4 f.2) ∧
     (loadFault u q x image = none → ∃ t l, exec (.load r file) s = .next t ∧ Answered t 0x15 r 0 [] ∧ loadedOf t q.ctx = some l ∧ l.width = q.width ∧ l.threads = q.threads ∧ l.weights = q.weights ∧
       l.entries = functionsOf image ∧ l.params = paramsOf image ∧ l.tensors = tensorsOf image ∧ l.layers = layersOf image ∧ l.policy = policyOf image ∧
       l.native = nativeOf q image ∧ l.digest = layoutDigest s q image l.native ∧
       l.replay = (if q.replay then some (q.index, q.modules) else none) ∧ (∀ d, d ≠ q.ctx → ctxAt t d = ctxAt s d) ∧
       (let w := loadedRecord q image l
        memBytes t.store.host q.record w.length = w ∧ ∀ a, a < q.record ∨ q.record + w.length ≤ a → memByte t.store.host a = memByte s.store.host a) ∧
       (∀ site ∈ layoutSites u q.width, ∀ i < 16, (threadAt t site i).holder = some q.ctx ↔ i ∈ (openThreads u q.ctx site).take q.threads))) ∧
  (∀ (s : State) (r : Req), mbTakes s 0x16 r = true → 8 ≤ (mbBody r).length → leAt (mbBody r) 4 4 = 0 →
     let o := leAt (mbBody r) 0 4 % 2 ^ 31
     let data := (mbBody r).drop 8
     let whole := memStore s.head.jobPart o data
     let j := parseJob whole
     o + data.length ≤ jobSize →
     (leAt (mbBody r) 0 4 < 2 ^ 31 → ∃ t, exec (.jobRecord r) s = .next t ∧ Answered t 0x16 r 0 [] ∧ t.head.jobPart = whole ∧ t = { s with head := t.head } ∧ t.head.job = s.head.job) ∧
     (2 ^ 31 ≤ leAt (mbBody r) 0 4 → jobForm whole j = false → ∃ t, exec (.jobRecord r) s = .next t ∧ MbRefused s t 0x16 r 0x0706) ∧
     (2 ^ 31 ≤ leAt (mbBody r) 0 4 → jobForm whole j = true → jobOk s j = false → ∃ t, exec (.jobRecord r) s = .next t ∧ MbRefused s t 0x16 r 0x050C) ∧
     (2 ^ 31 ≤ leAt (mbBody r) 0 4 → jobForm whole j = true → jobOk s j = true → ∃ t, exec (.jobRecord r) s = .next t ∧ Answered t 0x16 r 0 [] ∧ t.head.job = some j ∧ t.head.jobPart = [])) ∧
  (∀ (s : State) (r : Req), mbTakes s 0x17 r = true → 48 ≤ (mbBody r).length →
     let p := mbBody r
     0 < leAt p 0x28 2 → leAt p 0x28 2 ≤ 4096 → leAt p 0x2A 2 < leAt p 0x28 2 → leAt p 0x2C 4 = 0 → ∃ t, exec (.shardRecord r) s = .next t ∧ Answered t 0x17 r 0 [] ∧ t = { s with head := t.head } ∧
       t.head.shard = some { genA := leAt p 0 8, genB := leAt p 8 8, serveA := leAt p 16 8, serveB := leAt p 24 8, sums := leAt p 32 8, modules := leAt p 0x28 2, index := leAt p 0x2A 2 }) ∧
  (∀ (s : State) (r : Req), mbTakes s 0x19 r = true → 16 ≤ (mbBody r).length →
     let p := mbBody r
     leAt p 0 8 % 64 = 0 → 6 ≤ leAt p 8 1 → leAt p 8 1 ≤ 16 → zeros p 9 7 = true →
       ∃ t, exec (.moduleRing r) s = .next t ∧ Answered t 0x19 r 0 [] ∧ t.head.ringAddr = some (leAt p 0 8, leAt p 8 1) ∧ (∀ f ∈ t.head.waiting, f ∈ s.head.waiting) ∧
         (s.hdm.h0Up = true → t.head.waiting = [])) ∧
  (∀ (s : State) (r : Req) (remote : List Byte) (l : Loaded) (e : Nat), mbTakes s 0x18 r = true →
     let p := mbBody r
     let c := leAt p 0 1
     let y := secSlot s e
     16 ≤ p.length → zeros p 3 1 = true → zeros p 6 2 = true → zeros p 12 4 = true → c = trainCtx s → (liveCtx s c).isSome = true → s.head.shard.isSome = true → loadedOf s c = some l →
     leAt p 2 1 = 0 → leAt p 4 2 = myIndex s → myIndex s < 4096 → leAt p 1 1 = e → e ≤ 1 → mayRestore y = true → leAt p 8 4 = 0xFFFFFFFF ∨ leAt p 8 4 = y.genStep →
     ∃ t, exec (.restore r remote) s = .next t ∧ Answered t 0x18 r 0 (leBytes 4 y.genStep ++ leBytes 4 y.round ++ digestBytes y.verify) ∧
       t.step.verifyStep = some (BitVec.ofNat 32 (y.genStep + 1)) ∧ t.step.verifyDigest = y.verify ∧ t.head.job = s.head.job)

/-! ## Training -/

/-- Gradients on their way (R333 to R335, R373 to R377, R386 to R388, R421). A ring chunk of the predecessor takes its slot, and one not expected is counted and dropped; a credit keeps the largest count. Two partial sums of a tree meet as
the encoded sum of their values, left operand first, where the mesh carries both to the router of the combination. A Mangle digests and forwards the chunk at its tree top, and drops one of a frozen parameter. An own contribution is sent, or added to its partial and sent or handed to the Press. The Press applies
a chunk to the block of the other generation; a group's end sums its blocks and flags a ratio out of its band.
It rests on the model's choices of log entries 40, 42, 43, 76, 145 and 152. -/
def Obligations.GradientsFlow : Prop :=
  (∀ (s : State) (m : Tow), towArrives s 0x01 m = true → m.src.toNat ≠ ringPred s → ∃ t, exec (.gradChunk m) s = .next t ∧ TowDropped s t m 0x0502) ∧
  (∀ (s : State) (m : Tow), chunkArrives s m = true →
     let p := m.port.toNat
     let seq := (portAt s p).released + seqAhead s m
     (chunkUnexpected s p (towChunk m) = false → ∃ t, exec (.gradChunk m) s = .next t ∧ (portAt t p).arrival = (portAt s p).arrival ++ [(seq, some (towChunk m))] ∧ OnlyPort s t p ∧
       t = { s with ports := t.ports, outbox := s.outbox ++ [.completion m.tag.toNat 0 [] false] }) ∧
     (chunkUnexpected s p (towChunk m) = true → ∃ t, exec (.gradChunk m) s = .next t ∧ Recorded s t 0x0B04 ∧ Counts s t (72 + p) 0x23 0x04C ∧ t.store = s.store ∧ OnlyPort s t p ∧
       (∀ a, (seq, some a) ∉ (portAt t p).arrival))) ∧
  (∀ (s : State) (p : BitVec 2) (count : Dword), inService s p.toNat = true → ∃ t, exec (.ringCreditWrite p count) s = .next t ∧
     portAt t p.toNat = { portAt s p.toNat with credit := max (portAt s p.toNat).credit count.toNat } ∧ OnlyPort s t p.toNat ∧ t = { s with ports := t.ports }) ∧
  (∀ (s : State) (p : BitVec 2) (level index : Nat) (a b : Node), level + 1 < roundsOf (layoutWidth s s.step.ctx) → findPair (portAt s p.toNat).nodes level index = some (a, b) →
     operandsHeld s (layoutWidth s s.step.ctx) [a, b] (combineSite s level index) = false → operandsLost s p.toNat (layoutWidth s s.step.ctx) [a, b] (combineSite s level index) = none →
     let e := encodeChunk ((decodeChunk a.chunk).zipWith add32 (decodeChunk b.chunk))
     let c : Chunk := { a.chunk with exps := e.1, mants := e.2.1 }
     ∃ t, exec (.reductionCombine p level index) s = .next t ∧ OnlyPort s t p.toNat ∧
       portAt t p.toNat = { portAt s p.toNat with nodes := ((portAt s p.toNat).nodes.erase a).erase b ++ [liftNode (layoutWidth s s.step.ctx) 8 { level := level + 1, index := index, chunk := c }] } ∧
       (badGroups c + e.2.2.1 = 0 → t = { s with ports := t.ports }) ∧ (badGroups c + e.2.2.1 ≠ 0 → Recorded s t 0x0202 ∧ (commitState s ≠ 5 → t.step.foul = true))) ∧
  (∀ (s : State) (p : BitVec 2) (a : Node) (b : Option Node) (r : StepRec) (l : Loaded) (u : Nat) (x : Param), commitState s = 2 → s.step.lost = false → s.step.record = some r → r.kind = 0 →
     jobModules s ≠ 1 → (portAt s p.toNat).own.length < 64 → topChunk (layoutWidth s s.step.ctx) [] (portAt s p.toNat).nodes = some (a, b) →
     let sum := match b with | some b => (addChunks a.chunk b.chunk).1 | none => a.chunk
     let c : Chunk := { sum with step := currentStep s }
     let operands := if a.level = ownLevel then [] else [a] ++ b.toList
     operandsHeld s (layoutWidth s s.step.ctx) operands (72 + p.toNat) = false → operandsLost s p.toNat (layoutWidth s s.step.ctx) operands (72 + p.toNat) = none →
     loadedOf s s.step.ctx = some l → tileOf l c.tensorId c.tileIndex = some (u, x) →
     ∃ t, exec (.mangleChunk p) s = .next t ∧ OnlyPort s t p.toNat ∧ tGet 0 t.step.emitted u = tGet 0 s.step.emitted u + 1 ∧ t.store = s.store ∧
       (portAt t p.toNat).nodes = (match b with | some b => ((portAt s p.toNat).nodes.erase a).erase b | none => (portAt s p.toNat).nodes.erase a) ∧
       (x.frozen = true → portAt t p.toNat = { portAt s p.toNat with nodes := (portAt t p.toNat).nodes } ∧ Counts s t (72 + p.toNat) 0x22 0x044) ∧
       (x.frozen = false → portAt t p.toNat = { portAt s p.toNat with nodes := (portAt t p.toNat).nodes, digest := (portAt s p.toNat).digest + chunkDigest c, own := (portAt s p.toNat).own ++ [c] } ∧
         Counts s t (72 + p.toNat) 0x22 0x040)) ∧
  (∀ (s : State) (p : BitVec 2) (c : Chunk) (l : Loaded) (u : Nat) (x : Param), ringsRun s = true → s.head.job.isSome = true →
     (portAt s p.toNat).arrival.all (fun a => match a.2 with | some a => decide (some a.step.toNat = latchedStep s) | none => true) = true →
     (portAt s p.toNat).own.find? (ringReady s p.toNat) = some c → chunkTile s c = some (l, u, x) →
     (tileOwner s l u = ringPred s → ∃ t m, exec (.ringAdd p) s = .next t ∧ (portAt t p.toNat).own = (portAt s p.toNat).own.erase c ∧ (portAt t p.toNat).sent = (portAt s p.toNat).sent + 1 ∧
       t.outbox = s.outbox ++ [.tow m] ∧ m.typ = 0x01 ∧ m.dst = BitVec.ofNat 16 (ringSucc s) ∧ m.seq = BitVec.ofNat 32 (portAt s p.toNat).sent ∧ m.step = c.step ∧ m.payload = bytes16 c.mants ∧
       t = { s with ports := t.ports, outbox := t.outbox }) ∧
     (∀ n a, tileOwner s l u ≠ ringPred s → (portAt s p.toNat).arrival.find? (fun a => a.1 = (portAt s p.toNat).nextSeq) = some (n, some a) →
       let sum := (addChunks a c).1
       (tileOwner s l u = myIndex s → ∃ t, exec (.ringAdd p) s = .next t ∧ (portAt t p.toNat).press = (portAt s p.toNat).press ++ [sum] ∧ (portAt t p.toNat).nextSeq = n + 1 ∧
         (portAt t p.toNat).own = (portAt s p.toNat).own.erase c ∧ t.store = s.store) ∧
       (tileOwner s l u ≠ myIndex s → ∃ t m, exec (.ringAdd p) s = .next t ∧ (portAt t p.toNat).own = (portAt s p.toNat).own.erase c ∧ (portAt t p.toNat).sent = (portAt s p.toNat).sent + 1 ∧
         sentTows s t = [m] ∧ m.typ = 0x01 ∧ m.dst = BitVec.ofNat 16 (ringSucc s) ∧ m.step = sum.step ∧ m.payload = bytes16 sum.mants ∧ (n, some a) ∉ (portAt t p.toNat).arrival ∧ t.store = s.store))) ∧
  (∀ (s : State) (p : BitVec 2) (c : Chunk) (r : StepRec) (x : Ctx) (l : Loaded) (u : Nat) (q : Param) (e f : Pte), ringsRun s = true →
     (portAt s p.toNat).press.find? (chunkReady s) = some c → ((pressRanges s c).flatMap (fun y => hostLines s (trainCtx s) y.1 y.2.1 y.2.2)) = [] → s.step.record = some r → ctxAt s (trainCtx s) = some x → x.ending = none →
     chunkTile s c = some (l, u, q) → s.step.applied.contains (u, c.number) = false → appliedOf s u + 1 < tileChunks q.format →
     let a := blockAddr s l (activeGen s) u c.number false
     let d := blockAddr s l (1 - activeGen s) u c.number false
     let z := sumBase s + 12 * (blocksBefore s l u + c.number)
     let rnd := fun (i : Nat) => srBits x.seed r.step (BitVec.ofNat 16 c.tensorId) (BitVec.ofNat 24 (c.tileIndex * tileChunks q.format + c.number)) i
     let b := updateBlock l.policy s.step r.lr rnd (fun i => liveElement q c.tileIndex (2048 * c.number + i)) (decodeChunk c) (trainBytes s a 8256)
     ctxStained s x a 8256 = false → tFind x.pt (d / 2 ^ 21) = some e → e.state ≠ 2 → d % 2 ^ 21 + b.bytes.length ≤ 2 ^ 21 →
     tFind x.pt (z / 2 ^ 21) = some f → f.state ≠ 2 → z % 2 ^ 21 + 12 ≤ 2 ^ 21 →
     (e.fabric ≠ f.fabric ∨ pteKey e (d % 2 ^ 21) + b.bytes.length ≤ pteKey f (z % 2 ^ 21) ∨ pteKey f (z % 2 ^ 21) + 12 ≤ pteKey e (d % 2 ^ 21)) →
     ∃ t, exec (.pressApply p) s = .next t ∧ pageBytes t e (d % 2 ^ 21) b.bytes.length = b.bytes ∧
       pageBytes t f (z % 2 ^ 21) 12 = leBytes 4 b.qw.toNat ++ leBytes 4 b.qd.toNat ++ leBytes 4 b.qg.toNat ∧
       t.step.applied = s.step.applied ++ [(u, c.number)] ∧ tGet (0, 0, 0) t.step.sums (u * 4096 + c.number) = (b.qw, b.qd, b.qg) ∧
       (portAt t p.toNat).press = (portAt s p.toNat).press.erase c ∧ Counts s t (72 + p.toNat) 0x23 0x044 ∧ (b.bad ≠ 0 → t.step.foul = true)) ∧
  (∀ (s : State) (g : Byte) (l : Loaded), loadedOf s (trainCtx s) = some l → ringsRun s = true → commitState s = 2 → groupTiles s l g.toNat ≠ [] → s.step.groupsDone.contains g.toNat = false →
     (groupTiles s l g.toNat).all (fun x => s.step.tilesDone.contains x.1) = true →
     let qw := groupChain s l g.toNat (fun x => x.1)
     let qd := groupChain s l g.toNat (fun x => x.2.1)
     let band := l.policy.bands.getD g.toNat (0, 0x7F800000)
     let watched := !s.step.foul && decide (l.policy.ratioWarmup < s.step.warmup) && !isZero32 qw
     ∃ t, exec (.groupChainEnd g) s = .next t ∧ t.step.groupsDone = s.step.groupsDone ++ [g.toNat] ∧ tGet 0 t.step.norms g.toNat = groupChain s l g.toNat (fun x => x.2.2) ∧
       ((watched && !ratioOk band.1 band.2 qw qd) = true → Recorded s t 0x0211 ∧ t.step.suspect = true) ∧
       ((watched && !ratioOk band.1 band.2 qw qd) = false → t = { s with step := t.step } ∧ t.step.suspect = s.step.suspect))

/-- Weights between modules and into the cores (R309 to R311, R337, R338, R368, R421, R424, R430). A request for a tile of this module is served from its generation, held for a later one or while its page is away, and refused otherwise; its parts land in the slots of the fetch that asked
for them. A feeder reads its own module's tile or asks its owner; the multicast of a whole tile whose slot is free and served on every core of the layout puts header and image on each that the group's masks lead to, and its acknowledgement ends it, with the targets lost told and kept at the source.
It rests on the model's choices of log entries 30, 45 and 151. -/
def Obligations.WeightsFlow : Prop :=
  (∀ (s : State) (m : Tow), towArrives s 0x02 m = true →
     let p := m.port.toNat
     let u := m.key.toNat % 2 ^ 24
     ((portAt s p).heldRequests.any (fun r => decide ({ r with tag := m.tag } = m)) = true → ∃ t, exec (.weightRequest m) s = .next t ∧ TowRepeated s t m) ∧
     ((portAt s p).heldRequests.any (fun r => decide ({ r with tag := m.tag } = m)) = false → ∀ l, loadedOf s (trainCtx s) = some l →
       (∀ x i, globalTile l u = some (x, i) → tileOwner s l u = myIndex s → commitState s ≠ 0 → genStep s = m.step.toNat → serveAway s l u x = false →
         let image := (serveImage s l u x).1
         let size := imageBytes x.format
         ∃ t, exec (.weightRequest m) s = .next t ∧ t = { s with outbox := t.outbox } ∧ (∃ rest, t.outbox = s.outbox ++ .completion m.tag.toNat 0 [] false :: rest) ∧
           (sentTows s t).map (fun (y : Tow) => (y.typ, y.dst.toNat, y.slot, y.poison, y.payload)) =
             (List.range ((size + 4095) / 4096)).map (fun j => (0x03#8, m.src.toNat, BitVec.ofNat 16 (leAt m.body 0 2 + j),
               (serveImage s l u x).2.any (fun r => decide (j * 32 ≤ r) && decide (r < j * 32 + 32)), memBytes image (j * 4096) (min 4096 (size - j * 4096))))) ∧
       (∀ x i, globalTile l u = some (x, i) → tileOwner s l u = myIndex s → (commitState s = 0 ∨ genStep s < m.step.toNat ∨ (genStep s = m.step.toNat ∧ serveAway s l u x = true)) →
         ∃ t, exec (.weightRequest m) s = .next t ∧ (portAt t p).heldRequests = (portAt s p).heldRequests ++ [m] ∧ OnlyPort s t p ∧
           t = { s with pages := t.pages, ports := t.ports, hdm := t.hdm, outbox := t.outbox } ∧ (serveLines s l u x = [] → t = { s with ports := t.ports })) ∧
       ((globalTile l u = none ∨ tileOwner s l u ≠ myIndex s ∨ (commitState s ≠ 0 ∧ m.step.toNat < genStep s)) →
         ∃ t addr, exec (.weightRequest m) s = .next t ∧ Counts s t (72 + p) 0x20 0x05C ∧
           t = { s with pages := t.pages, outbox := s.outbox ++ [.completion m.tag.toNat 0x0B08 [] false, .refusal p m.tag.toNat 0x0B08 m.mark addr] }))) ∧
  (∀ (s : State) (m : Tow), towArrives s 0x03 m = true →
     let takers := (portFeeders s m.port.toNat).find? (fun k => (portAt s k).fetches.any (fetchTakes m))
     (takers = none → ∃ t, exec (.weightData m) s = .next t ∧ TowDropped s t m 0x0502) ∧
     (∀ k, takers = some k → ∃ t, exec (.weightData m) s = .next t ∧ OnlyPort s t k ∧
       portAt t k = { portAt s k with fetches := (portAt s k).fetches.map (fun f => if fetchTakes m f then landPart m f else f) } ∧
       t = { s with ports := t.ports, outbox := s.outbox ++ [.completion m.tag.toNat 0 [] false] })) ∧
  (∀ (s : State) (p : BitVec 2) (l own : Loaded) (n u i : Nat) (x : Param), mayFeed s p.toNat = true → loadedOf s (feedCtx s) = some l → loadedOf s (trainCtx s) = some own →
     let q := portAt s p.toNat
     let start := match q.fetches.getLast? with | some f => f.pos + 1 | none => q.feedPos
     nextPosition s l p.toNat start = some n → scheduleTile l n = some (x, i) → (globalBase l.params 0 x.tensorId).map (fun b => b.1 + i) = some u →
     (tileOwner s l u = myIndex s → q.fetches.length < ringTiles s → serveAway s own u x = false → ∃ t f, exec (.feederFetch p) s = .next t ∧ OnlyPort s t p.toNat ∧ portAt t p.toNat = { q with fetches := q.fetches ++ [f] } ∧
       t = { s with ports := t.ports } ∧ f.pos = n ∧ f.tile = u ∧ f.tensorId = x.tensorId ∧ f.tileIndex = i ∧ f.ready = true ∧ (f.image, f.stained) = serveImage s own u x) ∧
     (∀ first, tileOwner s l u ≠ myIndex s → inService s (feederPort s p.toNat) = true → s.head.job.isSome = true → freeLanding s p.toNat ((imageBytes x.format + 4095) / 4096) = some first →
       ∃ t f m, exec (.feederFetch p) s = .next t ∧ OnlyPort s t p.toNat ∧ portAt t p.toNat = { q with fetches := q.fetches ++ [f] } ∧ f.pos = n ∧ f.tile = u ∧ f.first = first ∧ f.ready = false ∧
         f.parts = (imageBytes x.format + 4095) / 4096 ∧ t.outbox = s.outbox ++ [.tow m] ∧ m.typ = 0x02 ∧ m.tag = BitVec.ofNat 16 first ∧ m.dst = BitVec.ofNat 16 (tileOwner s l u) ∧ m.key = BitVec.ofNat 64 u ∧
         t = { s with ports := t.ports, outbox := t.outbox })) ∧
  (∀ (s : State) (p : BitVec 2) (late : Nat) (l : Loaded) (f : Fetch) (rest : List Fetch), loadedOf s (feedCtx s) = some l → (portAt s p.toNat).fetches = f :: rest → mayFeed s p.toNat = true → f.ready = true →
     s.mesh.mcasts.any (fun m => m.group = p.toNat) = false →
     let sites := (List.range l.width).filterMap (siteOf s)
     let copies := groupCopies s p.toNat (72 + p.toNat)
     let row := fun (site : Nat) => spBase s (feedCtx s) + wwRow s (feedCtx s) site f.pos
     sites.all (slotFree s l f.pos) = true → sites.all (fun site => spServed s site 4) = true → holdSet s (72 + p.toNat) = false → (∀ site ∈ sites, row site * 128 + 128 + imageBytes f.format ≤ 2 ^ 28) →
     ∃ t, exec (.weightMulticast p late) s = .next t ∧ portAt t p.toNat = { portAt s p.toNat with fetches := rest, feedPos := f.pos + 1 } ∧ OnlyPort s t p.toNat ∧
       t.mesh.mcasts = s.mesh.mcasts ++ [{ group := p.toNat, source := 72 + p.toNat, targets := sites, lost := sites.filter (fun site => !copies.contains site) }] ∧
       (∀ site ∈ sites, copies.contains site = true → (∀ k < 128, memByte t.store.scratch (rowKey site (row site) + k) = (wwHeader f.tensorId f.tileIndex f.format f.tileScale).getD k 0) ∧
         (∀ k < imageBytes f.format, memByte t.store.scratch (rowKey site (row site) + 128 + k) = memByte f.image k)) ∧
       t.store.stack = s.store.stack ∧ newCodes s t = (if late = 0 then [] else [0x0A01])) ∧
  (∀ (s : State) (group : BitVec 4) (source : BitVec 7) (mask : BitVec 77) (m : Mcast), s.mesh.mcasts.find? (fun m => m.group = group.toNat ∧ m.source = source.toNat) = some m →
     let lost := (List.range 77).filter (fun r => m.targets.contains r && (bitOf mask.toNat r || m.lost.contains r))
     (lost = [] → exec (.multicastAck group source mask) s = .next { s with mesh := { s.mesh with mcasts := s.mesh.mcasts.erase m } }) ∧
     (lost ≠ [] → ∃ t, exec (.multicastAck group source mask) s = .next t ∧ t.mesh.mcasts = s.mesh.mcasts.erase m ∧ newCodes s t = [0x0404] ∧ t.store = s.store ∧
       (t.head.inbox.getLast?).map FaultRec.detail = some (lost.headD 0) ∧
       (72 ≤ source.toNat → source.toNat < 76 → (portAt t (source.toNat - 72)).mcastStatus = BitVec.ofNat 77 (lost.foldl (fun n r => n + 2 ^ r) 0)))
       )

/-- Votes, resolutions and replays (R391 to R397, R431 to R433, R436, R448, R449, R463). The only module of a job commits a clean step, discards a foul one and withholds a suspect one at its vote; in a larger job the vote goes to the modules that take it. A vote
for a step to come is kept, one known already repeated, and a LOST one ends the step. A resolution that comes goes on to this module's children, commits or discards the withheld step, and commits a step whose vote waits; one known already is repeated. A replay request is kept; a replay that ends returns to the state it came from and sends its digest; digests are kept by
module 0 and compared.
It rests on the model's choices of log entries 39, 48 and 74. -/
def Obligations.VotesAndReplays : Prop :=
  (∀ (s : State) (busy : List Nat) (r : StepRec), mayVote s = true → jobModules s ≤ 1 → myIndex s = 0 → s.step.record = some r → s.step.timedOut = false →
     ∃ t, exec (.voteCast busy) s = .next t ∧
       (s.step.foul = true → Discarded s t) ∧
       (s.step.foul = false → suspectAtVote s = true → commitState t = 4 ∧ activeGen t = activeGen s ∧ t.withheld.isSome = true) ∧
       (s.step.foul = false → suspectAtVote s = false → Committed s t)) ∧
  (∀ (s : State) (busy : List Nat), mayVote s = true → 1 < jobModules s → s.step.timedOut = false → s.head.job.isSome = true → inService s (controlPort s) = true →
     (∀ k, voteSource (jobModules s) (myIndex s) 0 = some k → tFind s.step.votes (voteKey (currentStep s).toNat 0 k) = none) → (voteSource (jobModules s) (myIndex s) 0).isSome = true →
     ∃ t, exec (.voteCast busy) s = .next t ∧ commitState t = 3 ∧ t.step.voted = true ∧ t.step.contribution = contribution s (currentStep s) ∧
       t.step.ownVote.bits = boolNat s.step.foul + 2 * boolNat (suspectAtVote s) ∧
       (sentTows s t).map (fun (m : Tow) => (m.typ, m.dst)) = (voteTargets (jobModules s) (myIndex s) 0).map (fun k => (0x04#8, BitVec.ofNat 16 k))) ∧
  (∀ (s : State), commitState s = 3 →
     (s.step.timedOut = false → ∃ t, exec .voteTimeout s = .next t ∧ Recorded s t 0x0B02 ∧ t.step = { s.step with timedOut := true } ∧ commitState t = 3) ∧
     (s.step.timedOut = true → exec .voteTimeout s = .next s)) ∧
  (∀ (s : State) (m : Tow), towArrives s 0x04 m = true →
     let key := voteKey m.step.toNat (m.key.toNat % 256) m.src.toNat
     let others := ((s.step.votes.map (fun v => v.1 / 2 ^ 20)).filter (fun n => n ≠ m.step.toNat)).eraseDups
     let v : Vote := { bits := leAt m.body 0 1 % 8, cause := leAt m.body 1 1, firstSuspect := leAt m.body 2 2, norm2 := BitVec.ofNat 32 (leAt m.body 4 4) }
     ((votePassed s m.step.toNat = true ∨ (tFind s.step.votes key).isSome = true ∨ 2 ≤ others.length) → ∃ t, exec (.commitVote m) s = .next t ∧ TowRepeated s t m) ∧
     (votePassed s m.step.toNat = false → tFind s.step.votes key = none → others.length < 2 →
       (commitState s ≠ 2 → commitState s ≠ 3 → ∃ t, exec (.commitVote m) s = .next t ∧ t.step = { s.step with votes := tIns s.step.votes key v } ∧
         t = { s with step := t.step, outbox := s.outbox ++ [.completion m.tag.toNat 0 [] false] }) ∧
       (commitState s = 2 → s.step.lost = false → m.step = currentStep s → bitOf v.bits 2 = true → ∃ t, exec (.commitVote m) s = .next t ∧ 0x0B09 ∈ newCodes s t ∧
         (∀ q e, queueAt s q = some e → e.ctx = s.step.ctx → e.stopping = none → (queueAt t q).map QEntry.state = some 3)))) ∧
  (∀ (s : State) (m : Tow) (w : StepState) (r : StepRec), towArrives s 0x05 m = true →
     let res := m.key.toNat % 256
     (1 < res → ∃ t, exec (.commit m) s = .next t ∧ TowDropped s t m 0x0501) ∧
     (res ≤ 1 → s.step.resolution.map (·.1) = some m.step → ∃ t, exec (.commit m) s = .next t ∧ TowRepeated s t m) ∧
     (res ≤ 1 → s.step.resolution.map (·.1) ≠ some m.step → resolvable s (decide (res = 1)) = false ∨ m.step ≠ currentStep s → inService s (controlPort s) = true →
       ∃ t, exec (.commit m) s = .next t ∧ t = { s with step := t.step, outbox := t.outbox } ∧ .completion m.tag.toNat 0 [] false ∈ t.outbox ∧
         t.step = { s.step with resolution := some (m.step, leAt m.body 0 2, decide (res = 1) && decide ((currentStep s).toNat < m.step.toNat)) } ∧
         (sentTows s t).map (fun (y : Tow) => (y.typ, y.dst, y.key.toNat, y.step)) = (treeChildren (jobModules s) (myIndex s)).map (fun k => (0x05#8, BitVec.ofNat 16 k, res, m.step))) ∧
     (s.step.resolution.map (·.1) ≠ some m.step → m.step = currentStep s → commitState s = 3 → s.step.record = some r → res = 0 →
       ∃ t, exec (.commit m) s = .next t ∧ Committed s t) ∧
     (s.step.resolution.map (·.1) ≠ some m.step → m.step = currentStep s → commitState s = 4 → s.withheld = some w → w.record = some r →
       (res = 0 → ∃ t, exec (.commit m) s = .next t ∧ Committed s t ∧ t.withheld = none) ∧
       (res = 1 → ∃ t, exec (.commit m) s = .next t ∧ Discarded s t ∧ t.withheld = none ∧ (0x090A ∈ newCodes s t ↔ leAt m.body 0 2 = myIndex s)))) ∧
  (∀ (s : State) (m : Tow), towArrives s 0x0A m = true →
     let x := (m.step, m.key.toNat % 2 ^ 12)
     (s.step.replayReq = some x → ∃ t, exec (.replayRequest m) s = .next t ∧ TowRepeated s t m) ∧
     (s.step.replayReq ≠ some x → exec (.replayRequest m) s = .next { s with step := { s.step with replayReq := some x }, outbox := s.outbox ++ [.completion m.tag.toNat 0 [] false] })) ∧
  (∀ (s : State) (r : StepRec), s.step.record = some r → commitState s = 6 → layoutEnded s = true → manglesDone s = true → s.step.back < 8 →
     ∃ t, exec .replayDone s = .next t ∧ commitState t = s.step.back ∧ t.step.contribution = contribution s r.step ∧ tGet 0 t.tally.writes 3 = tGet 0 s.tally.writes 3 + 1 ∧
       (∀ suspect, s.step.replayReq = some (r.step, suspect) → suspect ≠ 0 → suspect ≠ myIndex s → myIndex s ≠ 0 → s.head.job.isSome = true → inService s (controlPort s) = true →
         (sentTows s t).map (fun (m : Tow) => (m.typ, m.dst, m.step)) = [(0x0B#8, 0#16, r.step), (0x0B#8, BitVec.ofNat 16 suspect, r.step)])) ∧
  (∀ (s : State) (m : Tow), towArrives s 0x0B m = true →
     let kind := m.key.toNat % 256
     let subject := m.key.toNat / 2 ^ 16 % 2 ^ 12
     let d := digestOf m.body
     (1 < kind → ∃ t, exec (.digest m) s = .next t ∧ TowDropped s t m 0x0501) ∧
     (kind ≤ 1 → tFind s.step.digests (kind * 4096 + subject) = some d → ∃ t, exec (.digest m) s = .next t ∧ TowRepeated s t m) ∧
     (kind ≤ 1 → myIndex s = 0 → tFind s.step.digests (kind * 4096 + subject) ≠ some d → s.step.verifyStep = none →
       ∃ t, exec (.digest m) s = .next t ∧ tFind t.step.digests (kind * 4096 + subject) = some d ∧
         (0x0905 ∈ newCodes s t ↔ ∃ other, tFind s.step.digests ((1 - kind) * 4096 + subject) = some other ∧ other ≠ d)) ∧
     (kind = 1 → myIndex s ≠ 0 → subject = myIndex s → s.step.verifyStep = some m.step → tFind s.step.digests (4096 + subject) ≠ some d →
       ∃ t, exec (.digest m) s = .next t ∧ t.step = { s.step with digests := tIns s.step.digests (4096 + subject) d } ∧
       newCodes s t = if d = s.step.verifyDigest then [] else [0x0907]))

/-! ## Upkeep, arbiters, the mesh, reaches -/

/-- Page heat, moves, scrubbing and the head keeper's records (R265, R266, R268, R269, R274, R275, R443, R445, R453, R470, R471, R492). An epoch halves each page's heat and adds its accesses, and promotes a hot page of the fabric tier into a page of its object's home list. The
oldest move that may end flips its entry with the bytes carried over, and the promotion it made room for begins, or it is abandoned with its record. A move waits while the mesh does not carry its copy, and a page that was to be retired is due again after a failed one. A scrub stains a granule that cannot be corrected and retires the page of the sixteenth corrected error in a day; it does the same for a row of a good site's
scratchpad, whose corrected errors SP_ECC_CORRECTED counts. A record that reaches the head keeper takes the next SEQ, enters the tally and goes to its ring, or waits for it; from the seventeenth of one kind within a second on it is only counted, and the second's end writes one record for them. The risk monitor
takes its step of R453.
It rests on the model's choices of log entries 12, 52, 112, 136, 137 and 138. -/
def Obligations.UpkeepAndRecords : Prop :=
  (∀ (s : State) (counts : List (Nat × Nat × Nat)),
     ∃ t, exec (.heatEpoch counts) s = .next t ∧
       t = { s with ctxs := t.ctxs, moves := t.moves, tally := t.tally, store := { s.store with due := t.store.due, retired := t.store.retired } } ∧
       (∀ c v e, pageOf s c v = some e → ∃ st, pageOf t c v = some { e with heat := e.heat / 2 + min (epochCount counts c v) 32767, fresh := false, state := st }) ∧
       (s.store.due = [] → hotPages (foldHeat s counts) = [] →
         t.moves = s.moves ∧ t.store = s.store ∧ ∀ c v, (pageOf t c v).map Pte.state = (pageOf s c v).map Pte.state) ∧
       (∀ c v x e o k g, s.store.due = [] → hotPages (foldHeat s counts) = [(c, v)] → ctxAt s c = some x → tFind x.pt v = some e → e.fabric = true → e.migratable = true →
         e.pinned = false → e.state = 0 → follows s c v = false → pageObject x v = some o → stackUsed s c x < x.stackPages → homePage s o.home (v - o.base / 2 ^ 21) = some (k, g) →
         t.moves = s.moves ++ [{ ctx := c, page := v, fabric := false, place := k, dest := g, retire := false, follow := none }] ∧ (pageOf t c v).map Pte.state = some 1)) ∧
  (∀ (s : State) (ok : Bool), s.moves.find? (mayEnd s) = none → exec (.pageMoveDone ok) s = .next s) ∧
  (∀ (s : State) (m : Move) (e : Pte) (ok : Bool), s.moves.find? (mayEnd s) = some m → pageOf s m.ctx m.page = some e →
     let others := s.moves.erase m
     (e.state = 2 → exec (.pageMoveDone ok) s = .next { s with moves := others }) ∧
     (e.state ≠ 2 → hostLines s m.ctx (m.page * 2 ^ 21) (2 ^ 21) false = [] → moveHeld s e m = true → exec (.pageMoveDone ok) s = .next s) ∧
     (e.state ≤ 1 → hostLines s m.ctx (m.page * 2 ^ 21) (2 ^ 21) false = [] → moveHeld s e m = false →
       (ok = false ∨ moveFails s e m = true →
         ∃ t, exec (.pageMoveDone ok) s = .next t ∧ t.moves = others ∧ pageOf t m.ctx m.page = some { e with state := 0 } ∧ Recorded s t 0x0309 ∧
           t.store = { s.store with due := if m.retire && !e.fabric then addOnce s.store.due (pageId false e.place e.page) else s.store.due }) ∧
       (ok = true → moveFails s e m = false →
         let n := movedPte s e m
         e.fabric ≠ n.fabric ∨ pteKey e 0 + 2 ^ 21 ≤ pteKey n 0 ∨ pteKey n 0 + 2 ^ 21 ≤ pteKey e 0 →
         ∃ t next, exec (.pageMoveDone ok) s = .next t ∧ inboxCodes t = inboxCodes s ∧ t.moves = others ++ next ∧ next.length ≤ 1 ∧ (m.follow = none → next = []) ∧
           (∀ p ∈ next, m.follow = some p.page ∧ p.ctx = m.ctx ∧ p.fabric = false ∧ p.follow = none) ∧
           (m.follow ≠ some m.page → pageOf t m.ctx m.page = some n) ∧
           pageBytes t n 0 (2 ^ 21) = pageBytes s e 0 (2 ^ 21) ∧
           (m.retire = true → pageId e.fabric e.place e.page ∈ t.store.retired ∧ pageBytes t e 0 (2 ^ 21) = pageBytes s e 0 (2 ^ 21)) ∧
           (m.retire = false → ∀ k < 2 ^ 21, (pageBytes t e 0 (2 ^ 21)).getD k 0 = 0)))) ∧
  (∀ (s : State) (k : Byte) (h : ScrubHit), stackPresent s k.toNat = true → reachUp s (k.toNat / 2) = true → h.kind = 0 → h.page < stackPages → h.line < 32768 →
     let id := pageId false k.toNat h.page
     let times := s.now.toNat :: (tGet [] s.store.corrected id).filter (fun t => s.now.toNat < t + dayCounts)
     ∃ t, exec (.stackScrub k [h]) s = .next t ∧ t.store.stack = s.store.stack ∧
       (h.uncorrectable = true → Recorded s t 0x0305 ∧ (k.toNat * 2 ^ 37 + h.page * 2 ^ 21) / 64 + h.line ∈ t.store.stainStack ∧ t.moves = s.moves) ∧
       (h.uncorrectable = false → Recorded s t 0x0304 ∧ tGet [] t.store.corrected id = times ∧ t.store.stainStack = s.store.stainStack ∧
         (times.length < 16 → t.moves = s.moves ∧ t.store.retired = s.store.retired) ∧
         (16 ≤ times.length → (∀ m ∈ s.moves, m.retire = false ∧ ¬(m.fabric = false ∧ m.place = k.toNat ∧ m.dest = h.page)) → (∀ x ∈ s.ctxs, ∀ e ∈ x.2.pt, ¬(e.2.fabric = false ∧ e.2.place = k.toNat ∧ e.2.page = h.page)) → id ∈ t.store.retired))) ∧
  (∀ (s : State) (k : Byte) (h : ScrubHit), stackPresent s k.toNat = true → reachUp s (k.toNat / 2) = true → h.kind = 1 → h.line < 2 ^ 21 →
     let site := k.toNat / 2
     (siteGood s site = false → exec (.stackScrub k [h]) s = .next s) ∧ (siteGood s site = true →
     ∃ t, exec (.stackScrub k [h]) s = .next t ∧ sameMemory s t ∧
       (h.uncorrectable = true → Recorded s t 0x0305 ∧ rowKey site h.line / 128 ∈ t.store.stainScratch) ∧
       (h.uncorrectable = false → Recorded s t 0x0304 ∧ Counts s t site 0x17 0x050 ∧ t.store = s.store))) ∧
  (∀ s : State, s.head.inbox = [] → exec .faultRecord s = .next s) ∧
  (∀ (s : State) (f : FaultRec) (rest : List FaultRec), s.head.inbox = f :: rest →
     let n := tGet 0 s.head.secondCount (secondKey f)
     let g := { f with seq := s.head.seq + 1 }
     (f.effect ≠ 0 ∨ n < keptPerSecond → ∃ t, exec .faultRecord s = .next t ∧ t.head.inbox = rest ∧ Numbered s t f ∧
       (∀ base log2, f.context = none → s.head.ringAddr = some (base, log2) → s.hdm.h0Up = true → 64 ≤ base →
         memBytes t.store.host (base + 64 * (s.head.ringWritten % 2 ^ log2)) 64 = faultBytes g ∧ memBytes t.store.host (base - 64) 8 = leBytes 8 (s.head.ringWritten + 1) ∧
         t.head.ringWritten = s.head.ringWritten + 1) ∧
       (∀ c x, f.context = some c → ctxAt s c = some x → s.hdm.h0Up = true → 64 ≤ x.faultRing →
         memBytes t.store.host (x.faultRing + 64 * (x.faultWritten % 2 ^ x.faultLog2)) 64 = faultBytes g ∧ memBytes t.store.host (x.faultRing - 64) 8 = leBytes 8 (x.faultWritten + 1)) ∧
       (s.hdm.h0Up = false → s.head.waiting.length < heldMax → t.head.waiting = s.head.waiting ++ [g] ∧ t.store = s.store)) ∧
     (f.effect = 0 → keptPerSecond ≤ n → ∃ t, exec .faultRecord s = .next t ∧ t.head.inbox = rest ∧ t.head.seq = s.head.seq ∧ t.tally = s.tally ∧ t.store = s.store ∧
       tGet 0 t.head.secondCount (secondKey f) = n + 1 ∧ tFind t.head.secondLast (secondKey f) = some f)) ∧
  (∀ s : State, ∃ t, exec .faultAggregate s = .next t ∧ t.head.secondCount = [] ∧ t.head.secondLast = [] ∧ t.head.seq = s.head.seq + s.head.secondLast.length ∧
     (∀ k f, s.head.secondLast = [(k, f)] → Numbered s t { f with count := min 65535 (tGet 0 s.head.secondCount k - keptPerSecond) })) ∧
  (∀ (s : State) (l : Loaded), loadedOf s (trainCtx s) = some l → commitState s ≠ 0 →
     let sum := weighted l.policy.weights (fun i => if i = 7 then throttled s else tGet 0 s.risk.counts i)
     let x := add32 l.policy.rhoFloor (mul32 (nat32 3600) sum)
     exec .riskTick s = .next { s with risk := { s.risk with
       counts := [], rho := add32 s.risk.rho (mul32 (sub32 x s.risk.rho) (sub32 0x3F800000 (exp2Rne (div32 0xBF800000 (nat32 l.policy.halfLife))))),
       expected := add32 (add32 s.risk.expected (div32 l.policy.rhoFloor (nat32 3600))) sum } })

/-- Lock arbiters, links and route rebuilds (R327, R332, R342, R347 to R351, R564, R569). A grant goes to a highest PRIO that asks and is not masked, the first in turn among equals, and counts its USED; a withdrawal after it puts USED, grants, the round-robin point and the masks
back as they were, and its transfer is the one in turn among the inputs of its class; where the window wraps between the grant and its transfer, the transfer is the new window's first; a window's wrap clears every USED and lifts every mask. A retried flit counts, and the ninth failure of it takes the link down on both ends, where a packet in the middle
is aborted and recorded; a slip is recorded and the link retrains on both ends. A rebuild holds every router that answers, and its end lets them go with the keepers' tables or the host's; an edge reach is reached by its attachment port (R564) while that link is up.
It rests on the model's choices of log entries 54, 56, 102, 144 and 147. -/
def Obligations.ArbitersAndRoutes : Prop :=
  (∀ (s : State) (r : BitVec 7) (p : BitVec 6) (a : ArbIn), arbThere s r.toNat p.toNat = true →
     let ask := askers s r.toNat p.toNat a.requests.toNat
     (ask = [] → a.wraps = false → ∃ t, exec (.arbiterGrant r p a) s = .next t ∧ regWord t r.toNat p.toNat 0x048 = 0 ∧ WordsBut s t r.toNat p.toNat [0x048]) ∧
     (ask = [] → a.wraps = true → ∃ t, exec (.arbiterGrant r p a) s = .next t ∧ ∀ n < arbRequesters p.toNat, arbUsed t r.toNat p.toNat n = 0) ∧
     (ask ≠ [] → ∃ w t, w ∈ ask ∧ (∀ n ∈ ask, arbPrio s r.toNat p.toNat n ≤ arbPrio s r.toNat p.toNat w ∧
         (arbPrio s r.toNat p.toNat n = arbPrio s r.toNat p.toNat w → turnOf s r.toNat p.toNat w ≤ turnOf s r.toNat p.toNat n)) ∧
       exec (.arbiterGrant r p a) s = .next t ∧ regWord t r.toNat p.toNat 0x048 = BitVec.ofNat 32 (2 ^ 31 + w) ∧ (arbAt t r.toNat p.toNat).last = w ∧
       (arbAt t r.toNat p.toNat).chosen = preSelect (arbAt s r.toNat p.toNat) w a.feeds ∧
       (∀ n < arbRequesters p.toNat, let used := if a.wraps then 0 else arbUsed s r.toNat p.toNat n
         arbUsed t r.toNat p.toNat n = if n = w then min (used + 1) 65535 else used) ∧
       (a.wraps = false → ∀ n < arbRequesters p.toNat,
         arbGrants t r.toNat p.toNat n = if n = w then min (arbGrants s r.toNat p.toNat n + 1) (2 ^ 32 - 1) else arbGrants s r.toNat p.toNat n) ∧
       MasksStand t t r.toNat p.toNat ∧ t = { s with pages := t.pages, mesh := t.mesh } ∧
       ∃ u, exec (.arbiterWithdrawal r p) t = .next u ∧ Counts t u r.toNat p.toNat 0x04C ∧ (arbAt u r.toNat p.toNat).last = (arbAt s r.toNat p.toNat).last ∧
         (arbAt u r.toNat p.toNat).pre = (arbAt s r.toNat p.toNat).pre ∧ MasksStand u u r.toNat p.toNat ∧
         (∀ n < arbRequesters p.toNat, arbUsed u r.toNat p.toNat n = if a.wraps then 0 else arbUsed s r.toNat p.toNat n) ∧
         (a.wraps = false → MasksStand s u r.toNat p.toNat ∧ ∀ n < arbRequesters p.toNat, arbGrants u r.toNat p.toNat n = arbGrants s r.toNat p.toNat n))) ∧
  (∀ (s : State) (r : BitVec 7) (p : BitVec 6), arbThere s r.toNat p.toNat = true →
     ∃ t, exec (.lockWindowWrap r p) s = .next t ∧ (∀ n < arbRequesters p.toNat, arbUsed t r.toNat p.toNat n = 0) ∧ fld t r.toNat p.toNat ⟨0x050, 15, 0⟩ = 0 ∧
       (arbAt t r.toNat p.toNat).last = (arbAt s r.toNat p.toNat).last ∧ capturedSet t (windowKey r.toNat p.toNat) = none ∧
       (capturedSet s (windowKey r.toNat p.toNat) = none → regWord t r.toNat p.toNat 0x040 = regWord s r.toNat p.toNat 0x040) ∧
       (∀ set, capturedSet s (windowKey r.toNat p.toNat) = some set → set.all (fun x => onPage r.toNat p.toNat x.1) = true → regWord t r.toNat p.toNat 0x040 = takenWord s set r.toNat p.toNat 0x040)) ∧
  (∀ (s : State) (r : BitVec 7) (dir : BitVec 2) (seq : Byte), r.toNat ≤ 76 → reachUp s r.toNat = true → linkState s r.toNat (dir.toNat + 1) = 1 →
     let d := dir.toNat + 1
     let n := match tFind s.mesh.retries (r.toNat * 8 + d) with | some (q, n) => if q = seq.toNat then n else 0 | none => 0
     (n < 8 → ∃ t, exec (.linkRetry r dir seq) s = .next t ∧ linkState t r.toNat d = 1 ∧ Counts s t r.toNat 0x03 0x048 ∧ Recorded s t 0x0401 ∧
       tFind t.mesh.retries (r.toNat * 8 + d) = some (seq.toNat, n + 1) ∧ t.mesh.dirty = s.mesh.dirty) ∧
     (n = 8 → ∃ t, exec (.linkRetry r dir seq) s = .next t ∧ linkState t r.toNat d = 4 ∧ (∀ c, neighbour r.toNat d = some c → linkState t c (opposite d) = 4) ∧ 0x0402 ∈ newCodes s t ∧ t.mesh.dirty = true ∧
       (∀ l ∈ t.mesh.landings, l ∈ s.mesh.landings) ∧ (t.mesh.landings.length < s.mesh.landings.length → 0x0407 ∈ newCodes s t)) ∧
     (∃ t, exec (.elasticSlip r dir) s = .next t ∧ Recorded s t 0x0604 ∧ linkState t r.toNat d = 2 ∧ t.mesh = s.mesh ∧ t.store = s.store ∧
       ∀ c, neighbour r.toNat d = some c → linkState t c (opposite d) = if linkState s c (opposite d) = 1 then 2 else linkState s c (opposite d))) ∧
  (∀ s : State, s.mesh.rebuilding = false → (s.mesh.dirty = true ∨ s.mesh.hostCommits ≠ []) →
     ∃ t, exec .routeRebuildStart s = .next t ∧ t.mesh = { s.mesh with rebuilding := true } ∧ (∀ r ∈ reachesUp s, fld t r 0x03 ⟨0x040, 0, 0⟩ = 1) ∧ t = { s with pages := t.pages, mesh := t.mesh }) ∧
  (∀ s : State, s.mesh.rebuilding = true →
     ∃ t, exec .routeDrainDone s = .next t ∧ t.mesh.rebuilding = false ∧ t.mesh.dirty = false ∧ t.mesh.hostCommits = [] ∧ (∀ r ∈ reachesUp s, fld t r 0x03 ⟨0x040, 0, 0⟩ = 0) ∧
       (s.mesh.dirty = true → 0x0403 ∈ newCodes s t) ∧ (s.mesh.dirty = false → s.hdm.waiting = [] → s.mesh.reads = [] → 0x0403 ∉ newCodes s t) ∧
       (s.mesh.dirty = true → meshWhole s = true → s.mesh.hostCommits = [] → ∀ r < 77, ∀ d < 77, regWord t r 0x03 (0x400 + 4 * d) = BitVec.ofNat 32 (xyRoute r d) ∧
         shadowWord t r 0x03 (0x400 + 4 * d) = BitVec.ofNat 32 (xyRoute r d)) ∧
       (s.mesh.dirty = true → s.mesh.hostCommits = [] → ∀ d, 72 ≤ d → d < 77 → reachUp s d = true → reachUp s (attachSite d) = true → linkState s (attachSite d) (attachPort d) = 1 →
         regWord t (attachSite d) 0x03 (0x400 + 4 * d) = BitVec.ofNat 32 (attachPort d)) ∧
       (∀ r set, s.mesh.dirty = false → s.mesh.hostCommits = [r] → capturedSet s (r * 64 + 3) = some set → set.all (fun x => onPage r 0x03 x.1) = true → ∀ d < 77, regWord t r 0x03 (0x400 + 4 * d) = takenWord s set r 0x03 (0x400 + 4 * d)))

/-- What is lost (R280, R281, R345, R355, R356, R358, R473, R478, R479, R545, R554, R558). A reach too hot, unlocked, asked off by its keeper, past its junction limit or with a keeper that failed twice is switched off as planned, with its code, its pages offline and its neighbours told where its own keeper does
it; one on a short is lost with its pages, which PAGE_LOST records. A lost clock takes a link down, and a packet in the middle of it is aborted and recorded. An overcurrent holds the core reaches to at most 8; the reference clock takes every reach with it; the input takes the module with it, INPUT_LOSS the last record. A head keeper's trap loses at most its free outcome of the mailbox.
It rests on the model's choices of log entries 57, 58, 62, 67, 147 and 157. -/
def Obligations.ReachesGo : Prop :=
  (∀ (s : State) (r : BitVec 7), r.toNat ≤ 75 → reachUp s r.toNat = true →
     (∃ t, exec (.plannedOff r .heat) s = .next t ∧ 0x0606 ∈ newCodes s t ∧ ReachOff s t r.toNat 1 ∧ NeighboursTold s t r.toNat) ∧
     (∃ t, exec (.plannedOff r .pll) s = .next t ∧ 0x0601 ∈ newCodes s t ∧ ReachOff s t r.toNat 2 ∧ NeighboursTold s t r.toNat) ∧
     (∃ t, exec (.plannedOff r .request) s = .next t ∧ ReachOff s t r.toNat 3 ∧ NeighboursTold s t r.toNat) ∧
     (tFind s.power.off r.toNat = none → ∃ t, exec (.pllUnlock r) s = .next t ∧ 0x0601 ∈ newCodes s t ∧ ReachOff s t r.toNat 2 ∧ NeighboursTold s t r.toNat ∧
       Counts s t r.toNat 0x01 0x058 ∧ fld t r.toNat 0x01 ⟨0x044, 31, 31⟩ = 0) ∧
     (∃ t, exec (.junctionCutoff r) s = .next t ∧ 0x0606 ∈ newCodes s t ∧ ReachOff s t r.toNat 1 ∧ (0x0603 ∉ newCodes s t)) ∧
     (∃ t, exec (.supplyTrip r) s = .next t ∧ 0x0607 ∈ newCodes s t ∧ reachUp t r.toNat = false ∧ tFind t.power.off r.toNat = some 4 ∧ t.mesh.dirty = true ∧
       (s.hdm.waiting = [] → s.mesh.reads = [] → ReachGone s t r.toNat 4 ∧ (r.toNat < 72 → ReachPages s t r.toNat (fun e => { e with state := 2, stain := true }))) ∧
       (∀ c v e, pageOf s c v = some e → onReach r.toNat e = true → 0x0306 ∈ newCodes s t) ∧
       (r.toNat = 0 → 0x0406 ∈ newCodes s t ∧ t.head.stopped = true)) ∧
     (∃ t, exec (.keeperRestart r true) s = .next t ∧ fld t r.toNat 0 ⟨0x040, 1, 0⟩ = 0 ∧ fld t r.toNat 0 ⟨0x040, 15, 8⟩ = min (fld s r.toNat 0 ⟨0x040, 15, 8⟩ + 1) 255 ∧
       tFind t.head.keeperFails r.toNat = none ∧ OnlyWords s { t with head := s.head } r.toNat 0 [0x040]) ∧
     (tGet 0 s.head.keeperFails r.toNat = 0 → ∃ t, exec (.keeperRestart r false) s = .next t ∧ fld t r.toNat 0 ⟨0x040, 1, 0⟩ = 1 ∧ tGet 0 t.head.keeperFails r.toNat = 1 ∧ t.power = s.power ∧ t.head.inbox = s.head.inbox) ∧
     (tGet 0 s.head.keeperFails r.toNat ≠ 0 → ∃ t, exec (.keeperRestart r false) s = .next t ∧ fld t r.toNat 0 ⟨0x040, 1, 0⟩ = 2 ∧ 0x0704 ∈ newCodes s t ∧ ReachOff s t r.toNat 3 ∧ NeighboursTold s t r.toNat)) ∧
  (∀ (s : State), tFind s.power.off 76 = none → reachUp s 76 = true → ∃ t, exec (.pllUnlock 76) s = .next t ∧ 0x0601 ∈ newCodes s t ∧ tFind t.power.off 76 = some 2 ∧ t.hdm.h0Up = false) ∧
  (∀ (s : State) (r : BitVec 7) (dir : BitVec 2), r.toNat ≤ 76 → reachUp s r.toNat = true → (linkState s r.toNat (dir.toNat + 1) = 1 ∨ linkState s r.toNat (dir.toNat + 1) = 2) →
     ∃ t, exec (.clockLoss r dir) s = .next t ∧ (newCodes s t = [0x0602, 0x0402] ∨ (newCodes s t = [0x0602, 0x0402, 0x0407] ∧ Counts s t r.toNat 0x03 0x050)) ∧ linkState t r.toNat (dir.toNat + 1) = 4 ∧
       t.mesh = { s.mesh with dirty := true, landings := t.mesh.landings } ∧ (∀ l ∈ t.mesh.landings, l ∈ s.mesh.landings) ∧ t.power = s.power) ∧
  (∀ s : State, ∃ t, exec .overcurrent s = .next t ∧ t = { s with pages := t.pages } ∧
     ∀ r < 72, fld t r 0x01 ⟨0x044, 4, 0⟩ = if reachUp s r then min 8 (fld s r 0x01 ⟨0x044, 4, 0⟩) else fld s r 0x01 ⟨0x044, 4, 0⟩) ∧
  (∀ s : State, reachUp s 76 = true →
     (∀ i ∈ [Instr.inputLoss, .junctionCutoff 76], ∃ t, exec i s = .next t ∧ (t.tally.faultLog.getLast?).map (fun f => f.code.toNat) = some 0x0608 ∧ t.power.up = [] ∧ t.ctxs = [] ∧ t.queues = [] ∧ t.cores = [] ∧
       t.store.stack = [] ∧ t.store.scratch = [] ∧ t.store.fabric = s.store.fabric ∧ t.head.inbox = [] ∧ t.head.flash = (if s.head.pushing then [] else s.head.flash) ∧
       (s.head.inbox.length < 256 → t.head.seq = s.head.seq + s.head.inbox.length + 1) ∧ t.pending = s.pending) ∧
     (∃ t, exec .refclkLoss s = .next t ∧ t.power.refclk = false ∧ (tFind s.power.off 76 = none → t.hdm.h0Up = false ∧ 0x0601 ∈ newCodes s t) ∧
       (∀ r < 76, reachUp s r = true → tFind s.power.off r = none → reachUp t r = false ∧ tFind t.power.off r = some 5)) ∧
     (∀ (core : BitVec 2), s.head.mbStatus ≠ 1 ∨ s.head.resetWaits = true → exec (.headKeeperTrap core) s = .next s) ∧
     (∀ (core : BitVec 2) id tag rest, s.head.mbStatus = 1 → s.head.resetWaits = false → s.head.ending = (id, tag) :: rest →
       ∃ t, exec (.headKeeperTrap core) s = .next t ∧ t.freeCount = s.freeCount + 1 ∧ t.ctxs = s.ctxs ∧ t.store = s.store ∧ t.tally = s.tally ∧
         (t.head = s.head ∨ (t.head.ending = rest ∧ t.head.mbStatus = 2 ∧ ∃ code, 0 < code ∧ code < 65536 ∧ t.head.response = leBytes 2 0x11 ++ leBytes 2 code ++ leBytes 4 0 ++ leBytes 8 tag.toNat))))

/-- What comes back, and the governor (R281, R357, R489, R538, R549 to R553, R555, R558). A reach off for its PLL or its keeper returns when it is ready, one off for heat with N_t at 8, and every reach that the reference clock took when that returns. A decision takes the readings, moves N_t by the
temperature, and writes every core reach's N; coolant out of its limits is recorded once.
It rests on the model's choices of log entries 59 and 144. -/
def Obligations.ReachesReturn : Prop :=
  (∀ (s : State) (r : BitVec 7) (c : Nat), tFind s.power.off r.toNat = some c → s.power.refclk = true →
     (c = 2 ∨ c = 3 → nothingWaits s → nothingResumes s → ∃ t, exec (.reachReturn r) s = .next t ∧ ReachBack s t r.toNat ∧ inboxCodes s <+: inboxCodes t) ∧
     (c = 1 → nothingWaits s → nothingResumes s → ∃ t, exec (.heatRecovery r) s = .next t ∧ ReachBack s t r.toNat ∧ thermalN t r.toNat = 8) ∧
     (c ≠ 2 → c ≠ 3 → exec (.reachReturn r) s = .next s) ∧ (c ≠ 1 → exec (.heatRecovery r) s = .next s)) ∧
  (∀ (s : State), reachUp s 76 = true → ∃ t, exec .refclkReturn s = .next t ∧ t.power.refclk = true ∧
     ∀ r, tFind s.power.off r = some 5 → reachUp t r = true ∧ tFind t.power.off r = none) ∧
  (∀ (s : State) (g : GovIn), reachUp s 76 = true → 3 ≤ bootPhase s → bootPhase s ≤ 5 →
     ∃ t, exec (.governorDecision g) s = .next t ∧
       fld t 76 0x02 ⟨0x084, 15, 0⟩ = g.current % 65536 ∧ fld t 76 0x02 ⟨0x08C, 15, 0⟩ = g.flow % 65536 ∧ fld t 76 0x02 ⟨0x090, 15, 0⟩ = g.power % 65536 ∧
       (∀ r x, reachUp s r = true → g.temps.filter (fun y => y.1 = r) = [(r, x)] → r < 77 → -32768 ≤ x → x < 32768 → tempOf t r = x) ∧
       (∀ r < 72, reachUp s r = true →
         let n := thermalN s r
         let c := tGet 0 s.power.cool r + 1
         let k := tempOf t r
         (k < 1600 → thermalN t r = if c < 10 then n else min 16 (n + 1)) ∧ (1600 ≤ k → k < 1680 → thermalN t r = n) ∧ (1680 ≤ k → k < 1760 → thermalN t r = max 4 (n - 1)) ∧
         (1760 ≤ k → k < 1840 → thermalN t r = max 4 (n - 4)) ∧ (1840 ≤ k → if n = 4 then reachUp t r = false else thermalN t r = 4)) ∧
       (∀ r < 72, reachUp t r = true → let n := min (min (thermalN t r) (powerN t r)) (throttleN (fld t r 0x02 ⟨0x04C, 4, 0⟩))
         fld t r 0x01 ⟨0x040, 4, 0⟩ = n ∧ fld t r 0x01 ⟨0x044, 4, 0⟩ = n ∧ (fld t r 0x02 ⟨0x048, 2, 0⟩ = 1 ↔ n < 16))) ∧
  (∀ (s : State) (flow : Nat) (inlet : Int), reachUp s 76 = true →
     ∃ t, exec (.coolant flow inlet) s = .next t ∧ fld t 76 0x02 ⟨0x08C, 15, 0⟩ = flow % 65536 ∧
       (s.power.coolantFault = false → coolantBad s flow inlet = true → t.power.coolantFault = true ∧ Recorded s t 0x0609) ∧
       (s.power.coolantFault = true ∨ coolantBad s flow inlet = false → t.power = s.power ∧ OnlyWords s t 76 0x02 [0x088, 0x08C]))

/-! ## Single rules -/

/-- Doorbell values out of range and stale ones (R187), for a queue that is created, on a module that takes doorbells. -/
def Obligations.DoorbellValues : Prop :=
  ∀ (s : State) (q : BitVec 20) (size : Byte) (v : Dword) (e : QEntry), s.hdm.h0Up = true → romWaits s = false → s.head.stopped = false → queueAt s q.toNat = some e → size = 8 ∨ size = 4 →
    let n := if size = 4 then v.toNat % 2 ^ 32 else v.toNat
    let ahead := fun (x : Nat) => (x + 2 ^ e.log2 - e.head) % 2 ^ e.log2
    (2 ^ e.log2 ≤ n ∨ 2 ^ 20 ≤ n → ∃ t, exec (.doorbellWrite q size false v) s = .next t ∧ inboxCodes t = inboxCodes s ++ [0x0104] ∧ Counts s t 76 0x28 0x05C ∧
      t.queues = s.queues ∧ t.cores = s.cores) ∧
    (n < 2 ^ e.log2 → n < 2 ^ 20 → ahead n < ahead e.tail → ∃ t, exec (.doorbellWrite q size false v) s = .next t ∧ Counts s t 76 0x28 0x058 ∧ OnlyWords s t 76 0x28 [0x058])

/-- The return stack is 8 deep (R178): CALL, ENTER and a routine's call find it full, RETURN and EXIT find no level of their own; the fault is CALL_DEPTH, and the queue halts. -/
def Obligations.ReturnStackIsEightDeep : Prop :=
  ∀ (s : State) (u : Issue) (h : Hdr) (e : QEntry), threadRuns s u h = true → queueAt s u.q = some e → e.state ≠ 3 → e.stopping = none →
    let rets := (ownThread s u).rets
    (8 ≤ rets.length → ∀ offset entry l f failing first, loadedOf s u.ctx = some l → l.entries[(entry : Word).toNat]? = some f → f.2.2 = 0 → ∀ i ∈ pushers h offset entry l failing first, FaultsAndHalts i s u h 0x0112) ∧
    (rets = [] → FaultsAndHalts (.returnCmd h) s u h 0x0112 ∧ FaultsAndHalts (.exitCmd h) s u h 0x0112) ∧
    (∀ r, rets.getLast? = some r → r.isEnter = false → FaultsAndHalts (.exitCmd h) s u h 0x0112)

/-- The regions FAULT_LOG and STICKY of the tally (R471), as the head keeper takes the oldest record on its way; one that it only counts (R445) is written with the aggregate. -/
def Obligations.StickyRecords : Prop :=
  ∀ (s : State) (f : FaultRec) (rest : List FaultRec), s.head.inbox = f :: rest → f.effect ≠ 0 ∨ tGet 0 s.head.secondCount (secondKey f) < keptPerSecond →
    let g := { f with seq := s.head.seq + 1 }
    ∃ t, exec .faultRecord s = .next t ∧ t.tally.faultLog = (s.tally.faultLog ++ [g]).drop (s.tally.faultLog.length + 1 - faultLogSize) ∧
      (goesSticky f → s.tally.sticky.length < stickySize → t.tally.sticky = s.tally.sticky ++ [g] ∧ t.tally.stickyFull = s.tally.stickyFull) ∧
      (goesSticky f → stickySize ≤ s.tally.sticky.length → t.tally.sticky = s.tally.sticky ∧ t.tally.stickyFull = true) ∧
      (¬goesSticky f → t.tally.sticky = s.tally.sticky ∧ t.tally.stickyFull = s.tally.stickyFull)
end

