-- ==== Sys2Proof/Laws/Logs.lean ====
section
/-!
SUPPORT. Laws/Logs.lean: operations that write neither a log of the tally unit nor the snoop filter, one lemma each, `<operation>_logsOf`.
-/
set_option linter.unusedSimpArgs false
set_option linter.unusedVariables false
namespace Sys2Proof.Machine

@[simp] theorem logsOf_mk (a1 a2 a3 a4 a5 a6 a7 a8 a9 b1 b2 b3 b4 b5 b6 b7 b8 b9 c1 c2 c3 c4 c5 c6 c7) :
  logsOf ⟨a1, a2, a3, a4, a5, a6, a7, a8, a9, b1, b2, b3, b4, b5, b6, b7, b8, b9, c1, c2, c3, c4, c5, c6, c7⟩ =
  (a7.sticky, a7.faultLog, a7.stepLog, a7.stickyFull, b9.filter) := by simp only [logsOf]
@[simp] theorem logsOf_fold (s : State) : (s.tally.sticky, s.tally.faultLog, s.tally.stepLog, s.tally.stickyFull, s.hdm.filter) = logsOf s := by simp only [logsOf]
@[simp] theorem foldl_logsOf {β : Type} (f : State → β → State) (h : ∀ s x, logsOf (f s x) = logsOf s) :
    ∀ (l : List β) (s : State), logsOf (l.foldl f s) = logsOf s
  | [], _ => rfl
  | x :: l, s => by rw [List.foldl_cons, foldl_logsOf f h l, h]
@[simp] theorem ite_logsOf (c : Prop) [Decidable c] (a b : State) : logsOf (if c then a else b) = if c then logsOf a else logsOf b := by split <;> rfl
theorem ite_fst_logsOf {c : Prop} [Decidable c] {a b : State × Ran} {x} (ha : logsOf a.1 = x) (hb : logsOf b.1 = x) :
    logsOf (if c then a else b).1 = x := by split <;> assumption

@[simp] theorem setRegWord_logsOf (s : State) (r : Nat) (p : Nat) (o : Nat) (w : Word) : logsOf (setRegWord s r p o w) = logsOf s := by
  simp [setRegWord]
@[simp] theorem setShadowWord_logsOf (s : State) (r : Nat) (p : Nat) (o : Nat) (w : Word) : logsOf (setShadowWord s r p o w) = logsOf s := by
  simp [setShadowWord]
@[simp] theorem setFld_logsOf (s : State) (r : Nat) (p : Nat) (f : Fld) (v : Nat) : logsOf (setFld s r p f v) = logsOf s := by
  simp [setFld]
@[simp] theorem bump_logsOf (s : State) (r : Nat) (p : Nat) (f : Fld) (n : Nat) : logsOf (bump s r p f n) = logsOf s := by
  simp [bump]
@[simp] theorem bumpWrap_logsOf (s : State) (r : Nat) (p : Nat) (f : Fld) (n : Nat) : logsOf (bumpWrap s r p f n) = logsOf s := by
  simp [bumpWrap]
@[simp] theorem bumpPair_logsOf (s : State) (r : Nat) (p : Nat) (o : Nat) (n : Nat) : logsOf (bumpPair s r p o n) = logsOf s := by
  simp [bumpPair]
@[simp] theorem emit_logsOf (s : State) (o : Out) : logsOf (emit s o) = logsOf s := by
  simp [emit]
@[simp] theorem msix_logsOf (s : State) (v : Nat) : logsOf (msix s v) = logsOf s := by
  simp [msix]
@[simp] theorem irqRise_logsOf (was : Bool) (s : State) (r : Nat) (p : Nat) : logsOf (irqRise was s r p) = logsOf s := by
  simp [irqRise]
@[simp] theorem irqEvent_logsOf (s : State) (r : Nat) (p : Nat) (bit : Nat) : logsOf (irqEvent s r p bit) = logsOf s := by
  simp [irqEvent]
@[simp] theorem setCore_logsOf (s : State) (site : Nat) (c : Core) : logsOf (setCore s site c) = logsOf s := by
  simp [setCore]
@[simp] theorem modCore_logsOf (s : State) (site : Nat) (f : Core → Core) : logsOf (modCore s site f) = logsOf s := by
  simp [modCore]
@[simp] theorem setThread_logsOf (s : State) (site : Nat) (t : Nat) (th : Thread) : logsOf (setThread s site t th) = logsOf s := by
  simp [setThread]
@[simp] theorem modThread_logsOf (s : State) (site : Nat) (t : Nat) (f : Thread → Thread) : logsOf (modThread s site t f) = logsOf s := by
  simp [modThread]
@[simp] theorem setQueue_logsOf (s : State) (q : Nat) (e : QEntry) : logsOf (setQueue s q e) = logsOf s := by
  simp [setQueue]
@[simp] theorem modQueue_logsOf (s : State) (q : Nat) (f : QEntry → QEntry) : logsOf (modQueue s q f) = logsOf s := by
  simp only [modQueue]; (repeat' split) <;> simp_all
@[simp] theorem setCtx_logsOf (s : State) (c : Nat) (x : Ctx) : logsOf (setCtx s c x) = logsOf s := by
  simp [setCtx]
@[simp] theorem modCtx_logsOf (s : State) (c : Nat) (f : Ctx → Ctx) : logsOf (modCtx s c f) = logsOf s := by
  simp only [modCtx]; (repeat' split) <;> simp_all
@[simp] theorem modPort_logsOf (s : State) (p : Nat) (f : Port → Port) : logsOf (modPort s p f) = logsOf s := by
  simp [modPort]
@[simp] theorem latch_logsOf (s : State) (f : Report) : logsOf (latch s f) = logsOf s := by
  simp [latch]
@[simp] theorem leaveQueue_logsOf (s : State) (q : Nat) (site : Nat) (t : Nat) : logsOf (leaveQueue s q site t) = logsOf s := by
  simp [leaveQueue]
@[simp] theorem attachNext_logsOf (s : State) (core : Nat) (site : Nat) (t : Nat) (left : Nat) : logsOf (attachNext s core site t left) = logsOf s := by
  unfold attachNext; simp only []; (repeat' split) <;> simp_all
@[simp] theorem stopQueue_logsOf (s : State) (q : Nat) (code : Nat) (mark : Word) : logsOf (stopQueue s q code mark) = logsOf s := by
  unfold stopQueue; simp only []; (repeat' split) <;> simp_all
@[simp] theorem showHalt_logsOf (s : State) (q : Nat) : logsOf (showHalt s q) = logsOf s := by
  simp [showHalt]
@[simp] theorem suspectStep_logsOf (s : State) (code : Nat) : logsOf (suspectStep s code) = logsOf s := by
  simp [suspectStep]
@[simp] theorem raise_logsOf (s : State) (f : Report) : logsOf (raise s f) = logsOf s := by
  unfold raise; simp only []; (repeat' split) <;> simp_all
@[simp] theorem tallyCount_logsOf (s : State) (kind : Nat) (unit : Nat) : logsOf (tallyCount s kind unit) = logsOf s := by
  simp [tallyCount]
@[simp] theorem setLink_logsOf (s : State) (r : Nat) (d : Nat) (v : Nat) : logsOf (setLink s r d v) = logsOf s := by
  simp [setLink]
@[simp] theorem countSwallows_logsOf (s : State) : logsOf (countSwallows s) = logsOf s := by
  simp [countSwallows]
@[simp] theorem blowFuse_logsOf (s : State) : logsOf (blowFuse s) = logsOf s := by
  simp [blowFuse]
@[simp] theorem finishTraining_logsOf (s : State) : logsOf (finishTraining s) = logsOf s := by
  unfold finishTraining
  exact foldl_logsOf _ (fun s r => foldl_logsOf _ (fun s d => by split <;> simp) _ _) _ _
@[simp] theorem tick_logsOf (s : State) : logsOf (tick s) = logsOf s := by
  simp [tick]
@[simp] theorem towpath_logsOf (s : State) (r : Nat) : logsOf (towpath s r) = logsOf s := by
  unfold towpath; split <;> simp
@[simp] theorem haltNow_logsOf (s : State) (q : Nat) (code : Nat) (mark : Word) : logsOf (haltNow s q code mark) = logsOf s := by
  unfold haltNow; split <;> simp
@[simp] theorem ctxSplice_logsOf (s : State) (c : Nat) (x : Ctx) (a : Nat) (n : Nat) (src : Mem) (stained : Bool) : logsOf (ctxSplice s c x a n src stained) = logsOf s := by
  simp [ctxSplice]
@[simp] theorem scratchSplice_logsOf (s : State) (key : Nat) (n : Nat) (src : Mem) (stained : Bool) : logsOf (scratchSplice s key n src stained) = logsOf s := by
  simp [scratchSplice]
@[simp] theorem hostStore_logsOf (s : State) (a : Nat) (bs : List Byte) : logsOf (hostStore s a bs) = logsOf s := by
  simp [hostStore]
@[simp] theorem drawFree_logsOf (s : State) : logsOf (drawFree s).2 = logsOf s := by
  simp [drawFree]
@[simp] theorem dropPacket_logsOf (s : State) (r : Nat) : logsOf (dropPacket s r) = logsOf s := by
  simp [dropPacket]
@[simp] theorem setWindowState_logsOf (s : State) (site : Nat) (w : Nat) (v : Nat) : logsOf (setWindowState s site w v) = logsOf s := by
  simp [setWindowState]
@[simp] theorem freeGroups_logsOf (s : State) (site : Nat) (w : Nat) : logsOf (freeGroups s site w) = logsOf s := by
  simp [freeGroups]
@[simp] theorem closeWindow_logsOf (s : State) (site : Nat) (w : Nat) : logsOf (closeWindow s site w) = logsOf s := by
  simp [closeWindow]
@[simp] theorem drainWindow_logsOf (s : State) (site : Nat) (w : Nat) : logsOf (drainWindow s site w) = logsOf s := by
  simp [drainWindow]
@[simp] theorem abortWindows_logsOf (s : State) (c : Nat) : logsOf (abortWindows s c) = logsOf s := by
  simp [abortWindows]
@[simp] theorem unpin_logsOf (s : State) (c : Nat) (pages : List Nat) : logsOf (unpin s c pages) = logsOf s := by
  simp [unpin]
@[simp] theorem settleDesc_logsOf (s : State) (site : Nat) (d : Nat) : logsOf (settleDesc s site d) = logsOf s := by
  simp [settleDesc]
@[simp] theorem retireDesc_logsOf (s : State) (site : Nat) (d : Nat) : logsOf (retireDesc s site d) = logsOf s := by
  simp [retireDesc]
@[simp] theorem retireDescs_logsOf (s : State) (c : Nat) : logsOf (retireDescs s c) = logsOf s := by
  simp [retireDescs]
@[simp] theorem snoopLine_logsOf (s : State) (line : Nat) (inv : Bool) : logsOf (snoopLine s line inv) = logsOf s := by
  simp [snoopLine]
@[simp] theorem askHost_logsOf (s : State) (lines : List Nat) (inv : Bool) : logsOf (askHost s lines inv) = logsOf s := by
  simp [askHost]
@[simp] theorem hdmDrained_logsOf (s : State) : logsOf (hdmDrained s) = logsOf s := by
  simp [hdmDrained]
@[simp] theorem replayEnds_logsOf (s : State) : logsOf (replayEnds s) = logsOf s := by
  simp [replayEnds]
@[simp] theorem hdmStop_logsOf (s : State) : logsOf (hdmStop s) = logsOf s := by
  simp [hdmStop]
@[simp] theorem endCtx_logsOf (s : State) (c : Nat) (code : Nat) (mark : Word) (shown : Bool) : logsOf (endCtx s c code mark shown) = logsOf s := by
  unfold endCtx; simp only []; (repeat' split) <;> simp_all
@[simp] theorem consumeStain_logsOf (s : State) (f : Report) : logsOf (consumeStain s f) = logsOf s := by
  unfold consumeStain; simp only []; (repeat' split) <;> simp_all
@[simp] theorem traceRec_logsOf (s : State) (u : Issue) (h : Hdr) (kind : Nat) : logsOf (traceRec s u h kind) = logsOf s := by
  unfold traceRec; simp only []; (repeat' split) <;> simp_all
@[simp] theorem haltCmd_logsOf (s : State) (u : Issue) (h : Hdr) (code : Nat) (page : Nat) : logsOf (haltCmd s u h code page) = logsOf s := by
  simp [haltCmd]
@[simp] theorem refused_logsOf (s : State) (u : Issue) (h : Hdr) (code : Nat) (page : Nat) : logsOf (refused s u h code page).1 = logsOf s := by
  simp [refused]
@[simp] theorem setPos_logsOf (s : State) (u : Issue) (p : Int) : logsOf (setPos s u p) = logsOf s := by
  simp [setPos]
theorem fetchCmd_logsOf (s : State) (u : Issue) (h : Hdr) (absent : Bool) : (∀ out, fetchCmd s u h absent = .stays out → logsOf out = logsOf s) ∧ (∀ out, fetchCmd s u h absent = .passed out → logsOf out = logsOf s) := by
  constructor <;> (intro out ht; unfold fetchCmd at ht; simp only [] at ht; (repeat' split at ht) <;> simp_all <;> (try subst ht) <;> simp)
@[simp] theorem takeToken_logsOf (s : State) (site : Nat) (h : Hdr) : logsOf (takeToken s site h) = logsOf s := by
  simp [takeToken]
@[simp] theorem addToken_logsOf (s : State) (site : Nat) (token : Nat) (n : Nat) : logsOf (addToken s site token n).1 = logsOf s := by
  simp [addToken]
@[simp] theorem giveSignal_logsOf (s : State) (u : Issue) (h : Hdr) (page : Nat) : logsOf (giveSignal s u h page) = logsOf s := by
  simp [giveSignal]
@[simp] theorem retireCmd_logsOf (s : State) (u : Issue) (h : Hdr) (page : Nat) : logsOf (retireCmd s u h page) = logsOf s := by
  simp [retireCmd]
@[simp] theorem loopTurn_logsOf (s : State) (u : Issue) (x2 : Nat) : logsOf (loopTurn s u x2) = logsOf s := by
  induction x2 generalizing s with
  | zero => rfl
  | succ n ih => unfold loopTurn; simp only []; (repeat' split) <;> simp_all
@[simp] theorem leaveIfEmpty_logsOf (s : State) (u : Issue) : logsOf (leaveIfEmpty s u) = logsOf s := by
  simp [leaveIfEmpty]
@[simp] theorem goOn_logsOf (s : State) (u : Issue) : logsOf (goOn s u) = logsOf s := by
  simp [goOn]
@[simp] theorem goOnJumped_logsOf (s : State) (u : Issue) : logsOf (goOnJumped s u) = logsOf s := by
  simp [goOnJumped]
@[simp] theorem holdAtThread_logsOf (s : State) (u : Issue) (i : Instr) : logsOf (holdAtThread s u i) = logsOf s := by
  simp [holdAtThread]
@[simp] theorem undelivered_logsOf (s : State) (u : Issue) (h : Hdr) (r : Nat) (page : Nat) : logsOf (undelivered s u h r page) = logsOf s := by
  simp [undelivered]
@[simp] theorem askAgain_logsOf (s : State) (t : State) : logsOf (askAgain s t) = logsOf s := by
  simp [askAgain]
@[simp] theorem startThread_logsOf (i : Instr) (body : Body) (h : Hdr) (s : State) (u : Issue) (hbody : ∀ h s u, logsOf (body h s u).1 = logsOf s) : logsOf (startThread i body h s u) = logsOf s := by
  unfold startThread; (repeat' split) <;> grind [goOn_logsOf, goOnJumped_logsOf, holdAtThread_logsOf, askAgain_logsOf, retireCmd_logsOf, takeToken_logsOf, traceRec_logsOf]
theorem fetchRow_logsOf (i : Instr) (h : Hdr) (absent : Bool) (s : State) :
    (∀ out, fetchRow i h absent s = .inl out → logsOf out = logsOf s) ∧ (∀ x, fetchRow i h absent s = .inr x → logsOf x.1 = logsOf s) := by
  constructor <;> (intro out ht; unfold fetchRow at ht; (repeat' split at ht) <;> cases ht) <;> try rfl
  all_goals first
    | exact (fetchCmd_logsOf _ _ _ _).1 _ ‹_›
    | exact (fetchCmd_logsOf _ _ _ _).2 _ ‹_›
    | exact (haltCmd_logsOf _ _ _ _ _).trans ((fetchCmd_logsOf _ _ _ _).2 _ ‹_›)
@[simp] theorem threadCmd_logsOf (i : Instr) (h : Hdr) (absent : Bool) (body : Body) (s : State) (hbody : ∀ h s u, logsOf (body h s u).1 = logsOf s) : logsOf (threadCmd i h absent body s) = logsOf s := by
  unfold threadCmd
  split
  · rename_i t ht; exact (fetchRow_logsOf i h absent s).1 _ ht
  · rename_i t u ht
    rw [← (fetchRow_logsOf i h absent s).2 _ ht]
    (repeat' split) <;> simp [startThread_logsOf, hbody]
theorem startEngine_logsOf (p : Place) (body : Body) (h : Hdr) (s : State) (u : Issue) (hbody : ∀ h s u, logsOf (body h s u).1 = logsOf s) : ∀ out, startEngine p body h s u = some out → logsOf out = logsOf s := by
  intro out ht; unfold startEngine at ht; (repeat' split at ht) <;> grind [modCore_logsOf, takeToken_logsOf, traceRec_logsOf]
@[simp] theorem standInQueue_logsOf (i : Instr) (p : Place) (s : State) (u : Issue) (a : Issue) : logsOf (standInQueue i p s u a) = logsOf s := by
  simp [standInQueue]
@[simp] theorem enterQueue_logsOf (i : Instr) (p : Place) (body : Body) (h : Hdr) (s : State) (u : Issue) (hbody : ∀ h s u, logsOf (body h s u).1 = logsOf s) : logsOf (enterQueue i p body h s u) = logsOf s := by
  unfold enterQueue; (repeat' split) <;> grind [goOn_logsOf, standInQueue_logsOf, startEngine_logsOf]
@[simp] theorem engineCmd_logsOf (i : Instr) (h : Hdr) (absent : Bool) (p : Place) (engine : Byte) (body : Body) (s : State) (hbody : ∀ h s u, logsOf (body h s u).1 = logsOf s) : logsOf (engineCmd i h absent p engine body s) = logsOf s := by
  unfold engineCmd
  split
  · rename_i t ht; exact (fetchRow_logsOf i h absent s).1 _ ht
  · rename_i t u ht
    rw [← (fetchRow_logsOf i h absent s).2 _ ht]
    (repeat' split) <;> simp [enterQueue_logsOf, hbody]
@[simp] theorem admitThread_logsOf (s : State) (site : Nat) (t : Nat) : logsOf (admitThread s site t) = logsOf s := by
  unfold admitThread; simp only []; (repeat' split) <;> simp_all
@[simp] theorem admitStalled_logsOf (s : State) (site : Nat) (p : Place) : logsOf (admitStalled s site p) = logsOf s := by
  unfold admitStalled; simp only []; (repeat' split) <;> simp_all
@[simp] theorem writeReg_logsOf (s : State) (u : Issue) (i : Nat) (v : Dword) : logsOf (writeReg s u i v) = logsOf s := by
  simp [writeReg]
@[simp] theorem writeOutcome_logsOf (s : State) (u : Issue) (i : Nat) (v : Dword) : logsOf (writeOutcome s u i v) = logsOf s := by
  simp [writeOutcome]
@[simp] theorem aluBody_logsOf (f : Dword → Dword → Dword) (o : ScalarOps) (hdr : Hdr) (st : State) (iss : Issue) : logsOf (aluBody f o hdr st iss).1 = logsOf st := by
  simp [aluBody]
@[simp] theorem movBody_logsOf (o : ScalarOps) (hdr : Hdr) (st : State) (iss : Issue) : logsOf (movBody o hdr st iss).1 = logsOf st := by
  simp [movBody]
@[simp] theorem addBody_logsOf (o : ScalarOps) (hdr : Hdr) (st : State) (iss : Issue) : logsOf (addBody o hdr st iss).1 = logsOf st := by
  simp [addBody]
@[simp] theorem subBody_logsOf (o : ScalarOps) (hdr : Hdr) (st : State) (iss : Issue) : logsOf (subBody o hdr st iss).1 = logsOf st := by
  simp [subBody]
@[simp] theorem mulBody_logsOf (o : ScalarOps) (hdr : Hdr) (st : State) (iss : Issue) : logsOf (mulBody o hdr st iss).1 = logsOf st := by
  simp [mulBody]
@[simp] theorem andBody_logsOf (o : ScalarOps) (hdr : Hdr) (st : State) (iss : Issue) : logsOf (andBody o hdr st iss).1 = logsOf st := by
  simp [andBody]
@[simp] theorem orBody_logsOf (o : ScalarOps) (hdr : Hdr) (st : State) (iss : Issue) : logsOf (orBody o hdr st iss).1 = logsOf st := by
  simp [orBody]
@[simp] theorem xorBody_logsOf (o : ScalarOps) (hdr : Hdr) (st : State) (iss : Issue) : logsOf (xorBody o hdr st iss).1 = logsOf st := by
  simp [xorBody]
@[simp] theorem shlBody_logsOf (o : ScalarOps) (hdr : Hdr) (st : State) (iss : Issue) : logsOf (shlBody o hdr st iss).1 = logsOf st := by
  simp [shlBody]
@[simp] theorem shrBody_logsOf (o : ScalarOps) (hdr : Hdr) (st : State) (iss : Issue) : logsOf (shrBody o hdr st iss).1 = logsOf st := by
  simp [shrBody]
@[simp] theorem sraBody_logsOf (o : ScalarOps) (hdr : Hdr) (st : State) (iss : Issue) : logsOf (sraBody o hdr st iss).1 = logsOf st := by
  simp [sraBody]
@[simp] theorem faddBody_logsOf (o : ScalarOps) (hdr : Hdr) (st : State) (iss : Issue) : logsOf (faddBody o hdr st iss).1 = logsOf st := by
  simp [faddBody]
@[simp] theorem fmulBody_logsOf (o : ScalarOps) (hdr : Hdr) (st : State) (iss : Issue) : logsOf (fmulBody o hdr st iss).1 = logsOf st := by
  simp [fmulBody]
@[simp] theorem setBody_logsOf (o : ScalarOps) (hdr : Hdr) (st : State) (iss : Issue) : logsOf (setBody o hdr st iss).1 = logsOf st := by
  unfold setBody; simp only []; (repeat' split) <;> simp_all
@[simp] theorem fsetBody_logsOf (o : ScalarOps) (hdr : Hdr) (st : State) (iss : Issue) : logsOf (fsetBody o hdr st iss).1 = logsOf st := by
  unfold fsetBody; simp only []; (repeat' split) <;> simp_all
@[simp] theorem loadBody_logsOf (o : ScalarOps) (hdr : Hdr) (st : State) (iss : Issue) : logsOf (loadBody o hdr st iss).1 = logsOf st := by
  simp only [loadBody]; (repeat' split) <;> simp_all
@[simp] theorem storeBody_logsOf (o : ScalarOps) (hdr : Hdr) (st : State) (iss : Issue) : logsOf (storeBody o hdr st iss).1 = logsOf st := by
  simp only [storeBody]; (repeat' split) <;> simp_all
@[simp] theorem arrive_logsOf (s : State) (u : Issue) (kind : Nat) (op : Nat) (value : Dword) (i : Instr) : logsOf (arrive s u kind op value i) = logsOf s := by
  simp [arrive]
@[simp] theorem clearMeeting_logsOf (s : State) (as : List Arrival) : logsOf (clearMeeting s as) = logsOf s := by
  simp [clearMeeting]
@[simp] theorem resumeOne_logsOf (f : State → Issue → Hdr → State × Ran) (s : State) (a : Arrival) (hf : ∀ s u h, logsOf (f s u h).1 = logsOf s) : logsOf (resumeOne f s a) = logsOf s := by
  unfold resumeOne; (repeat' split) <;> grind [goOn_logsOf, goOnJumped_logsOf, modThread_logsOf, retireCmd_logsOf]
@[simp] theorem endMeeting_logsOf (s : State) (as : List Arrival) (f : State → Issue → Hdr → State × Ran) (hf : ∀ s u h, logsOf (f s u h).1 = logsOf s) : logsOf (endMeeting s as f) = logsOf s := by
  simp only [endMeeting]; (repeat' split) <;> simp_all
@[simp] theorem viaRoot_logsOf (s : State) (u : Issue) (h : Hdr) (i : Instr) (arrived : State × Ran) (ha : logsOf arrived.1 = logsOf s) : logsOf (viaRoot s u h i arrived).1 = logsOf s := by
  unfold viaRoot; split <;> simp [ha]
@[simp] theorem scalarReduceBody_logsOf (dst : Byte) (src : Byte) (op : Byte) (i : Instr) (hdr : Hdr) (st : State) (iss : Issue) : logsOf (scalarReduceBody dst src op i hdr st iss).1 = logsOf st := by
  unfold scalarReduceBody
  split
  · simp
  · refine viaRoot_logsOf _ _ _ _ _ ?_
    simp only []; split <;> simp
@[simp] theorem waitBody_logsOf  (hdr : Hdr) (st : State) (iss : Issue) : logsOf (waitBody hdr st iss).1 = logsOf st := by
  simp [waitBody]
@[simp] theorem yieldBody_logsOf  (hdr : Hdr) (st : State) (iss : Issue) : logsOf (yieldBody hdr st iss).1 = logsOf st := by
  unfold yieldBody; simp only []; (repeat' split) <;> simp_all
@[simp] theorem barrierBody_logsOf (i : Instr) (hdr : Hdr) (st : State) (iss : Issue) : logsOf (barrierBody i hdr st iss).1 = logsOf st := by
  simp [barrierBody]
@[simp] theorem jumpTo_logsOf (s : State) (u : Issue) (target : Int) : logsOf (jumpTo s u target) = logsOf s := by
  simp [jumpTo]
@[simp] theorem callBody_logsOf (offset : Word) (hdr : Hdr) (st : State) (iss : Issue) : logsOf (callBody offset hdr st iss).1 = logsOf st := by
  unfold callBody; simp only []; (repeat' split) <;> simp_all
@[simp] theorem dropLoops_logsOf (s : State) (u : Issue) : logsOf (dropLoops s u) = logsOf s := by
  simp [dropLoops]
@[simp] theorem returnBody_logsOf  (hdr : Hdr) (st : State) (iss : Issue) : logsOf (returnBody hdr st iss).1 = logsOf st := by
  unfold returnBody; simp only []; (repeat' split) <;> simp_all
@[simp] theorem enterBody_logsOf (entry : Word) (handle : Dword) (hdr : Hdr) (st : State) (iss : Issue) : logsOf (enterBody entry handle hdr st iss).1 = logsOf st := by
  unfold enterBody; simp only []; (repeat' split) <;> simp_all
@[simp] theorem leaveCode_logsOf (s : State) (u : Issue) (r : Ret) : logsOf (leaveCode s u r) = logsOf s := by
  simp [leaveCode]
@[simp] theorem loopBody_logsOf (o : LoopOps) (hdr : Hdr) (st : State) (iss : Issue) : logsOf (loopBody o hdr st iss).1 = logsOf st := by
  unfold loopBody; simp only []; (repeat' split) <;> simp_all
@[simp] theorem branchDecide_logsOf (s : State) (u : Issue) (taken : Bool) (offset : Word) : logsOf (branchDecide s u taken offset).1 = logsOf s := by
  simp only [branchDecide]; (repeat' split) <;> simp_all
@[simp] theorem branchScalarBody_logsOf (o : ScalarOps) (offset : Word) (hdr : Hdr) (st : State) (iss : Issue) : logsOf (branchScalarBody o offset hdr st iss).1 = logsOf st := by
  unfold branchScalarBody; simp only []; (repeat' split) <;> simp_all
@[simp] theorem branchTensorEnd_logsOf (o : BranchTensorOps) (v : F32) (s : State) (u : Issue) : logsOf (branchTensorEnd o v s u).1 = logsOf s := by
  unfold branchTensorEnd; simp only []; (repeat' split) <;> simp_all
@[simp] theorem branchTensorBody_logsOf (o : BranchTensorOps) (i : Instr) (hdr : Hdr) (st : State) (iss : Issue) : logsOf (branchTensorBody o i hdr st iss).1 = logsOf st := by
  unfold branchTensorBody
  split
  · simp
  · refine ite_fst_logsOf (by simp) (ite_fst_logsOf (by simp) ?_)
    simp only []
    refine ite_fst_logsOf (by simp) (viaRoot_logsOf _ _ _ _ _ ?_)
    split <;> simp
@[simp] theorem addNonfinite_logsOf (s : State) (u : Issue) (h : Hdr) (n : Nat) : logsOf (addNonfinite s u h n) = logsOf s := by
  simp [addNonfinite]
@[simp] theorem checkSatLimit_logsOf (s : State) (u : Issue) (h : Hdr) : logsOf (checkSatLimit s u h) = logsOf s := by
  simp [checkSatLimit]
theorem convertTile_logsOf (s : State) (u : Issue) (h : Hdr) (owner : Nat) (slot : Nat) (fmt : Byte) (rnd : Nat → Rnd) (vals : Tab F32) (recorded : Option F32) (nans : Nat) : ∀ out e x, convertTile s u h owner slot fmt rnd vals recorded nans = .ok (out, e, x) → logsOf out = logsOf s := by
  intro out e x ht; unfold convertTile at ht; (repeat' split at ht) <;> grind [addNonfinite_logsOf, bump_logsOf, checkSatLimit_logsOf, modCore_logsOf]
@[simp] theorem setupBody_logsOf (owner : Nat) (page : Nat) (o : SetupOps) (hdr : Hdr) (st : State) (iss : Issue) : logsOf (setupBody owner page o hdr st iss).1 = logsOf st := by
  unfold setupBody; simp only []; (repeat' split) <;> simp_all
@[simp] theorem stepWrite_logsOf (s : State) (site : Nat) (step : Word) : logsOf (stepWrite s site step) = logsOf s := by
  simp [stepWrite]
@[simp] theorem writeVector_logsOf (h : Hdr) (s : State) (u : Issue) (o : VecOps) (rows : Nat) (vals : Tab F32) (nans : Nat) : logsOf (writeVector h s u o rows vals nans).1 = logsOf s := by
  unfold writeVector; (repeat' split) <;> grind [addNonfinite_logsOf, convertTile_logsOf, modCore_logsOf, refused_logsOf, scratchSplice_logsOf]
@[simp] theorem writePacked_logsOf (h : Hdr) (s : State) (u : Issue) (o : VecOps) (rs : List F32) : logsOf (writePacked h s u o rs).1 = logsOf s := by
  unfold writePacked; simp only []; (repeat' split) <;> simp_all
@[simp] theorem vectorBody_logsOf (op : VecOp) (o : VecOps) (hdr : Hdr) (st : State) (iss : Issue) : logsOf (vectorBody op o hdr st iss).1 = logsOf st := by
  unfold vectorBody; simp only []; (repeat' split) <;> simp
@[simp] theorem vaddBody_logsOf (o : VecOps) (hdr : Hdr) (st : State) (iss : Issue) : logsOf (vaddBody o hdr st iss).1 = logsOf st := by
  simp [vaddBody]
@[simp] theorem vsubBody_logsOf (o : VecOps) (hdr : Hdr) (st : State) (iss : Issue) : logsOf (vsubBody o hdr st iss).1 = logsOf st := by
  simp [vsubBody]
@[simp] theorem vmulBody_logsOf (o : VecOps) (hdr : Hdr) (st : State) (iss : Issue) : logsOf (vmulBody o hdr st iss).1 = logsOf st := by
  simp [vmulBody]
@[simp] theorem vfmaBody_logsOf (o : VecOps) (hdr : Hdr) (st : State) (iss : Issue) : logsOf (vfmaBody o hdr st iss).1 = logsOf st := by
  simp [vfmaBody]
@[simp] theorem vminBody_logsOf (o : VecOps) (hdr : Hdr) (st : State) (iss : Issue) : logsOf (vminBody o hdr st iss).1 = logsOf st := by
  simp [vminBody]
@[simp] theorem vmaxBody_logsOf (o : VecOps) (hdr : Hdr) (st : State) (iss : Issue) : logsOf (vmaxBody o hdr st iss).1 = logsOf st := by
  simp [vmaxBody]
@[simp] theorem vabsBody_logsOf (o : VecOps) (hdr : Hdr) (st : State) (iss : Issue) : logsOf (vabsBody o hdr st iss).1 = logsOf st := by
  simp [vabsBody]
@[simp] theorem vnegBody_logsOf (o : VecOps) (hdr : Hdr) (st : State) (iss : Issue) : logsOf (vnegBody o hdr st iss).1 = logsOf st := by
  simp [vnegBody]
@[simp] theorem vselBody_logsOf (o : VecOps) (hdr : Hdr) (st : State) (iss : Issue) : logsOf (vselBody o hdr st iss).1 = logsOf st := by
  simp [vselBody]
@[simp] theorem vcmpBody_logsOf (o : VecOps) (hdr : Hdr) (st : State) (iss : Issue) : logsOf (vcmpBody o hdr st iss).1 = logsOf st := by
  simp only [vcmpBody]; (repeat' split) <;> simp_all
@[simp] theorem vexp2Body_logsOf (o : VecOps) (hdr : Hdr) (st : State) (iss : Issue) : logsOf (vexp2Body o hdr st iss).1 = logsOf st := by
  simp [vexp2Body]
@[simp] theorem vlog2Body_logsOf (o : VecOps) (hdr : Hdr) (st : State) (iss : Issue) : logsOf (vlog2Body o hdr st iss).1 = logsOf st := by
  simp [vlog2Body]
@[simp] theorem vrsqrtBody_logsOf (o : VecOps) (hdr : Hdr) (st : State) (iss : Issue) : logsOf (vrsqrtBody o hdr st iss).1 = logsOf st := by
  simp [vrsqrtBody]
@[simp] theorem vrecipBody_logsOf (o : VecOps) (hdr : Hdr) (st : State) (iss : Issue) : logsOf (vrecipBody o hdr st iss).1 = logsOf st := by
  simp [vrecipBody]
@[simp] theorem vtanhBody_logsOf (o : VecOps) (hdr : Hdr) (st : State) (iss : Issue) : logsOf (vtanhBody o hdr st iss).1 = logsOf st := by
  simp [vtanhBody]
@[simp] theorem vredBody_logsOf (o : VecOps) (hdr : Hdr) (st : State) (iss : Issue) : logsOf (vredBody o hdr st iss).1 = logsOf st := by
  simp [vredBody]
@[simp] theorem cvtBody_logsOf (o : VecOps) (hdr : Hdr) (st : State) (iss : Issue) : logsOf (cvtBody o hdr st iss).1 = logsOf st := by
  simp [cvtBody]
@[simp] theorem noteMismatch_logsOf (s : State) (site : Nat) (rows : List Nat) (cols : List Nat) : logsOf (noteMismatch s site rows cols) = logsOf s := by
  unfold noteMismatch; simp only []; (repeat' split) <;> simp_all
@[simp] theorem checkProduct_logsOf (s : State) (u : Issue) (h : Hdr) (p : ProductIn) (outs : Tab (F32 × Num × Bool)) : logsOf (checkProduct s u h p outs) = logsOf s := by
  simp [checkProduct]
@[simp] theorem finishProduct_logsOf (s : State) (u : Issue) (h : Hdr) (o : ProductOps) (p : ProductIn) : logsOf (finishProduct s u h o p) = logsOf s := by
  simp [finishProduct]
@[simp] theorem productBody_logsOf (o : ProductOps) (hdr : Hdr) (st : State) (iss : Issue) : logsOf (productBody o hdr st iss).1 = logsOf st := by
  unfold productBody; simp only []; (repeat' split) <;> simp_all
@[simp] theorem countProduct_logsOf (s : State) (site : Nat) (g : Geometry) (m : Mem) : logsOf (countProduct s site g m) = logsOf s := by
  simp [countProduct]
@[simp] theorem noteRefusal_logsOf (s : State) (site : Nat) (offset : Nat) : logsOf (noteRefusal s site offset) = logsOf s := by
  simp [noteRefusal]
@[simp] theorem metaRefused_logsOf (s : State) (u : Issue) (h : Hdr) (code : Nat) (offset : Nat) : logsOf (metaRefused s u h code offset).1 = logsOf s := by
  simp [metaRefused]
@[simp] theorem sparseProductBody_logsOf (o : SparseOps) (hdr : Hdr) (st : State) (iss : Issue) : logsOf (sparseProductBody o hdr st iss).1 = logsOf st := by
  unfold sparseProductBody; simp only []; (repeat' split) <;> simp_all
@[simp] theorem sparseCheckBody_logsOf (o : SparseOps) (hdr : Hdr) (st : State) (iss : Issue) : logsOf (sparseCheckBody o hdr st iss).1 = logsOf st := by
  unfold sparseCheckBody; simp only []; (repeat' split) <;> simp_all
@[simp] theorem writeBuilt_logsOf (s : State) (u : Issue) (o : EncodeOps) (g : Geometry) (b : Built) : logsOf (writeBuilt s u o g b) = logsOf s := by
  simp [writeBuilt]
@[simp] theorem encodeNOf4_logsOf (o : EncodeOps) (g : Geometry) (e : EncSource) (hdr : Hdr) (st : State) (iss : Issue) : logsOf (encodeNOf4 o g e hdr st iss).1 = logsOf st := by
  unfold encodeNOf4; (repeat' split) <;> grind [convertTile_logsOf, metaRefused_logsOf, refused_logsOf, writeBuilt_logsOf]
@[simp] theorem sparseEncodeBody_logsOf (o : EncodeOps) (hdr : Hdr) (st : State) (iss : Issue) : logsOf (sparseEncodeBody o hdr st iss).1 = logsOf st := by
  unfold sparseEncodeBody; (repeat' split) <;> grind [bump_logsOf, consumeStain_logsOf, encodeNOf4_logsOf, metaRefused_logsOf, refused_logsOf, writeBuilt_logsOf]
@[simp] theorem stainScratchRange_logsOf (s : State) (key : Nat) (n : Nat) : logsOf (stainScratchRange s key n) = logsOf s := by
  simp [stainScratchRange]
@[simp] theorem stainCtxRange_logsOf (s : State) (x : Ctx) (a : Nat) (n : Nat) : logsOf (stainCtxRange s x a n) = logsOf s := by
  simp [stainCtxRange]
@[simp] theorem farWrite_logsOf (s : State) (u : Issue) (d : DescImage) (a : Int) (n : Nat) (b : Bytes) : logsOf (farWrite s u d a n b) = logsOf s := by
  unfold farWrite; simp only []; (repeat' split) <;> simp_all
@[simp] theorem scatter_logsOf (s : State) (u : Issue) (d : DescImage) (n : Nat) (b : Bytes) : logsOf (scatter s u d n b) = logsOf s := by
  simp [scatter]
theorem moveWeight_logsOf (s : State) (u : Issue) (d : DescImage) (n : Nat) : ∀ out, moveWeight s u d n = .ok out → logsOf out = logsOf s := by
  intro out ht; unfold moveWeight at ht; (repeat' split at ht) <;> grind [modCore_logsOf]
theorem moveIn_logsOf (s : State) (u : Issue) (d : DescImage) (n : Nat) : ∀ out, moveIn s u d n = .ok out → logsOf out = logsOf s := by
  intro out ht; unfold moveIn at ht; simp only [] at ht; (repeat' split at ht) <;> cases ht <;> simp
theorem writeEntry_logsOf (s : State) (u : Issue) (d : DescImage) (n : Nat) (scale : F32) : ∀ out, writeEntry s u d n scale = some out → logsOf out = logsOf s := by
  intro out ht; unfold writeEntry at ht; (repeat' split at ht) <;> grind [ctxSplice_logsOf]
theorem moveOut_logsOf (s : State) (u : Issue) (d : DescImage) (n : Nat) : ∀ out, moveOut s u d n = .ok out → logsOf out = logsOf s := by
  intro out ht; unfold moveOut at ht; (repeat' split at ht) <;> grind [scatter_logsOf, writeEntry_logsOf]
theorem moveConvert_logsOf (h : Hdr) (s : State) (u : Issue) (d : DescImage) (n : Nat) : ∀ out, moveConvert h s u d n = .ok out → logsOf out = logsOf s := by
  intro out ht; unfold moveConvert at ht; (repeat' split at ht) <;> grind [convertTile_logsOf, scatter_logsOf, writeEntry_logsOf]
theorem moveUnit_logsOf (h : Hdr) (s : State) (u : Issue) (d : DescImage) (n : Nat) : ∀ out, moveUnit h s u d n = .ok out → logsOf out = logsOf s := by
  intro out ht; unfold moveUnit at ht; (repeat' split at ht) <;> grind [moveConvert_logsOf, moveIn_logsOf, moveOut_logsOf, moveWeight_logsOf]
@[simp] theorem setDesc_logsOf (s : State) (site : Nat) (d : Nat) (x : Desc) : logsOf (setDesc s site d x) = logsOf s := by
  simp [setDesc]
@[simp] theorem descLoadBody_logsOf (desc : BitVec 6) (row : BitVec 21) (hdr : Hdr) (st : State) (iss : Issue) : logsOf (descLoadBody desc row hdr st iss).1 = logsOf st := by
  unfold descLoadBody; simp only []; (repeat' split) <;> simp_all
@[simp] theorem holdSlot_logsOf (s : State) (u : Issue) (desc : Nat) (d : DescImage) (slot : Nat) : logsOf (holdSlot s u desc d slot) = logsOf s := by
  simp [holdSlot]
theorem startUnit_logsOf (h : Hdr) (s : State) (u : Issue) (desc : Nat) (d : DescImage) (last : Bool) : ∀ out, startUnit h s u desc d last = .ok out → logsOf out = logsOf s := by
  intro out ht
  unfold startUnit at ht
  simp only [] at ht
  split at ht
  · cases ht; simp [moveUnit_logsOf _ _ _ _ _ _ ‹_›]
  · cases ht; simp
  · exact moveUnit_logsOf _ _ _ _ _ _ ht
theorem unitStops_logsOf (s : State) (u : Issue) (h : Hdr) (m : Moved) (hm : ∀ out, m = .ok out → logsOf out = logsOf s) : logsOf (unitStops s u h m).1 = logsOf s := by
  unfold unitStops; split <;> simp
  exact hm _ rfl
@[simp] theorem nextUnitBody_logsOf (desc : BitVec 6) (hdr : Hdr) (st : State) (iss : Issue) : logsOf (nextUnitBody desc hdr st iss).1 = logsOf st := by
  unfold nextUnitBody
  simp only []
  (repeat' split) <;> first | simp | exact unitStops_logsOf _ _ _ _ (startUnit_logsOf _ _ _ _ _ _)
@[simp] theorem runUnits_logsOf (h : Hdr) (u : Issue) (desc : Nat) (d : DescImage) (x4 : Nat) (x5 : State) : logsOf (runUnits h u desc d x4 x5).1 = logsOf x5 := by
  induction x4 generalizing x5 with
  | zero => simp [runUnits]
  | succ n ih =>
    unfold runUnits
    split
    · rename_i t ht
      rw [ih, startUnit_logsOf _ _ _ _ _ _ _ ht]
    · simp
    · rename_i hm _
      rw [unitStops_logsOf]
      · simp
      · intro out ho; exact absurd ho (hm out)
@[simp] theorem runBody_logsOf (desc : BitVec 6) (hdr : Hdr) (st : State) (iss : Issue) : logsOf (runBody desc hdr st iss).1 = logsOf st := by
  unfold runBody
  simp only []
  (repeat' split) <;> first | (simp; done) | (rw [runUnits_logsOf]; exact startUnit_logsOf _ _ _ _ _ _ _ ‹_›) | exact unitStops_logsOf _ _ _ _ (startUnit_logsOf _ _ _ _ _ _)
@[simp] theorem askUnits_logsOf (s : State) (u : Issue) (desc : Nat) (all : Bool) : logsOf (askUnits s u desc all) = logsOf s := by
  unfold askUnits; simp only []; (repeat' split) <;> simp_all
@[simp] theorem resumeRun_logsOf (s : State) (site : Nat) (desc : Nat) : logsOf (resumeRun s site desc) = logsOf s := by
  unfold resumeRun; simp only []; (repeat' split) <;> simp_all
@[simp] theorem askPresented_logsOf (s : State) (h : Hdr) (desc : BitVec 6) (all : Bool) : logsOf (askPresented s h desc all) = logsOf s := by
  simp only [askPresented]; (repeat' split) <;> simp_all
@[simp] theorem retireBody_logsOf (desc : BitVec 6) (hdr : Hdr) (st : State) (iss : Issue) : logsOf (retireBody desc hdr st iss).1 = logsOf st := by
  unfold retireBody; simp only []; (repeat' split) <;> simp_all
@[simp] theorem pinPages_logsOf (s : State) (c : Nat) (pages : List Nat) : logsOf (pinPages s c pages) = logsOf s := by
  simp [pinPages]
@[simp] theorem admitBody_logsOf (desc : BitVec 6) (reg : BitVec 5) (hdr : Hdr) (st : State) (iss : Issue) : logsOf (admitBody desc reg hdr st iss).1 = logsOf st := by
  unfold admitBody; simp only []; (repeat' split) <;> simp_all
@[simp] theorem breach_logsOf (s : State) (u : Issue) (h : Hdr) (desc : Nat) (late : Nat) : logsOf (breach s u h desc late) = logsOf s := by
  simp [breach]
@[simp] theorem unitComplete_logsOf (s : State) (site : Nat) (desc : Nat) (late : Nat) : logsOf (unitComplete s site desc late) = logsOf s := by
  unfold unitComplete; simp only []; (repeat' split) <;> simp_all
@[simp] theorem runInner_logsOf (h : Hdr) (u : Issue) (x2 : List (Byte × Body)) (x3 : State) (hx2 : ∀ b ∈ x2, ∀ h s u, logsOf (b.2 h s u).1 = logsOf s) : logsOf (runInner h u x2 x3).1 = logsOf x3 := by
  revert hx2 x3
  induction x2 with
  | nil => intro s hl; rfl
  | cons a l ih =>
    intro s hl
    obtain ⟨e, body⟩ := a
    have hb := hl (e, body) (List.mem_cons_self ..) { h with engine := e } (traceRec s u { h with engine := e } 0) u
    have ih' := fun s => ih s (fun b hb => hl b (List.mem_cons_of_mem _ hb))
    unfold runInner
    simp only []
    split <;> rename_i t he <;> have h2 := (congrArg (fun x => logsOf x.1) he).symm.trans hb
    · simpa using h2
    · simpa using h2
    · split
      · simpa using h2
      · rw [ih']; simpa using h2
@[simp] theorem clobberTile_logsOf (s : State) (u : Issue) (k : Nat) : logsOf (clobberTile s u k) = logsOf s := by
  simp [clobberTile]
@[simp] theorem clobberAcc_logsOf (s : State) (u : Issue) (k : Nat) : logsOf (clobberAcc s u k) = logsOf s := by
  simp [clobberAcc]
@[simp] theorem clobberDescs_logsOf (s : State) (u : Issue) : logsOf (clobberDescs s u) = logsOf s := by
  simp [clobberDescs]
@[simp] theorem returnWith_logsOf (s : State) (u : Issue) (word : Dword) : logsOf (returnWith s u word) = logsOf s := by
  simp [returnWith]
@[simp] theorem takeLock_logsOf (s : State) (u : Issue) : logsOf (takeLock s u) = logsOf s := by
  simp [takeLock]
@[simp] theorem endRoutine_logsOf (s : State) (u : Issue) (before : List Nat) (p : Plan) (status : Option Dword) : logsOf (endRoutine s u before p status) = logsOf s := by
  simp [endRoutine]
@[simp] theorem routineBody_logsOf (check : State → Issue → Check) (hcheck : ∀ s u p, check s u = .ok p → ∀ b ∈ p.inner, ∀ h s u, logsOf (b.2 h s u).1 = logsOf s) (hdr : Hdr) (st : State) (iss : Issue) : logsOf (routineBody check hdr st iss).1 = logsOf st := by
  unfold routineBody
  simp only []
  split
  · simp
  · split
    · simp
    · split
      · simp
      · rename_i p hp
        split
        · simp
        · split
          · rfl
          · have := runInner_logsOf (tracedHdr st iss hdr) iss p.inner (if p.locks then takeLock st iss else st) (hcheck st iss p hp)
            split
            · rename_i t he
              rw [he] at this
              rw [endRoutine_logsOf, this]
              split <;> simp
            · rw [this]
              split <;> simp
theorem tileProductCheck_logsOf (s : State) (u : Issue) : ∀ p, tileProductCheck s u = .ok p → ∀ b ∈ p.inner, ∀ h s u, logsOf (b.2 h s u).1 = logsOf s := by
  intro p ht; unfold tileProductCheck at ht; simp only [bind, Except.bind] at ht; (repeat' split at ht) <;> cases ht <;> simp
@[simp] theorem clearAccBody_logsOf (k : Nat) (hdr : Hdr) (st : State) (iss : Issue) : logsOf (clearAccBody k hdr st iss).1 = logsOf st := by
  simp [clearAccBody]
theorem stripProductCheck_logsOf (s : State) (u : Issue) : ∀ p, stripProductCheck s u = .ok p → ∀ b ∈ p.inner, ∀ h s u, logsOf (b.2 h s u).1 = logsOf s := by
  intro p ht; unfold stripProductCheck at ht; simp only [bind, Except.bind] at ht; (repeat' split at ht) <;> cases ht
  intro b hb
  simp only [List.mem_flatten, List.mem_map] at hb
  obtain ⟨l, ⟨i, _, rfl⟩, hb⟩ := hb
  simp at hb
  rcases hb with rfl | rfl | rfl <;> simp
@[simp] theorem readFailed_logsOf (s : State) (u : Issue) (h : Hdr) (e : TileRead) : logsOf (readFailed s u h e).1 = logsOf s := by
  simp only [readFailed]; (repeat' split) <;> simp_all
theorem storeTile_logsOf (s : State) (u : Issue) (t : TRef) (g : Nat) (e : Encoded) (scale : Option F32) : ∀ out, storeTile s u t g e scale = .ok out → logsOf out = logsOf s := by
  intro out ht; unfold storeTile at ht; (repeat' split at ht) <;> grind [ctxSplice_logsOf]
theorem recordTile_logsOf (s : State) (u : Issue) (h : Hdr) (fmt : Byte) (rnd : Nat → Rnd) (vals : Tab F32) (recorded : Option F32) (nans : Nat) : ∀ out e x, recordTile s u h fmt rnd vals recorded nans = .ok (out, e, x) → logsOf out = logsOf s := by
  intro out e x ht; unfold recordTile at ht; (repeat' split at ht) <;> grind [addNonfinite_logsOf, bump_logsOf, checkSatLimit_logsOf, convertTile_logsOf]
/-- The state that a write leaves, whether it goes on or stops. -/
def wroteState : Wrote → State
  | .ok s => s
  | .error x => x.1
@[simp] theorem wroteState_ok (s : State) : wroteState (.ok s) = s := rfl
@[simp] theorem wroteState_error (x : State × Nat) : wroteState (.error x) = x.1 := rfl
theorem writeTile_logsOf (h : Hdr) (u : Issue) (t : TRef) (slot : Option Nat) (round : Nat) (fresh : Nat) (vals : Tab F32) (g : Nat) (s : State) : logsOf (wroteState (writeTile h u t slot round fresh vals g s)) = logsOf s := by
  unfold writeTile
  simp only []
  split
  · simp
  · split
    · rfl
    · split
      · rfl
      · rename_i t e' scale hq
        have hc : logsOf t = logsOf s := by
          split at hq
          · exact convertTile_logsOf _ _ _ _ _ _ _ _ _ _ _ _ _ hq
          · exact recordTile_logsOf _ _ _ _ _ _ _ _ _ _ _ hq
        split
        · exact hc
        · rename_i w hw
          split <;> exact (storeTile_logsOf _ _ _ _ _ _ _ hw).trans hc
theorem writeRowTiles_logsOf (h : Hdr) (u : Issue) (t : TRef) (slot : Option Nat) (round : Nat) (fresh : Nat) (vals : Tab F32) (x6 : Nat) (x7 : State) : logsOf (wroteState (writeRowTiles h u t slot round fresh vals x6 x7)) = logsOf x7 := by
  induction x6 generalizing x7 with
  | zero => rfl
  | succ n ih =>
    have h0 := ih x7
    unfold writeRowTiles
    split <;> rename_i e <;> rw [e] at h0
    · exact h0
    · rw [writeTile_logsOf]; exact h0
@[simp] theorem endWrite_logsOf (u : Issue) (h : Hdr) (old : State) (r : Wrote) (hr : logsOf (wroteState r) = logsOf old) : logsOf (endWrite u h old r).1 = logsOf old := by
  unfold endWrite
  split <;> simp at hr ⊢ <;> exact hr
@[simp] theorem loadTileBody_logsOf (t : TRef) (g : Nat) (k : Nat) (hdr : Hdr) (st : State) (iss : Issue) : logsOf (loadTileBody t g k hdr st iss).1 = logsOf st := by
  simp only [loadTileBody]; (repeat' split) <;> simp_all
theorem chainProductCheck_logsOf (s : State) (u : Issue) : ∀ p, chainProductCheck s u = .ok p → ∀ b ∈ p.inner, ∀ h s u, logsOf (b.2 h s u).1 = logsOf s := by
  intro p ht; unfold chainProductCheck at ht; simp only [bind, Except.bind] at ht; (repeat' split at ht) <;> cases ht
  intro b hb
  simp only [List.mem_flatten, List.mem_map] at hb
  obtain ⟨l, ⟨i, _, rfl⟩, hb⟩ := hb
  simp at hb
  rcases hb with rfl | rfl <;> simp
@[simp] theorem normFwdBody_logsOf (x : TRef) (g : TRef) (b : TRef) (y : TRef) (sv : TRef) (slot : Nat) (rows : Nat) (f : List F32 → List F32 → List F32 → List F32) (hdr : Hdr) (st : State) (iss : Issue) : logsOf (normFwdBody x g b y sv slot rows f hdr st iss).1 = logsOf st := by
  unfold normFwdBody
  simp only []
  split
  · simp
  · simp
  · simp
  · rename_i xv _ _ _ _ _
    have e1 := writeRowTiles_logsOf hdr iss sv (some slot) 0 0 (rowsVals sv ((List.range rows).map (tensorRow x xv))) (tilesAcross sv.cols sv.fmt) st
    split <;> rename_i e <;> rw [e] at e1
    · exact endWrite_logsOf _ _ _ _ e1
    · split
      · simpa using e1
      · rw [endWrite_logsOf]
        rw [writeRowTiles_logsOf]; exact e1
theorem normFwdCheck_logsOf (layer : Bool) (s : State) (u : Issue) : ∀ p, normFwdCheck layer s u = .ok p → ∀ b ∈ p.inner, ∀ h s u, logsOf (b.2 h s u).1 = logsOf s := by
  intro p ht; unfold normFwdCheck at ht; simp only [bind, Except.bind] at ht; (repeat' split at ht) <;> cases ht <;> simp
theorem foldlM_logsOf {β : Type} (f : State → β → Wrote) (h : ∀ s x, logsOf (wroteState (f s x)) = logsOf s) :
    ∀ (l : List β) (s : State), logsOf (wroteState (l.foldlM f s)) = logsOf s
  | [], s => rfl
  | x :: l, s => by
    have h0 := h s x
    simp only [List.foldlM_cons, bind, Except.bind]
    split <;> rename_i e <;> rw [e] at h0
    · exact h0
    · rw [foldlM_logsOf f h l]; exact h0
@[simp] theorem normBwdBody_logsOf (layer : Bool) (sv : TRef) (g : TRef) (dy : TRef) (dx : TRef) (dgs : List TRef) (eps : F32) (rows : Nat) (hdr : Hdr) (st : State) (iss : Issue) : logsOf (normBwdBody layer sv g dy dx dgs eps rows hdr st iss).1 = logsOf st := by
  unfold normBwdBody
  simp only []
  split <;> try (simp; done)
  rw [endWrite_logsOf]
  exact foldlM_logsOf _ (fun s x => writeRowTiles_logsOf _ _ _ _ _ _ _ _ _) _ _
theorem normBwdCheck_logsOf (layer : Bool) (s : State) (u : Issue) : ∀ p, normBwdCheck layer s u = .ok p → ∀ b ∈ p.inner, ∀ h s u, logsOf (b.2 h s u).1 = logsOf s := by
  intro p ht; unfold normBwdCheck at ht; simp only [bind, Except.bind] at ht; (repeat' split at ht) <;> cases ht <;> simp
@[simp] theorem mapRowsBody_logsOf (ins : List TRef) (y : TRef) (rows : Nat) (len : Nat) (f : List (List F32) → List F32) (hdr : Hdr) (st : State) (iss : Issue) : logsOf (mapRowsBody ins y rows len f hdr st iss).1 = logsOf st := by
  unfold mapRowsBody
  split
  · simp
  · simp only []
    rw [endWrite_logsOf]
    exact writeRowTiles_logsOf _ _ _ _ _ _ _ _ _
theorem softmaxFwdCheck_logsOf (s : State) (u : Issue) : ∀ p, softmaxFwdCheck s u = .ok p → ∀ b ∈ p.inner, ∀ h s u, logsOf (b.2 h s u).1 = logsOf s := by
  intro p ht; unfold softmaxFwdCheck at ht; simp only [bind, Except.bind] at ht; (repeat' split at ht) <;> cases ht <;> simp
theorem softmaxBwdCheck_logsOf (s : State) (u : Issue) : ∀ p, softmaxBwdCheck s u = .ok p → ∀ b ∈ p.inner, ∀ h s u, logsOf (b.2 h s u).1 = logsOf s := by
  intro p ht; unfold softmaxBwdCheck at ht; simp only [bind, Except.bind] at ht; (repeat' split at ht) <;> cases ht <;> simp
theorem quantCheck_logsOf (through : Bool) (s : State) (u : Issue) : ∀ p, quantCheck through s u = .ok p → ∀ b ∈ p.inner, ∀ h s u, logsOf (b.2 h s u).1 = logsOf s := by
  intro p ht; unfold quantCheck at ht; simp only [bind, Except.bind] at ht; (repeat' split at ht) <;> cases ht <;> simp
theorem dequantCheck_logsOf (s : State) (u : Issue) : ∀ p, dequantCheck s u = .ok p → ∀ b ∈ p.inner, ∀ h s u, logsOf (b.2 h s u).1 = logsOf s := by
  intro p ht; unfold dequantCheck at ht; simp only [bind, Except.bind] at ht; (repeat' split at ht) <;> cases ht <;> simp
theorem rowReduceCheck_logsOf (s : State) (u : Issue) : ∀ p, rowReduceCheck s u = .ok p → ∀ b ∈ p.inner, ∀ h s u, logsOf (b.2 h s u).1 = logsOf s := by
  intro p ht; unfold rowReduceCheck at ht; simp only [bind, Except.bind] at ht; (repeat' split at ht) <;> cases ht <;> simp
theorem tensorNorm2Check_logsOf (s : State) (u : Issue) : ∀ p, tensorNorm2Check s u = .ok p → ∀ b ∈ p.inner, ∀ h s u, logsOf (b.2 h s u).1 = logsOf s := by
  intro p ht; unfold tensorNorm2Check at ht; simp only [bind, Except.bind] at ht; (repeat' split at ht) <;> cases ht <;> (intro b hb h s u; simp at hb; grind [addNonfinite_logsOf, readFailed_logsOf, writeReg_logsOf])
@[simp] theorem sparseRoutineRun_logsOf (h : Hdr) (u : Issue) (o : SparseOps) (s : State) : logsOf (sparseRoutineRun h u o s).1 = logsOf s := by
  unfold sparseRoutineRun
  simp only []
  have hi := runInner_logsOf h u [((4 : Byte), sparseProductBody o)] s (fun b hb h s u => by simp at hb; subst hb; simp)
  split
  · rename_i r he; rw [he] at hi; rw [endRoutine_logsOf]; exact hi
  · exact hi
@[simp] theorem checkTraced_logsOf (s : State) (u : Issue) (h : Hdr) : logsOf (checkTraced s u h) = logsOf s := by
  simp [checkTraced]
@[simp] theorem sparseRoutineBody_logsOf  (hdr : Hdr) (st : State) (iss : Issue) : logsOf (sparseRoutineBody hdr st iss).1 = logsOf st := by
  unfold sparseRoutineBody
  extract_lets opt sf o wf fail p
  have hf : ∀ a b, logsOf (fail a b).1 = logsOf st := fun _ _ => returnWith_logsOf _ _ _
  clear_value opt sf o wf fail p
  refine ite_fst_logsOf (refused_logsOf _ _ _ _ _) ?_
  iterate 3 refine ite_fst_logsOf (hf _ _) ?_
  refine ite_fst_logsOf rfl ?_
  split
  · exact hf _ _
  · exact hf _ _
  · exact consumeStain_logsOf _ _
  · split
    · simp only []
      rw [returnWith_logsOf, raise_logsOf, noteRefusal_logsOf, checkTraced_logsOf]
    · simp only []
      iterate 6 refine ite_fst_logsOf (hf _ _) ?_
      refine ite_fst_logsOf (returnWith_logsOf _ _ _) ?_
      rw [sparseRoutineRun_logsOf, checkTraced_logsOf]
@[simp] theorem selfCheckBody_logsOf (failing : List Nat) (first : Word) (hdr : Hdr) (st : State) (iss : Issue) : logsOf (selfCheckBody failing first hdr st iss).1 = logsOf st := by
  unfold selfCheckBody; simp only []; (repeat' split) <;> simp_all
theorem libInfoCheck_logsOf (x0 : State) (x1 : Issue) : ∀ p, libInfoCheck x0 x1 = .ok p → ∀ b ∈ p.inner, ∀ h s u, logsOf (b.2 h s u).1 = logsOf s := by
  intro p ht; unfold libInfoCheck at ht; cases ht; simp
@[simp] theorem arriveRoutine_logsOf (s : State) (u : Issue) (id : Nat) (digest : Dword) (bad : Option (Nat × Nat)) (i : Instr) : logsOf (arriveRoutine s u id digest bad i) = logsOf s := by
  simp [arriveRoutine]
@[simp] theorem endCollective_logsOf (s : State) (u : Issue) (id : Nat) (run : State → Issue → Hdr → State × Ran) (hrun : ∀ s u h, logsOf (run s u h).1 = logsOf s) : logsOf (endCollective s u id run).1 = logsOf s := by
  unfold endCollective; (repeat' split) <;> grind [endMeeting_logsOf, refused_logsOf, returnWith_logsOf]
@[simp] theorem layoutReduceBody_logsOf (i : Instr) (hdr : Hdr) (st : State) (iss : Issue) : logsOf (layoutReduceBody i hdr st iss).1 = logsOf st := by
  unfold layoutReduceBody
  refine ite_fst_logsOf (by simp) ?_
  refine ite_fst_logsOf rfl ?_
  refine viaRoot_logsOf _ _ _ _ _ ?_
  simp only []
  rw [endCollective_logsOf]
  · simp
  · intro s w h
    cases layoutReduceCheck s w with
    | error e => rfl
    | ok x =>
      obtain ⟨a, d, op, rows⟩ := x
      refine ite_fst_logsOf (by simp) ?_
      have hb := fun vals n => runInner_logsOf (tracedHdr s w h) w [((2 : Byte), fun h s w => writeVector h s w (vecOps d 0 0 1 0 0 rows 0) rows vals n)] s
        (by intro b hb h s u; simp at hb; subst hb; simp)
      split
      · rename_i t he
        have h2 := congrArg (fun x => logsOf x.1) he
        rw [endRoutine_logsOf]
        exact h2.symm.trans (hb _ _)
      · exact hb _ _
theorem attnWrite_logsOf (h : Hdr) (u : Issue) (from' : State) (a : Attn) (back : Bool) (part : Nat) (k : Nat) (t : TRef) (x8 : Nat) (x9 : State) : logsOf (wroteState (attnWrite h u from' a back part k t x8 x9)) = logsOf x9 := by
  induction x8 generalizing x9 with
  | zero => rfl
  | succ n ih =>
    have h0 := ih x9
    unfold attnWrite
    split <;> rename_i e <;> rw [e] at h0
    · exact h0
    · rw [writeRowTiles_logsOf]; exact h0
@[simp] theorem attnSlotHistory_logsOf (s : State) (u : Issue) (from' : State) (a : Attn) (tile : Nat) : logsOf (attnSlotHistory s u from' a tile) = logsOf s := by
  simp [attnSlotHistory]
@[simp] theorem attnRun_logsOf (a : Attn) (back : Bool) (k : Nat) (outs : List TRef) (from' : State) (hdr : Hdr) (st : State) (iss : Issue) : logsOf (attnRun a back k outs from' hdr st iss).1 = logsOf st := by
  unfold attnRun
  split
  · simp
  · simp only []
    rw [endWrite_logsOf]
    rw [foldlM_logsOf _ (fun s x => attnWrite_logsOf _ _ _ _ _ _ _ _ _ _)]
    split <;> simp
@[simp] theorem attnAsk_logsOf (s : State) (a : Attn) (outs : List (Issue × List TRef)) : logsOf (attnAsk s a outs) = logsOf s := by
  simp [attnAsk]
@[simp] theorem attnBody_logsOf (id : Nat) (back : Bool) (glob : Bool) (i : Instr) (hdr : Hdr) (st : State) (iss : Issue) : logsOf (attnBody id back glob i hdr st iss).1 = logsOf st := by
  unfold attnBody
  refine ite_fst_logsOf (by simp) ?_
  refine ite_fst_logsOf rfl ?_
  simp only []
  refine ite_fst_logsOf (attnAsk_logsOf _ _ _) ?_
  rw [endCollective_logsOf]
  · simp
  · intro s w h
    split
    · rfl
    · rename_i r outs _
      have hb := fun a k f => runInner_logsOf (tracedHdr s w h) w [((2 : Byte), attnRun a back k outs f)] s
        (by intro b hb h s u; simp at hb; subst hb; simp)
      split
      · rename_i t he
        have h2 := congrArg (fun x => logsOf x.1) he
        rw [endRoutine_logsOf]
        exact h2.symm.trans (hb _ _ _)
      · exact hb _ _ _
@[simp] theorem tileProductBody_logsOf  (hdr : Hdr) (st : State) (iss : Issue) : logsOf (tileProductBody hdr st iss).1 = logsOf st := by
  exact routineBody_logsOf _ tileProductCheck_logsOf _ _ _
@[simp] theorem stripProductBody_logsOf  (hdr : Hdr) (st : State) (iss : Issue) : logsOf (stripProductBody hdr st iss).1 = logsOf st := by
  exact routineBody_logsOf _ stripProductCheck_logsOf _ _ _
@[simp] theorem chainProductBody_logsOf  (hdr : Hdr) (st : State) (iss : Issue) : logsOf (chainProductBody hdr st iss).1 = logsOf st := by
  exact routineBody_logsOf _ chainProductCheck_logsOf _ _ _
@[simp] theorem attnWindowFwdBody_logsOf (h : Hdr) (hdr : Hdr) (st : State) (iss : Issue) : logsOf (attnWindowFwdBody h hdr st iss).1 = logsOf st := by
  simp [attnWindowFwdBody]
@[simp] theorem attnWindowBwdBody_logsOf (h : Hdr) (hdr : Hdr) (st : State) (iss : Issue) : logsOf (attnWindowBwdBody h hdr st iss).1 = logsOf st := by
  simp [attnWindowBwdBody]
@[simp] theorem attnGlobalFwdBody_logsOf (h : Hdr) (hdr : Hdr) (st : State) (iss : Issue) : logsOf (attnGlobalFwdBody h hdr st iss).1 = logsOf st := by
  simp [attnGlobalFwdBody]
@[simp] theorem attnGlobalBwdBody_logsOf (h : Hdr) (hdr : Hdr) (st : State) (iss : Issue) : logsOf (attnGlobalBwdBody h hdr st iss).1 = logsOf st := by
  simp [attnGlobalBwdBody]
@[simp] theorem rmsnormFwdBody_logsOf  (hdr : Hdr) (st : State) (iss : Issue) : logsOf (rmsnormFwdBody hdr st iss).1 = logsOf st := by
  exact routineBody_logsOf _ (normFwdCheck_logsOf false) _ _ _
@[simp] theorem rmsnormBwdBody_logsOf  (hdr : Hdr) (st : State) (iss : Issue) : logsOf (rmsnormBwdBody hdr st iss).1 = logsOf st := by
  exact routineBody_logsOf _ (normBwdCheck_logsOf false) _ _ _
@[simp] theorem layernormFwdBody_logsOf  (hdr : Hdr) (st : State) (iss : Issue) : logsOf (layernormFwdBody hdr st iss).1 = logsOf st := by
  exact routineBody_logsOf _ (normFwdCheck_logsOf true) _ _ _
@[simp] theorem layernormBwdBody_logsOf  (hdr : Hdr) (st : State) (iss : Issue) : logsOf (layernormBwdBody hdr st iss).1 = logsOf st := by
  exact routineBody_logsOf _ (normBwdCheck_logsOf true) _ _ _
@[simp] theorem softmaxFwdBody_logsOf  (hdr : Hdr) (st : State) (iss : Issue) : logsOf (softmaxFwdBody hdr st iss).1 = logsOf st := by
  exact routineBody_logsOf _ softmaxFwdCheck_logsOf _ _ _
@[simp] theorem softmaxBwdBody_logsOf  (hdr : Hdr) (st : State) (iss : Issue) : logsOf (softmaxBwdBody hdr st iss).1 = logsOf st := by
  exact routineBody_logsOf _ softmaxBwdCheck_logsOf _ _ _
@[simp] theorem quantBody_logsOf  (hdr : Hdr) (st : State) (iss : Issue) : logsOf (quantBody hdr st iss).1 = logsOf st := by
  exact routineBody_logsOf _ (quantCheck_logsOf false) _ _ _
@[simp] theorem dequantBody_logsOf  (hdr : Hdr) (st : State) (iss : Issue) : logsOf (dequantBody hdr st iss).1 = logsOf st := by
  exact routineBody_logsOf _ dequantCheck_logsOf _ _ _
@[simp] theorem transcodeBody_logsOf  (hdr : Hdr) (st : State) (iss : Issue) : logsOf (transcodeBody hdr st iss).1 = logsOf st := by
  exact routineBody_logsOf _ (quantCheck_logsOf true) _ _ _
@[simp] theorem rowReduceBody_logsOf  (hdr : Hdr) (st : State) (iss : Issue) : logsOf (rowReduceBody hdr st iss).1 = logsOf st := by
  exact routineBody_logsOf _ rowReduceCheck_logsOf _ _ _
@[simp] theorem tensorNorm2Body_logsOf  (hdr : Hdr) (st : State) (iss : Issue) : logsOf (tensorNorm2Body hdr st iss).1 = logsOf st := by
  exact routineBody_logsOf _ tensorNorm2Check_logsOf _ _ _
@[simp] theorem libInfoBody_logsOf  (hdr : Hdr) (st : State) (iss : Issue) : logsOf (libInfoBody hdr st iss).1 = logsOf st := by
  exact routineBody_logsOf _ libInfoCheck_logsOf _ _ _
@[simp] theorem noAnswer_logsOf (s : State) : logsOf (noAnswer s) = logsOf s := by
  simp [noAnswer]
@[simp] theorem hostWrite_logsOf (s : State) (r : Nat) (p : Nat) (f : State → State) (hf : ∀ s, logsOf (f s) = logsOf s) : logsOf (hostWrite s r p f) = logsOf s := by
  simp only [hostWrite]; (repeat' split) <;> simp_all
@[simp] theorem clearRead_logsOf (s : State) (r : Nat) (p : Nat) (o : Nat) : logsOf (clearRead s r p o) = logsOf s := by
  simp [clearRead]
@[simp] theorem readClear_logsOf (s : State) (r : Nat) (p : Nat) (o : Nat) : logsOf (readClear s r p o) = logsOf s := by
  simp [readClear]
@[simp] theorem writeFields_logsOf (s : State) (r : Nat) (p : Nat) (o : Nat) (v : Word) : logsOf (writeFields s r p o v) = logsOf s := by
  simp [writeFields]
@[simp] theorem clearFault_logsOf (s : State) (r : Nat) (p : Nat) : logsOf (clearFault s r p) = logsOf s := by
  simp [clearFault]
@[simp] theorem clearIrq_logsOf (s : State) (r : Nat) (p : Nat) (v : Word) : logsOf (clearIrq s r p v) = logsOf s := by
  simp [clearIrq]
@[simp] theorem writeIrqEnable_logsOf (s : State) (r : Nat) (p : Nat) (v : Word) : logsOf (writeIrqEnable s r p v) = logsOf s := by
  simp [writeIrqEnable]
@[simp] theorem writeThrottle_logsOf (s : State) (r : Nat) (v : Word) : logsOf (writeThrottle s r v) = logsOf s := by
  simp [writeThrottle]
@[simp] theorem writePlain_logsOf (s : State) (r : Nat) (p : Nat) (o : Nat) (v : Word) : logsOf (writePlain s r p o v) = logsOf s := by
  simp only [writePlain]; (repeat' split) <;> simp_all
@[simp] theorem capture_logsOf (s : State) (key : Nat) (set : Tab Word) : logsOf (capture s key set) = logsOf s := by
  simp [capture]
@[simp] theorem uncapture_logsOf (s : State) (key : Nat) : logsOf (uncapture s key) = logsOf s := by
  simp [uncapture]
@[simp] theorem commitShadows_logsOf (s : State) (r : Nat) (p : Nat) : logsOf (commitShadows s r p) = logsOf s := by
  simp [commitShadows]
@[simp] theorem takeCaptured_logsOf (s : State) (r : Nat) (p : Nat) (set : Tab Word) (keep : Nat → Bool) : logsOf (takeCaptured s r p set keep) = logsOf s := by
  simp [takeCaptured]
@[simp] theorem remask_logsOf (s : State) (r : Nat) (p : Nat) : logsOf (remask s r p) = logsOf s := by
  simp [remask]
@[simp] theorem commitEffect_logsOf (s : State) (r : Nat) (p : Nat) : logsOf (commitEffect s r p) = logsOf s := by
  unfold commitEffect; simp only []; (repeat' split) <;> simp_all
@[simp] theorem loadCommitted_logsOf (s : State) (r : Nat) (p : Nat) (o : Nat) (v : Word) : logsOf (loadCommitted s r p o v) = logsOf s := by
  simp [loadCommitted]
@[simp] theorem doorbellFault_logsOf (s : State) (q : Nat) : logsOf (doorbellFault s q) = logsOf s := by
  simp [doorbellFault]
@[simp] theorem wakeThread_logsOf (s : State) (q : Nat) : logsOf (wakeThread s q) = logsOf s := by
  unfold wakeThread; simp only []; (repeat' split) <;> simp_all
@[simp] theorem setTail_logsOf (s : State) (q : Nat) (v : Nat) : logsOf (setTail s q v) = logsOf s := by
  unfold setTail; simp only []; (repeat' split) <;> simp_all
@[simp] theorem doorbell_logsOf (s : State) (q : Nat) (size : Nat) (high : Bool) (v : Dword) : logsOf (doorbell s q size high v) = logsOf s := by
  simp [doorbell]
@[simp] theorem qsRun_logsOf (s : State) (q : Nat) (f : State → Except Nat State) (hf : ∀ s t, f s = .ok t → logsOf t = logsOf s) : logsOf (qsRun s q f) = logsOf s := by
  unfold qsRun; (repeat' split) <;> grind [hostWrite_logsOf, raise_logsOf, setFld_logsOf]
theorem createQueue_logsOf (s : State) (q : Nat) : ∀ out, createQueue s q = .ok out → logsOf out = logsOf s := by
  intro out ht; unfold createQueue at ht; (repeat' split at ht) <;> grind [modThread_logsOf, setQueue_logsOf]
theorem restartQueue_logsOf (s : State) (q : Nat) : ∀ out, restartQueue s q = .ok out → logsOf out = logsOf s := by
  intro out ht; unfold restartQueue at ht; (repeat' split at ht) <;> grind [setQueue_logsOf, wakeThread_logsOf]
theorem disableQueue_logsOf (s : State) (q : Nat) : ∀ out, disableQueue s q = .ok out → logsOf out = logsOf s := by
  intro out ht; unfold disableQueue at ht; (repeat' split at ht) <;> grind [attachNext_logsOf, doorbell_logsOf, leaveQueue_logsOf, setQueue_logsOf]
theorem enableQueue_logsOf (s : State) (q : Nat) : ∀ out, enableQueue s q = .ok out → logsOf out = logsOf s := by
  intro out ht; unfold enableQueue at ht; (repeat' split at ht) <;> grind [setQueue_logsOf, wakeThread_logsOf]
theorem destroyQueue_logsOf (s : State) (q : Nat) : ∀ out, destroyQueue s q = .ok out → logsOf out = logsOf s := by
  intro out ht
  unfold destroyQueue at ht
  simp only [] at ht
  split at ht
  · cases ht
  · split at ht
    · cases ht
    · cases ht
      rw [logsOf_mk, logsOf_fold]
      (repeat' split) <;> simp
@[simp] theorem storeWords_logsOf (s : State) (r : Nat) (p : Nat) (o : Nat) (bs : List Byte) (n : Nat) : logsOf (storeWords s r p o bs n) = logsOf s := by
  simp [storeWords]
@[simp] theorem peekQueue_logsOf (s : State) (q : Nat) : logsOf (peekQueue s q) = logsOf s := by
  simp [peekQueue]
@[simp] theorem qsDone_logsOf (s : State) : logsOf (qsDone s) = logsOf s := by
  simp [qsDone]
@[simp] theorem sendTowWith_logsOf (poison : Bool) (s : State) (p : Nat) (typ : Nat) (dst : Nat) (step : Word) (mark : Word) (seq : Word) (key : Dword) (body : List Byte) (payload : List Byte) (slot : Nat) : logsOf (sendTowWith poison s p typ dst step mark seq key body payload slot) = logsOf s := by
  simp only [sendTowWith]; (repeat' split) <;> simp_all
@[simp] theorem sendTow_logsOf (s : State) (p : Nat) (typ : Nat) (dst : Nat) (step : Word) (mark : Word) (seq : Word) (key : Dword) (body : List Byte) (payload : List Byte) (slot : Nat) : logsOf (sendTow s p typ dst step mark seq key body payload slot) = logsOf s := by
  simp [sendTow]
@[simp] theorem sendControl_logsOf (s : State) (typ : Nat) (dst : Nat) (step : Word) (key : Nat) (body : List Byte) : logsOf (sendControl s typ dst step key body) = logsOf s := by
  simp [sendControl]
@[simp] theorem refuseAccess_logsOf (s : State) (p : Nat) (tag : Nat) (code : Nat) (mark : Word) (addr : Nat) : logsOf (refuseAccess s p tag code mark addr) = logsOf s := by
  simp [refuseAccess]
@[simp] theorem dropTow_logsOf (s : State) (m : Tow) (code : Nat) : logsOf (dropTow s m code) = logsOf s := by
  simp [dropTow]
@[simp] theorem completeTow_logsOf (s : State) (m : Tow) : logsOf (completeTow s m) = logsOf s := by
  simp [completeTow]
@[simp] theorem duplicateTow_logsOf (s : State) (m : Tow) : logsOf (duplicateTow s m) = logsOf s := by
  simp [duplicateTow]
@[simp] theorem receiveTow_logsOf (s : State) (typ : Nat) (m : Tow) (extra : State → Bool) (f : State → State) (hf : ∀ s, logsOf (f s) = logsOf s) : logsOf (receiveTow s typ m extra f) = logsOf s := by
  simp only [receiveTow]; (repeat' split) <;> simp_all
@[simp] theorem bindGroups_logsOf (s : State) (site : Nat) (w : Nat) : logsOf (bindGroups s site w).1 = logsOf s := by
  unfold bindGroups
  split
  · rfl
  · have key : ∀ (l : List Nat) (a : State × List Byte), logsOf (l.foldl (fun a p =>
      match (if portPresent a.1 p && fld a.1 (72 + p) 0x20 ⟨0x040, 0, 0⟩ = 1 then freeGroup a.1 p else none) with
      | none => (a.1, a.2 ++ [0xFF])
      | some g => (modPort a.1 p (fun q => { q with groups := tIns q.groups g (site, w, windowSource s site w) }), a.2 ++ [BitVec.ofNat 8 g])) a).1 = logsOf a.1 := by
      intro l
      induction l with
      | nil => intro a; rfl
      | cons x l ih => intro a; rw [List.foldl_cons, ih]; split <;> simp
    exact key _ _
@[simp] theorem openNotices_logsOf (s : State) (site : Nat) (w : Nat) (groups : List Byte) : logsOf (openNotices s site w groups) = logsOf s := by
  simp [openNotices]
@[simp] theorem closeNotices_logsOf (s : State) (site : Nat) (w : Nat) : logsOf (closeNotices s site w) = logsOf s := by
  simp [closeNotices]
@[simp] theorem windowRefuse_logsOf (s : State) (site : Nat) (w : Nat) (code : Nat) : logsOf (windowRefuse s site w code) = logsOf s := by
  simp [windowRefuse]
@[simp] theorem windowDone_logsOf (s : State) (site : Nat) : logsOf (windowDone s site) = logsOf s := by
  simp [windowDone]
@[simp] theorem openWindow_logsOf (s : State) (site : Nat) (w : Nat) : logsOf (openWindow s site w) = logsOf s := by
  simp [openWindow]
@[simp] theorem closingWindow_logsOf (s : State) (site : Nat) (w : Nat) : logsOf (closingWindow s site w) = logsOf s := by
  simp [closingWindow]
@[simp] theorem drainCmd_logsOf (s : State) (site : Nat) (w : Nat) : logsOf (drainCmd s site w) = logsOf s := by
  simp [drainCmd]
@[simp] theorem abortCmd_logsOf (s : State) (site : Nat) (w : Nat) : logsOf (abortCmd s site w) = logsOf s := by
  simp [abortCmd]
@[simp] theorem windowDropped_logsOf (s : State) (site : Nat) (w : Nat) : logsOf (windowDropped s site w) = logsOf s := by
  simp [windowDropped]
@[simp] theorem acceptWrite_logsOf (s : State) (l : Landing) : logsOf (acceptWrite s l) = logsOf s := by
  simp [acceptWrite]
@[simp] theorem windowWrite_logsOf (s : State) (p : Nat) (k : Nat) (w : Nat) (o : Nat) (data : List Byte) (src : Nat) (tag : Nat) (poison : Bool) : logsOf (windowWrite s p k w o data src tag poison) = logsOf s := by
  simp only [windowWrite]; (repeat' split) <;> simp_all
@[simp] theorem windowRead_logsOf (s : State) (p : Nat) (k : Nat) (w : Nat) (o : Nat) (n : Nat) (src : Nat) (tag : Nat) : logsOf (windowRead s p k w o n src tag) = logsOf s := by
  unfold windowRead; simp only []; (repeat' split) <;> simp_all
@[simp] theorem landBytes_logsOf (s : State) (l : Landing) : logsOf (landBytes s l) = logsOf s := by
  unfold landBytes; simp only []; (repeat' split) <;> simp_all
@[simp] theorem landSignal_logsOf (s : State) (l : Landing) : logsOf (landSignal s l) = logsOf s := by
  unfold landSignal; simp only []; (repeat' split) <;> simp_all
@[simp] theorem landingGone_logsOf (s : State) (site : Nat) (w : Nat) : logsOf (landingGone s site w) = logsOf s := by
  simp [landingGone]
@[simp] theorem windowLanded_logsOf (s : State) (site : Nat) (w : Nat) : logsOf (windowLanded s site w) = logsOf s := by
  unfold windowLanded; simp only []; (repeat' split) <;> simp_all
@[simp] theorem hdmUnmapped_logsOf (s : State) (write : Bool) : logsOf (hdmUnmapped s write) = logsOf s := by
  simp [hdmUnmapped]
@[simp] theorem setXbar_logsOf (s : State) (site : Nat) (v : Bool) : logsOf (setXbar s site v) = logsOf s := by
  simp [setXbar]
@[simp] theorem xbarRead_logsOf (s : State) (site : Nat) : logsOf (xbarRead s site) = logsOf s := by
  simp [xbarRead]
@[simp] theorem xbarCycle_logsOf (s : State) (read : Nat) (remote : Option (Nat × Word)) (keeper : Option (Nat × Word)) : logsOf (xbarCycle s read remote keeper).2 = logsOf s := by
  simp [xbarCycle]
@[simp] theorem xbarWrite_logsOf (s : State) (site : Nat) (v : Word) : logsOf (xbarWrite s site v) = logsOf s := by
  simp [xbarWrite]
@[simp] theorem zeroAt_logsOf (s : State) (fabric : Bool) (key : Nat) : logsOf (zeroAt s fabric key) = logsOf s := by
  unfold zeroAt; split <;> rfl
@[simp] theorem zeroPage_logsOf (s : State) (fabric : Bool) (place : Nat) (page : Nat) : logsOf (zeroPage s fabric place page) = logsOf s := by
  simp [zeroPage]
@[simp] theorem zeroPte_logsOf (s : State) (e : Pte) : logsOf (zeroPte s e) = logsOf s := by simp [zeroPte]
@[simp] theorem forgetFreed_logsOf (s : State) (id : Nat) : logsOf (forgetFreed s id) = logsOf s := by
  simp [forgetFreed]
@[simp] theorem handPage_logsOf (s : State) (c : Nat) (fabric : Bool) (place : Nat) (page : Nat) : logsOf (handPage s c fabric place page) = logsOf s := by
  simp [handPage]
@[simp] theorem mapPage_logsOf (s : State) (c : Nat) (v : Nat) (mig : Bool) (fabric : Bool) (place : Nat) (page : Nat) (zero : Bool) : logsOf (mapPage s c v mig fabric place page zero) = logsOf s := by
  simp [mapPage]
theorem placePages_logsOf (c : Nat) (base : Nat) (r : AllocRec) (home : List Nat) (total : Nat) (x5 : Nat) (x6 : State) : ∀ out, placePages c base r home total x5 x6 = some out → logsOf out = logsOf x6 := by
  intro out ht
  induction x5 generalizing x6 out with
  | zero => unfold placePages at ht; cases ht; rfl
  | succ n ih =>
    unfold placePages at ht
    simp only [] at ht
    (repeat' split at ht) <;> first | (cases ht; done) | (rw [ih _ _ ht]; simp)
theorem allocate_logsOf (s : State) (c : Nat) (r : AllocRec) : ∀ out e, allocate s c r = .ok (out, e) → logsOf out = logsOf s := by
  intro out e ht; unfold allocate at ht; (repeat' split at ht) <;> grind [modCtx_logsOf, placePages_logsOf]
@[simp] theorem stayDue_logsOf (s : State) (m : Move) : logsOf (stayDue s m) = logsOf s := by
  unfold stayDue; (repeat' split) <;> simp
@[simp] theorem dropMoves_logsOf (s : State) (c : Nat) (inside : Nat → Bool) : logsOf (dropMoves s c inside) = logsOf s := by
  simp [dropMoves]
theorem freeObject_logsOf (s : State) (c : Nat) (base : Nat) : ∀ out, freeObject s c base = some out → logsOf out = logsOf s := by
  intro out ht; unfold freeObject at ht; (repeat' split at ht) <;> grind [dropMoves_logsOf, setCtx_logsOf]
@[simp] theorem foldHeat_logsOf (s : State) (counts : List (Nat × Nat × Nat)) : logsOf (foldHeat s counts) = logsOf s := by
  simp [foldHeat]
@[simp] theorem startMove_logsOf (s : State) (m : Move) : logsOf (startMove s m) = logsOf s := by
  simp [startMove]
@[simp] theorem promote_logsOf (s : State) (c : Nat) (v : Nat) : logsOf (promote s c v) = logsOf s := by
  simp only [promote]; (repeat' split) <;> simp_all
@[simp] theorem promoteAll_logsOf (x0 : List (Nat × Nat)) (x1 : Nat) (x2 : State) : logsOf (promoteAll x0 x1 x2) = logsOf x2 := by
  induction x0 generalizing x1 x2 with
  | nil => rfl
  | cons a l ih =>
    obtain ⟨c, v⟩ := a
    unfold promoteAll
    simp only []
    (repeat' split) <;> simp [ih]
@[simp] theorem retirePage_logsOf (s : State) (k : Nat) (page : Nat) : logsOf (retirePage s k page) = logsOf s := by
  unfold retirePage; simp only []; (repeat' split) <;> simp_all
@[simp] theorem heatEpoch_logsOf (s : State) (counts : List (Nat × Nat × Nat)) : logsOf (heatEpoch s counts) = logsOf s := by
  simp [heatEpoch]
@[simp] theorem copyPage_logsOf (s : State) (e : Pte) (m : Move) : logsOf (copyPage s e m) = logsOf s := by
  simp [copyPage]
@[simp] theorem stayAtSource_logsOf (s : State) (m : Move) : logsOf (stayAtSource s m) = logsOf s := by
  simp [stayAtSource]
@[simp] theorem startFollow_logsOf (s : State) (m : Move) : logsOf (startFollow s m) = logsOf s := by
  simp only [startFollow]; (repeat' split) <;> simp_all
@[simp] theorem flipMove_logsOf (s : State) (e : Pte) (m : Move) : logsOf (flipMove s e m) = logsOf s := by
  simp [flipMove]
@[simp] theorem moveDone_logsOf (s : State) (ok : Bool) : logsOf (moveDone s ok) = logsOf s := by
  unfold moveDone; simp only []; (repeat' split) <;> simp_all
@[simp] theorem stackHit_logsOf (k : Nat) (s : State) (h : ScrubHit) : logsOf (stackHit k s h) = logsOf s := by
  simp [stackHit]
@[simp] theorem coreHit_logsOf (site : Nat) (s : State) (h : ScrubHit) : logsOf (coreHit site s h) = logsOf s := by
  simp [coreHit]
@[simp] theorem scrubHit_logsOf (k : Nat) (s : State) (h : ScrubHit) : logsOf (scrubHit k s h) = logsOf s := by
  simp [scrubHit]
@[simp] theorem stackScrub_logsOf (s : State) (k : Nat) (hits : List ScrubHit) : logsOf (stackScrub s k hits) = logsOf s := by
  simp [stackScrub]
@[simp] theorem onReachPages_logsOf (s : State) (r : Nat) (f : Nat → Nat → Pte → Pte) : logsOf (onReachPages s r f) = logsOf s := by
  simp [onReachPages]
@[simp] theorem abandonMoves_logsOf (s : State) (r : Nat) : logsOf (abandonMoves s r) = logsOf s := by
  simp [abandonMoves]
@[simp] theorem losePages_logsOf (s : State) (r : Nat) : logsOf (losePages s r) = logsOf s := by
  simp [losePages]
@[simp] theorem offlinePages_logsOf (s : State) (r : Nat) : logsOf (offlinePages s r) = logsOf s := by
  simp [offlinePages]
@[simp] theorem residentPages_logsOf (s : State) (r : Nat) : logsOf (residentPages s r) = logsOf s := by
  simp [residentPages]
@[simp] theorem setCommitState_logsOf (s : State) (v : Nat) : logsOf (setCommitState s v) = logsOf s := by
  simp [setCommitState]
@[simp] theorem setArmed_logsOf (s : State) (b : Bool) : logsOf (setArmed s b) = logsOf s := by
  simp [setArmed]
@[simp] theorem setLast_logsOf (s : State) (source : Nat) (code : Nat) : logsOf (setLast s source code) = logsOf s := by
  simp [setLast]
@[simp] theorem refuseCommit_logsOf (s : State) (source : Nat) (code : Nat) : logsOf (refuseCommit s source code) = logsOf s := by
  simp [refuseCommit]
@[simp] theorem trainStore_logsOf (s : State) (a : Nat) (bs : List Byte) : logsOf (trainStore s a bs) = logsOf s := by
  simp only [trainStore]; (repeat' split) <;> simp_all
theorem rangesWait_logsOf (s : State) (rs : List (Nat × Nat × Bool)) : ∀ out, rangesWait s rs = some out → logsOf out = logsOf s := by
  intro out ht; unfold rangesWait at ht; simp only [] at ht; (repeat' split at ht) <;> cases ht <;> simp
@[simp] theorem stainTrain_logsOf (s : State) (a : Nat) (granules : List Nat) : logsOf (stainTrain s a granules) = logsOf s := by
  unfold stainTrain; exact foldl_logsOf _ (fun s g => by split <;> simp) _ _
@[simp] theorem stepArm_logsOf (s : State) : logsOf (stepArm s) = logsOf s := by
  simp [stepArm]
@[simp] theorem stepDisarm_logsOf (s : State) : logsOf (stepDisarm s) = logsOf s := by
  simp [stepDisarm]
@[simp] theorem restartFeeders_logsOf (s : State) : logsOf (restartFeeders s) = logsOf s := by
  simp [restartFeeders]
@[simp] theorem prefetch_logsOf (s : State) (l : Loaded) (p : Nat) : logsOf (prefetch s l p) = logsOf s := by
  simp [prefetch]
@[simp] theorem clobberCore_logsOf (s : State) (u : Issue) : logsOf (clobberCore s u) = logsOf s := by
  simp [clobberCore]
@[simp] theorem markedCheck_logsOf (s : State) : logsOf (markedCheck s) = logsOf s := by
  unfold markedCheck
  split
  · rfl
  · simp only []
    rw [foldl_logsOf _ (fun s k => by (repeat' split) <;> simp)]
    rfl
@[simp] theorem stepConstants_logsOf (s : State) (l : Loaded) : logsOf (stepConstants s l) = logsOf s := by
  simp [stepConstants]
@[simp] theorem latchStep_logsOf (s : State) (c : Nat) (r : StepRec) : logsOf (latchStep s c r) = logsOf s := by
  unfold latchStep; simp only []; (repeat' split) <;> simp_all
@[simp] theorem beginCore_logsOf (s : State) (u : Issue) (step : Word) : logsOf (beginCore s u step) = logsOf s := by
  simp [beginCore]
@[simp] theorem stepBeginBody_logsOf  (hdr : Hdr) (st : State) (iss : Issue) : logsOf (stepBeginBody hdr st iss).1 = logsOf st := by
  have hb : logsOf (beginStep hdr st iss).1 = logsOf st := by
    unfold beginStep
    simp only []
    split
    · simp
    · split
      · rename_i t ht
        split at ht
        · exact rangesWait_logsOf _ _ _ ht
        · cases ht
      · simp
  unfold stepBeginBody
  simp only []
  split
  · split
    · simp
    · exact hb
  · exact hb
@[simp] theorem discardLayer_logsOf (s : State) (c : Nat) (l : Loaded) (layer : Nat) (dir : Nat) : logsOf (discardLayer s c l layer dir) = logsOf s := by
  unfold discardLayer
  simp only []
  rw [logsOf_mk, logsOf_fold, foldl_logsOf]
  intro s k; (repeat' split) <;> simp
@[simp] theorem resultNorm_logsOf (s : State) (r : StepRec) : logsOf (resultNorm s r).2.2 = logsOf s := by
  unfold resultNorm; simp only []; (repeat' split) <;> simp_all
@[simp] theorem haltContext_logsOf (s : State) (c : Nat) : logsOf (haltContext s c) = logsOf s := by
  simp [haltContext]
@[simp] theorem drainRing_logsOf (s : State) (p : Nat) : logsOf (drainRing s p) = logsOf s := by
  simp [drainRing]
@[simp] theorem flipGeneration_logsOf (s : State) : logsOf (flipGeneration s) = logsOf s := by
  simp [flipGeneration]
@[simp] theorem foulGradient_logsOf (s : State) (reach : Nat) (page : Nat) (mark : Word) (bad : Nat) (sats : Nat) : logsOf (foulGradient s reach page mark bad sats) = logsOf s := by
  simp [foulGradient]
@[simp] theorem placeNode_logsOf (s : State) (p : Nat) (w : Nat) (n : Node) : logsOf (placeNode s p w n) = logsOf s := by
  simp [placeNode]
theorem operandsLost_logsOf (s : State) (p : Nat) (w : Nat) (ns : List Node) (dst : Nat) : ∀ out, operandsLost s p w ns dst = some out → logsOf out = logsOf s := by
  intro out ht; unfold operandsLost at ht; simp only [] at ht; split at ht
  · cases ht
  · cases ht; exact foldl_logsOf _ (fun s x => by simp) _ _
@[simp] theorem combineNodes_logsOf (s : State) (p : Nat) (level : Nat) (index : Nat) : logsOf (combineNodes s p level index) = logsOf s := by
  unfold combineNodes; simp only []
  (repeat' split) <;> first | (exact operandsLost_logsOf _ _ _ _ _ _ ‹_›) | simp
@[simp] theorem gradEmitBody_logsOf (o : GradOps) (hdr : Hdr) (st : State) (iss : Issue) : logsOf (gradEmitBody o hdr st iss).1 = logsOf st := by
  unfold gradEmitBody; simp only []; (repeat' split) <;> simp_all
@[simp] theorem buildServe_logsOf (s : State) (l : Loaded) (g : Nat) (u : Nat) (p : Param) : logsOf (buildServe s l g u p) = logsOf s := by
  unfold buildServe; simp only []; (repeat' split) <;> simp_all
@[simp] theorem advanceRing_logsOf (s : State) (p : Nat) : logsOf (advanceRing s p) = logsOf s := by
  simp [advanceRing]
@[simp] theorem unexpected_logsOf (s : State) (p : Nat) (mark : Word) : logsOf (unexpected s p mark) = logsOf s := by
  simp [unexpected]
@[simp] theorem gradChunk_logsOf (s : State) (m : Tow) : logsOf (gradChunk s m) = logsOf s := by
  simp [gradChunk]
@[simp] theorem handPress_logsOf (s : State) (p : Nat) (c : Chunk) : logsOf (handPress s p c) = logsOf s := by
  simp [handPress]
@[simp] theorem sendChunk_logsOf (s : State) (p : Nat) (c : Chunk) : logsOf (sendChunk s p c) = logsOf s := by
  simp [sendChunk]
@[simp] theorem ringAdd_logsOf (s : State) (p : Nat) : logsOf (ringAdd s p) = logsOf s := by
  have hg : ∀ s, logsOf (ringAdd.goes s p) = logsOf s := by
    intro s
    unfold ringAdd.goes
    simp only []
    (repeat' split) <;> simp
  unfold ringAdd
  (repeat' split) <;> simp [hg]
@[simp] theorem ringCredit_logsOf (s : State) (p : Nat) (n : Nat) : logsOf (ringCredit s p n) = logsOf s := by
  simp [ringCredit]
@[simp] theorem mangleChunk_logsOf (s : State) (p : Nat) : logsOf (mangleChunk s p) = logsOf s := by
  unfold mangleChunk
  extract_lets w q replay running alone
  clear_value w q replay running
  split
  · rfl
  · split
    · rfl
    · extract_lets ns
      split
      · rfl
      · split
        · exact operandsLost_logsOf _ _ _ _ _ _ ‹_›
        · rename_i r src c s1 s2 s3 src' _ _ _
          have h3 : logsOf s3 = logsOf s := by simp [s3, s2, s1]
          clear_value src' s3
          split
          · exact h3
          · simp only []; (repeat' split) <;> simp [h3]
@[simp] theorem releaseChunk_logsOf (s : State) (p : Nat) (c : Chunk) : logsOf (releaseChunk s p c) = logsOf s := by
  simp [releaseChunk]
@[simp] theorem tileApplied_logsOf (s : State) (p : Nat) (l : Loaded) (u : Nat) (t : Param) : logsOf (tileApplied s p l u t) = logsOf s := by
  simp [tileApplied]
@[simp] theorem storeSums_logsOf (s : State) (l : Loaded) (u : Nat) (j : Nat) (b : PressBlock) : logsOf (storeSums s l u j b) = logsOf s := by
  simp [storeSums]
@[simp] theorem applyChunk_logsOf (s : State) (p : Nat) (c : Chunk) (l : Loaded) (u : Nat) (t : Param) (r : StepRec) (x : Ctx) : logsOf (applyChunk s p c l u t r x) = logsOf s := by
  simp [applyChunk]
@[simp] theorem pressApply_logsOf (s : State) (p : Nat) : logsOf (pressApply s p) = logsOf s := by
  simp only [pressApply]; (repeat' split) <;> simp_all
@[simp] theorem groupChainEnd_logsOf (s : State) (g : Nat) : logsOf (groupChainEnd s g) = logsOf s := by
  unfold groupChainEnd; simp only []; (repeat' split) <;> simp_all
@[simp] theorem skipChunks_logsOf (s : State) (l : Loaded) (layer : Nat) (mark : Word) : logsOf (skipChunks s l layer mark) = logsOf s := by
  unfold skipChunks
  apply foldl_logsOf
  intro s k
  rw [modPort_logsOf]
@[simp] theorem skipLayer_logsOf (s : State) (u : Issue) (l : Loaded) (layer : Nat) (dir : Nat) (mark : Word) : logsOf (skipLayer s u l layer dir mark) = logsOf s := by
  simp [skipLayer]
@[simp] theorem layerBody_logsOf (id : BitVec 16) (direction : Byte) (hdr : Hdr) (st : State) (iss : Issue) : logsOf (layerBody id direction hdr st iss).1 = logsOf st := by
  unfold layerBody; simp only []; (repeat' split) <;> simp_all
@[simp] theorem tagLast_logsOf (s : State) (tag : Nat) : logsOf (tagLast s tag) = logsOf s := by
  simp [tagLast]
@[simp] theorem feederFetch_logsOf (s : State) (p : Nat) : logsOf (feederFetch s p) = logsOf s := by
  unfold feederFetch; simp only []; (repeat' split) <;> simp_all
@[simp] theorem serveTile_logsOf (s : State) (l : Loaded) (m : Tow) (u : Nat) (t : Param) (i : Nat) : logsOf (serveTile s l m u t i) = logsOf s := by
  simp [serveTile]
@[simp] theorem refuseRequest_logsOf (s : State) (m : Tow) : logsOf (refuseRequest s m) = logsOf s := by
  simp [refuseRequest]
@[simp] theorem answerRequest_logsOf (s : State) (m : Tow) : logsOf (answerRequest s m) = logsOf s := by
  unfold answerRequest; simp only []; (repeat' split) <;> simp_all
@[simp] theorem weightRequest_logsOf (s : State) (m : Tow) : logsOf (weightRequest s m) = logsOf s := by
  simp [weightRequest]
@[simp] theorem serveHeld_logsOf (s : State) : logsOf (serveHeld s) = logsOf s := by
  simp [serveHeld]
@[simp] theorem weightData_logsOf (s : State) (m : Tow) : logsOf (weightData s m) = logsOf s := by
  unfold weightData; (repeat' split) <;> grind [completeTow_logsOf, modPort_logsOf, receiveTow_logsOf]
@[simp] theorem landTile_logsOf (s : State) (c : Nat) (f : Fetch) (site : Nat) : logsOf (landTile s c f site) = logsOf s := by
  simp [landTile]
@[simp] theorem weightMulticast_logsOf (s : State) (p : Nat) (late : Nat) : logsOf (weightMulticast s p late) = logsOf s := by
  unfold weightMulticast; simp only []; (repeat' split) <;> simp_all
@[simp] theorem multicastAck_logsOf (s : State) (group : Nat) (source : Nat) (mask : Nat) : logsOf (multicastAck s group source mask) = logsOf s := by
  unfold multicastAck; simp only []; (repeat' split) <;> simp_all
@[simp] theorem setSecSlot_logsOf (s : State) (e : Nat) (x : SecureSlot) : logsOf (setSecSlot s e x) = logsOf s := by
  simp [setSecSlot]
@[simp] theorem writeHeaders_logsOf (s : State) (l : Loaded) (e : Nat) : logsOf (writeHeaders s l e) = logsOf s := by
  simp [writeHeaders]
theorem allocPart_logsOf (s : State) (n : Nat) : ∀ out e, allocPart s n = some (out, e) → logsOf out = logsOf s := by
  intro out e ht; unfold allocPart at ht; (repeat' split at ht) <;> grind [allocate_logsOf]
theorem allocSlot_logsOf (s : State) (l : Loaded) (x : SecureSlot) : ∀ out e, allocSlot s l x = some (out, e) → logsOf out = logsOf s := by
  intro out e ht
  unfold allocSlot at ht
  simp only [] at ht
  have back : ∀ (s : State) (part a size : Nat) (m : Mem), logsOf (match ctxAt s (trainCtx s) with
    | some c => stainTrain (if m = [] then s else ctxSplice s (trainCtx s) c a size m false) a ((x.keptStains.filter (fun g => decide (g.1 = part))).map (·.2))
    | none => s) = logsOf s := by intro s part a size m; (repeat' split) <;> simp
  split at ht
  · cases ht
  · rename_i s1 a1 h1
    split at ht
    · cases ht
    · rename_i s2 a2 h2
      split at ht
      · cases ht
      · rename_i s3 a3 h3
        simp only [Option.some.injEq, Prod.mk.injEq] at ht
        obtain ⟨rfl, _⟩ := ht
        have e1 := allocPart_logsOf _ _ _ _ h1
        have e2 : logsOf s2 = logsOf s1 := by
          split at h2
          · cases h2; rfl
          · exact allocPart_logsOf _ _ _ _ h2
        have e3 : logsOf s3 = logsOf s2 := by
          split at h3
          · cases h3; rfl
          · exact allocPart_logsOf _ _ _ _ h3
        refine (?_ : _ = logsOf s3).trans (e3.trans (e2.trans e1))
        refine Eq.trans (back _ _ _ _ _) (Eq.trans (back _ _ _ _ _) (back _ _ _ _ _))
@[simp] theorem openSecureWindow_logsOf (s : State) (l : Loaded) (x : SecureSlot) (w : Nat) (sender : Nat) (parity : Bool) : logsOf (openSecureWindow s l x w sender parity) = logsOf s := by
  unfold openSecureWindow; simp only []; (repeat' split) <;> simp_all
@[simp] theorem openSecureWindows_logsOf (s : State) (l : Loaded) (x : SecureSlot) (full : Bool) : logsOf (openSecureWindows s l x full) = logsOf s := by
  unfold openSecureWindows
  simp only []
  rw [foldl_logsOf _ (fun s w => openSecureWindow_logsOf _ _ _ _ _ _)]
  (repeat' split) <;> simp
theorem setUpSecure_logsOf (s : State) (l : Loaded) : ∀ out, setUpSecure s l = some out → logsOf out = logsOf s := by
  intro out ht
  unfold setUpSecure at ht
  simp only [] at ht
  simp only [Option.ite_none_left_eq_some] at ht
  obtain ⟨_, ht⟩ := ht
  split at ht
  · simp at ht
  · rename_i s1 x h1
    split at ht
    · simp at ht
    · rename_i s2 y h2
      simp only [Option.some.injEq] at ht
      subst ht
      rw [openSecureWindows_logsOf, logsOf_mk, logsOf_fold, allocSlot_logsOf _ _ _ _ _ h2, allocSlot_logsOf _ _ _ _ _ h1]
@[simp] theorem keepSecure_logsOf (s : State) (c : Nat) : logsOf (keepSecure s c) = logsOf s := by
  unfold keepSecure; simp only []; (repeat' split) <;> simp_all
@[simp] theorem setSecureState_logsOf (s : State) (round : Nat) (slot : Nat) (phase : Nat) : logsOf (setSecureState s round slot phase) = logsOf s := by
  simp [setSecureState]
@[simp] theorem sendPiece_logsOf (s : State) (typ : Nat) (dst : Nat) (w : Nat) (groups : Nat) (port : Nat) (offset : Nat) (block : Nat) (genStep : Nat) (data : List Byte) (poison : Bool) : logsOf (sendPiece s typ dst w groups port offset block genStep data poison) = logsOf s := by
  simp [sendPiece]
@[simp] theorem sendPieces_logsOf (s : State) (typ : Nat) (dst : Nat) (w : Nat) (groups : Nat) (port : Nat) (offset : Nat) (block : Nat) (genStep : Nat) (data : List Byte) (poison : Bool) : logsOf (sendPieces s typ dst w groups port offset block genStep data poison) = logsOf s := by
  simp [sendPieces]
@[simp] theorem sendBlock_logsOf (l : Loaded) (x : SecureSlot) (full : Bool) (parity : Bool) (dst : Nat) (w : Nat) (groups : Nat) (s : State) (b : SecBlock) : logsOf (sendBlock l x full parity dst w groups s b) = logsOf s := by
  unfold sendBlock; simp only []; (repeat' split) <;> simp_all
@[simp] theorem sendPart_logsOf (s : State) (parity : Bool) : logsOf (sendPart s parity) = logsOf s := by
  unfold sendPart; simp only []
  (repeat' split) <;> first | (exact rangesWait_logsOf _ _ _ ‹_›) | simp
@[simp] theorem sendParts_logsOf (s : State) : logsOf (sendParts s) = logsOf s := by
  simp [sendParts]
@[simp] theorem secureStart_logsOf (s : State) (full : Bool) : logsOf (secureStart s full) = logsOf s := by
  unfold secureStart; simp only []; (repeat' split) <;> simp_all
@[simp] theorem secureSent_logsOf (s : State) : logsOf (secureSent s) = logsOf s := by
  unfold secureSent; simp only []; (repeat' split) <;> simp_all
@[simp] theorem closeSecureWindows_logsOf (s : State) : logsOf (closeSecureWindows s) = logsOf s := by
  simp only [closeSecureWindows]; (repeat' split) <;> simp_all
@[simp] theorem secureSeal_logsOf (s : State) : logsOf (secureSeal s) = logsOf s := by
  unfold secureSeal; simp only []; (repeat' split) <;> simp_all
@[simp] theorem abandonRound_logsOf (s : State) : logsOf (abandonRound s) = logsOf s := by
  unfold abandonRound; simp only []; (repeat' split) <;> simp_all
@[simp] theorem secureWrite_logsOf (s : State) (typ : Nat) (m : Tow) : logsOf (secureWrite s typ m) = logsOf s := by
  unfold secureWrite; (repeat' split) <;> grind [acceptWrite_logsOf, dropPacket_logsOf, emit_logsOf, receiveTow_logsOf, refuseAccess_logsOf, windowDropped_logsOf]
@[simp] theorem windowOpenNotice_logsOf (s : State) (m : Tow) : logsOf (windowOpenNotice s m) = logsOf s := by
  simp [windowOpenNotice]
@[simp] theorem windowCloseNotice_logsOf (s : State) (m : Tow) : logsOf (windowCloseNotice s m) = logsOf s := by
  simp [windowCloseNotice]
@[simp] theorem sendVote_logsOf (s : State) : logsOf (sendVote s) = logsOf s := by
  simp [sendVote]
@[simp] theorem secureDue_logsOf (s : State) : logsOf (secureDue s) = logsOf s := by
  unfold secureDue; simp only []; (repeat' split) <;> simp_all
@[simp] theorem writeVerify_logsOf (s : State) (before : Nat) : logsOf (writeVerify s before) = logsOf s := by
  unfold writeVerify; simp only []; (repeat' split) <;> simp_all
@[simp] theorem takeWithheld_logsOf (s : State) : logsOf (takeWithheld s) = logsOf s := by
  simp only [takeWithheld]; (repeat' split) <;> simp_all
@[simp] theorem digestTo_logsOf (s : State) (dst : Nat) (kind : Nat) (subject : Nat) (step : Word) : logsOf (digestTo s dst kind subject step) = logsOf s := by
  simp [digestTo]
@[simp] theorem failReplay_logsOf (s : State) : logsOf (failReplay s) = logsOf s := by
  simp [failReplay]
@[simp] theorem judgeCore_logsOf (s : State) (l : Loaded) (k : Nat) (lambda : F32) : logsOf (judgeCore s l k lambda) = logsOf s := by
  unfold judgeCore; simp only []; (repeat' split) <;> simp_all
@[simp] theorem judgeLag_logsOf (s : State) (l : Loaded) (busy : List Nat) : logsOf (judgeLag s l busy) = logsOf s := by
  simp [judgeLag]
@[simp] theorem voteTimeout_logsOf (s : State) : logsOf (voteTimeout s) = logsOf s := by
  simp [voteTimeout]
@[simp] theorem markModule_logsOf (s : State) (suspect : Nat) : logsOf (markModule s suspect) = logsOf s := by
  simp [markModule]
@[simp] theorem sendResolution_logsOf (s : State) (step : Word) (discard : Bool) (suspect : Nat) : logsOf (sendResolution s step discard suspect) = logsOf s := by
  simp [sendResolution]
@[simp] theorem replayRequest_logsOf (s : State) (m : Tow) : logsOf (replayRequest s m) = logsOf s := by
  simp [replayRequest]
@[simp] theorem compareVerify_logsOf (s : State) (d : BitVec 256) : logsOf (compareVerify s d) = logsOf s := by
  simp [compareVerify]
@[simp] theorem comparePair_logsOf (s : State) (subject : Nat) : logsOf (comparePair s subject) = logsOf s := by
  simp only [comparePair]; (repeat' split) <;> simp_all
@[simp] theorem digestMessage_logsOf (s : State) (m : Tow) : logsOf (digestMessage s m) = logsOf s := by
  simp [digestMessage]
@[simp] theorem primed_logsOf (s : State) (l : Loaded) : logsOf (primed s l) = logsOf s := by
  simp [primed]
@[simp] theorem prime_logsOf (s : State) : logsOf (prime s) = logsOf s := by
  unfold prime; (repeat' split) <;> grind [consumeStain_logsOf, primed_logsOf, refuseCommit_logsOf, setLast_logsOf, setUpSecure_logsOf, rangesWait_logsOf, logsOf_mk, logsOf_fold]
@[simp] theorem takePegId_logsOf (s : State) (r : PegReq) : logsOf (takePegId s r).2 = logsOf s := by
  simp only [takePegId]; (repeat' split) <;> simp_all
@[simp] theorem missPeg_logsOf (s : State) (r : PegReq) : logsOf (missPeg s r) = logsOf s := by
  simp [missPeg]
@[simp] theorem raisePeg_logsOf (s : State) (source : Nat) (remote : Option (Nat × Nat × Dword × Nat)) : logsOf (raisePeg s source remote) = logsOf s := by
  simp [raisePeg]
@[simp] theorem snapshotPage_logsOf (s : State) (id : Nat) (r : Nat) (p : Nat) : logsOf (snapshotPage s id r p) = logsOf s := by
  simp [snapshotPage]
@[simp] theorem snapshotAll_logsOf (s : State) (id : Nat) : logsOf (snapshotAll s id) = logsOf s := by
  simp [snapshotAll]
@[simp] theorem pegLatch_logsOf (s : State) : logsOf (pegLatch s) = logsOf s := by
  unfold pegLatch; simp only []; (repeat' split) <;> simp_all
@[simp] theorem releasePegs_logsOf (s : State) : logsOf (releasePegs s) = logsOf s := by
  simp [releasePegs]
@[simp] theorem pegMessage_logsOf (s : State) (m : Tow) : logsOf (pegMessage s m) = logsOf s := by
  simp [pegMessage]
@[simp] theorem enablePort_logsOf (s : State) (p : Nat) : logsOf (enablePort s p) = logsOf s := by
  simp [enablePort]
@[simp] theorem sendBarrier_logsOf (s : State) (p : Nat) (id : Nat) (r : Nat) : logsOf (sendBarrier s p id r) = logsOf s := by
  simp [sendBarrier]
@[simp] theorem runBarrier_logsOf (p : Nat) (id : Nat) (x2 : Nat) (x3 : Nat) (x4 : State) : logsOf (runBarrier p id x2 x3 x4) = logsOf x4 := by
  induction x2 generalizing x3 x4 with
  | zero => rfl
  | succ n ih => unfold runBarrier; (repeat' split) <;> simp [ih]
@[simp] theorem startBarrier_logsOf (s : State) (p : Nat) (id : Nat) : logsOf (startBarrier s p id) = logsOf s := by
  simp [startBarrier]
@[simp] theorem barrierMessage_logsOf (s : State) (m : Tow) : logsOf (barrierMessage s m) = logsOf s := by
  simp [barrierMessage]
@[simp] theorem refusalRecord_logsOf (s : State) (p : Nat) (code : Nat) (tag : Nat) (mark : Word) (addr : Nat) : logsOf (refusalRecord s p code tag mark addr) = logsOf s := by
  simp [refusalRecord]
@[simp] theorem peerAbort_logsOf (s : State) (p : Nat) (mark : Word) : logsOf (peerAbort s p mark) = logsOf s := by
  simp [peerAbort]
@[simp] theorem writeRing_logsOf (s : State) (f : FaultRec) : logsOf (writeRing s f) = logsOf s := by
  unfold writeRing; simp only []; (repeat' split) <;> simp_all
@[simp] theorem deliver_logsOf (s : State) (f : FaultRec) : logsOf (deliver s f) = logsOf s := by
  simp [deliver]
@[simp] theorem deliverHeld_logsOf (s : State) : logsOf (deliverHeld s) = logsOf s := by
  simp [deliverHeld]
@[simp] theorem countRisk_logsOf (s : State) (code : Nat) : logsOf (countRisk s code) = logsOf s := by
  unfold countRisk; simp only []; (repeat' split) <;> simp_all
@[simp] theorem riskTick_logsOf (s : State) : logsOf (riskTick s) = logsOf s := by
  unfold riskTick; simp only []; (repeat' split) <;> simp_all
@[simp] theorem sendPending_logsOf (s : State) : logsOf (sendPending s) = logsOf s := by
  simp [sendPending]
@[simp] theorem unmask_logsOf (s : State) (w : MsixWrite) : logsOf (unmask s w) = logsOf s := by
  unfold unmask; (repeat' split) <;> simp
@[simp] theorem hdmEnable_logsOf (s : State) : logsOf (hdmEnable s) = logsOf s := by
  simp [hdmEnable]
@[simp] theorem hdmDisable_logsOf (s : State) : logsOf (hdmDisable s) = logsOf s := by
  simp [hdmDisable]
@[simp] theorem h0Trained_logsOf (s : State) (width : Nat) (speed64 : Bool) (flit256 : Bool) (ide : Bool) : logsOf (h0Trained s width speed64 flit256 ide) = logsOf s := by
  simp [h0Trained]
@[simp] theorem setArb_logsOf (s : State) (r : Nat) (p : Nat) (a : Arb) : logsOf (setArb s r p a) = logsOf s := by
  simp [setArb]
@[simp] theorem showMasks_logsOf (s : State) (r : Nat) (p : Nat) : logsOf (showMasks s r p) = logsOf s := by
  simp [showMasks]
@[simp] theorem arbiterWithdrawal_logsOf (s : State) (r : Nat) (p : Nat) : logsOf (arbiterWithdrawal s r p) = logsOf s := by
  unfold arbiterWithdrawal; simp only []; (repeat' split) <;> simp_all
@[simp] theorem windowWrap_logsOf (s : State) (r : Nat) (p : Nat) : logsOf (windowWrap s r p) = logsOf s := by
  unfold windowWrap; simp only []; (repeat' split) <;> simp_all
@[simp] theorem arbTransfer_logsOf (s : State) (r : Nat) (p : Nat) (w : Nat) (feeds : List (Nat × Nat)) : logsOf (arbTransfer s r p w feeds) = logsOf s := by
  simp [arbTransfer]
@[simp] theorem arbiterGrant_logsOf (s : State) (r : Nat) (p : Nat) (a : ArbIn) : logsOf (arbiterGrant s r p a) = logsOf s := by
  unfold arbiterGrant; simp only []; (repeat' split) <;> simp_all
@[simp] theorem markDirty_logsOf (s : State) : logsOf (markDirty s) = logsOf s := by
  simp [markDirty]
@[simp] theorem abortPartial_logsOf (s : State) (r : Nat) (d : Nat) : logsOf (abortPartial s r d) = logsOf s := by
  unfold abortPartial; simp only []; (repeat' split) <;> simp
@[simp] theorem meshLinkDown_logsOf (s : State) (r : Nat) (d : Nat) : logsOf (meshLinkDown s r d) = logsOf s := by
  unfold meshLinkDown; simp only []; (repeat' split) <;> simp_all
@[simp] theorem linkRetry_logsOf (s : State) (r : Nat) (d : Nat) (seq : Nat) : logsOf (linkRetry s r d seq) = logsOf s := by
  simp [linkRetry]
@[simp] theorem elasticSlip_logsOf (s : State) (r : Nat) (d : Nat) : logsOf (elasticSlip s r d) = logsOf s := by
  unfold elasticSlip; simp only []; (repeat' split) <;> simp
@[simp] theorem setHold_logsOf (s : State) (v : Nat) : logsOf (setHold s v) = logsOf s := by
  simp [setHold]
@[simp] theorem rebuildStart_logsOf (s : State) : logsOf (rebuildStart s) = logsOf s := by
  simp [rebuildStart]
@[simp] theorem commitMesh_logsOf (s : State) (r : Nat) (o : Nat) (v : Nat) : logsOf (commitMesh s r o v) = logsOf s := by
  simp [commitMesh]
@[simp] theorem keeperTables_logsOf (s : State) : logsOf (keeperTables s) = logsOf s := by
  unfold keeperTables
  simp only []
  exact foldl_logsOf _ (fun s r => by
    rw [foldl_logsOf _ (fun s g => commitMesh_logsOf _ _ _ _), foldl_logsOf _ (fun s d => commitMesh_logsOf _ _ _ _)]; simp) _ _
@[simp] theorem revokeStream_logsOf (s : State) (site : Nat) (d : Nat) : logsOf (revokeStream s site d) = logsOf s := by
  simp [revokeStream]
@[simp] theorem remakeStreams_logsOf (s : State) : logsOf (remakeStreams s) = logsOf s := by
  simp [remakeStreams]
@[simp] theorem hostTable_logsOf (s : State) (r : Nat) : logsOf (hostTable s r) = logsOf s := by
  simp only [hostTable]; (repeat' split) <;> simp_all
@[simp] theorem dropReach_logsOf (s : State) (r : Nat) (planned : Bool) : logsOf (dropReach s r planned) = logsOf s := by
  unfold dropReach
  simp only []
  rw [foldl_logsOf]
  · rw [logsOf_mk, logsOf_fold]
    split
    · split <;> simp
    · rw [foldl_logsOf _ (fun s l => by split <;> simp)]
      split <;> simp
  · intro s k; split <;> simp
@[simp] theorem markOff_logsOf (s : State) (r : Nat) (cause : Nat) : logsOf (markOff s r cause) = logsOf s := by
  simp [markOff]
@[simp] theorem plannedNotices_logsOf (s : State) (r : Nat) : logsOf (plannedNotices s r) = logsOf s := by
  simp [plannedNotices]
@[simp] theorem revokeOffline_logsOf (s : State) : logsOf (revokeOffline s) = logsOf s := by
  simp [revokeOffline]
@[simp] theorem clockLoss_logsOf (s : State) (r : Nat) (d : Nat) : logsOf (clockLoss s r d) = logsOf s := by
  simp [clockLoss]
@[simp] theorem resetPages_logsOf (s : State) (r : Nat) : logsOf (resetPages s r) = logsOf s := by
  simp [resetPages]
@[simp] theorem trainLinks_logsOf (s : State) (r : Nat) : logsOf (trainLinks s r) = logsOf s := by
  simp [trainLinks]
@[simp] theorem bringUp_logsOf (s : State) (r : Nat) : logsOf (bringUp s r) = logsOf s := by
  simp [bringUp]
@[simp] theorem setTemp_logsOf (s : State) (r : Nat) (t : Int) : logsOf (setTemp s r t) = logsOf s := by
  simp [setTemp]
@[simp] theorem setThermalN_logsOf (s : State) (r : Nat) (n : Nat) (cool : Nat) : logsOf (setThermalN s r n cool) = logsOf s := by
  simp [setThermalN]
@[simp] theorem setPowerN_logsOf (s : State) (r : Nat) (n : Nat) : logsOf (setPowerN s r n) = logsOf s := by
  simp [setPowerN]
@[simp] theorem powerStep_logsOf (s : State) (g : GovIn) : logsOf (powerStep s g) = logsOf s := by
  unfold powerStep; simp only []; (repeat' split) <;> simp_all
@[simp] theorem writeN_logsOf (s : State) (r : Nat) : logsOf (writeN s r) = logsOf s := by
  simp [writeN]
@[simp] theorem moduleReadings_logsOf (s : State) (g : GovIn) : logsOf (moduleReadings s g) = logsOf s := by
  simp [moduleReadings]
@[simp] theorem overcurrent_logsOf (s : State) : logsOf (overcurrent s) = logsOf s := by
  simp [overcurrent]
@[simp] theorem coolant_logsOf (s : State) (flow : Nat) (inlet : Int) : logsOf (coolant s flow inlet) = logsOf s := by
  simp [coolant]
@[simp] theorem setPhase_logsOf (s : State) (p : Nat) : logsOf (setPhase s p) = logsOf s := by
  simp [setPhase]
@[simp] theorem startRom_logsOf (s : State) : logsOf (startRom s) = logsOf s := by
  simp [startRom]
@[simp] theorem imageVerify_logsOf (s : State) : logsOf (imageVerify s) = logsOf s := by
  unfold imageVerify; simp only []; (repeat' split) <;> simp_all
@[simp] theorem readStack_logsOf (s : State) (k : Nat) : logsOf (readStack s k) = logsOf s := by
  simp [readStack]
@[simp] theorem waveReach_logsOf (s : State) (r : Nat) : logsOf (waveReach s r) = logsOf s := by
  simp [waveReach]
@[simp] theorem waveUp_logsOf (s : State) : logsOf (waveUp s) = logsOf s := by
  simp [waveUp]
@[simp] theorem numberCores_logsOf (s : State) : logsOf (numberCores s) = logsOf s := by
  simp [numberCores]
@[simp] theorem bootReady_logsOf (s : State) (failed : List Nat) : logsOf (bootReady s failed) = logsOf s := by
  simp [bootReady]
@[simp] theorem startLoad_logsOf (s : State) (region : Nat) (i : Nat) : logsOf (startLoad s region i) = logsOf s := by
  simp [startLoad]
@[simp] theorem dataNext_logsOf (s : State) : logsOf (dataNext s) = logsOf s := by
  simp [dataNext]
@[simp] theorem loadDone_logsOf (s : State) : logsOf (loadDone s) = logsOf s := by
  unfold loadDone; simp only []; (repeat' split) <;> simp_all
@[simp] theorem mbAnswer_logsOf (s : State) (code : Nat) (tag : Dword) (status : Nat) (payload : List Byte) : logsOf (mbAnswer s code tag status payload) = logsOf s := by
  simp [mbAnswer]
@[simp] theorem mbRefuse_logsOf (s : State) (code : Nat) (tag : Dword) (c : Option Nat) (fault : Nat) : logsOf (mbRefuse s code tag c fault) = logsOf s := by
  simp [mbRefuse]
@[simp] theorem mailbox_logsOf (s : State) (code : Nat) (r : Req) (f : State → List Byte → Option State) (hf : ∀ s l t, f s l = some t → logsOf t = logsOf s) : logsOf (mailbox s code r f) = logsOf s := by
  unfold mailbox; (repeat' split) <;> grind [mbRefuse_logsOf, mbAnswer_logsOf]
@[simp] theorem mbClear_logsOf (s : State) : logsOf (mbClear s) = logsOf s := by
  simp [mbClear]
theorem takeImage_logsOf (s : State) : ∀ out, takeImage s = .ok out → logsOf out = logsOf s := by
  intro out ht
  unfold takeImage at ht
  simp only [] at ht
  split at ht
  · cases ht; simp
  · split at ht <;> cases ht; simp
@[simp] theorem dropImage_logsOf (s : State) (f : Nat × Nat) : logsOf (dropImage s f) = logsOf s := by
  simp [dropImage]
theorem imagePush_logsOf (r : Req) (s : State) (p : List Byte) : ∀ out, imagePush r s p = some out → logsOf out = logsOf s := by
  intro out ht
  unfold imagePush at ht
  simp only [] at ht
  split at ht
  · cases ht
  · split at ht
    · cases ht; simp
    · split at ht
      · rename_i t h1; cases ht; simp [takeImage_logsOf _ _ h1]
      · cases ht; simp
theorem identityRead_logsOf (r : Req) (s : State) (p : List Byte) : ∀ out, identityRead r s p = some out → logsOf out = logsOf s := by
  intro out ht; unfold identityRead at ht; (repeat' split at ht) <;> grind [mbAnswer_logsOf]
theorem tallyRead_logsOf (r : Req) (s : State) (p : List Byte) : ∀ out, tallyRead r s p = some out → logsOf out = logsOf s := by
  intro out ht; unfold tallyRead at ht; split at ht
  · cases ht
  · simp only [Option.map_eq_some_iff] at ht; obtain ⟨b, _, rfl⟩ := ht; simp
theorem contextCreate_logsOf (r : Req) (s : State) (p : List Byte) : ∀ out, contextCreate r s p = some out → logsOf out = logsOf s := by
  intro out ht; unfold contextCreate at ht; (repeat' split at ht) <;> grind [mbAnswer_logsOf, mbRefuse_logsOf, setCtx_logsOf]
theorem contextEnd_logsOf (r : Req) (s : State) (p : List Byte) : ∀ out, contextEnd r s p = some out → logsOf out = logsOf s := by
  intro out ht; unfold contextEnd at ht; simp only [] at ht; split at ht
  · cases ht
  · cases ht; simp
@[simp] theorem zeroRegion_logsOf (s : State) (x : Ctx) : logsOf (zeroRegion s x) = logsOf s := by
  simp [zeroRegion]
@[simp] theorem contextReleased_logsOf (s : State) (c : Nat) : logsOf (contextReleased s c) = logsOf s := by
  unfold contextReleased; simp only []; (repeat' split) <;> simp_all
theorem allocRequest_logsOf (r : Req) (s : State) (p : List Byte) : ∀ out, allocRequest r s p = some out → logsOf out = logsOf s := by
  intro out ht; unfold allocRequest at ht; (repeat' split at ht) <;> grind [allocate_logsOf, mbAnswer_logsOf, mbRefuse_logsOf]
theorem freeRequest_logsOf (r : Req) (s : State) (p : List Byte) : ∀ out, freeRequest r s p = some out → logsOf out = logsOf s := by
  intro out ht; unfold freeRequest at ht; simp only [] at ht; split at ht
  · cases ht
  · simp only [Option.map_eq_some_iff] at ht; obtain ⟨t, h1, rfl⟩ := ht; simp [freeObject_logsOf _ _ _ _ h1]
theorem fabricMap_logsOf (r : Req) (s : State) (p : List Byte) : ∀ out, fabricMap r s p = some out → logsOf out = logsOf s := by
  intro out ht; unfold fabricMap at ht; simp only [] at ht; split at ht
  · cases ht
  · cases ht; simp
theorem shardRequest_logsOf (r : Req) (s : State) (p : List Byte) : ∀ out, shardRequest r s p = some out → logsOf out = logsOf s := by
  intro out ht; unfold shardRequest at ht; simp only [] at ht; split at ht
  · cases ht
  · cases ht; simp
@[simp] theorem fillGeneration_logsOf (s : State) (l : Loaded) (header : List Byte × List Nat) (block : SecBlock → List Byte × List Nat) : logsOf (fillGeneration s l header block) = logsOf s := by
  simp [fillGeneration]
@[simp] theorem restored_logsOf (s : State) (tag : Dword) (gen : Nat) (round : Nat) (verify : BitVec 256) : logsOf (restored s tag gen round verify) = logsOf s := by
  simp [restored]
theorem restoreRequest_logsOf (r : Req) (remote : List Byte) (s : State) (p : List Byte) : ∀ out, restoreRequest r remote s p = some out → logsOf out = logsOf s := by
  intro out ht; unfold restoreRequest at ht; (repeat' split at ht) <;> grind [fillGeneration_logsOf, restored_logsOf]
theorem moduleRing_logsOf (r : Req) (s : State) (p : List Byte) : ∀ out, moduleRing r s p = some out → logsOf out = logsOf s := by
  intro out ht; unfold moduleRing at ht; simp only [] at ht; split at ht
  · cases ht
  · cases ht; simp
@[simp] theorem headTrap_logsOf (s : State) : logsOf (headTrap s) = logsOf s := by
  unfold headTrap; simp only []; (repeat' split) <;> simp_all
@[simp] theorem startOnCore_logsOf (c : Nat) (grant : Nat) (s : State) (site : Nat) : logsOf (startOnCore c grant s site) = logsOf s := by
  simp [startOnCore]
@[simp] theorem loadWord_logsOf (s : State) (r : Nat) (p : Nat) (o : Nat) (v : Nat) : logsOf (loadWord s r p o v) = logsOf s := by
  simp [loadWord]
@[simp] theorem loadRegisters_logsOf (q : LoadReq) (l : Policy) (s : State) (site : Nat) : logsOf (loadRegisters q l s site) = logsOf s := by
  simp [loadRegisters]
theorem loadRequest_logsOf (r : Req) (image : List Byte) (s : State) (p : List Byte) : ∀ out, loadRequest r image s p = some out → logsOf out = logsOf s := by
  intro out ht
  unfold loadRequest at ht
  simp only [] at ht
  split at ht
  · cases ht
  · split at ht
    · cases ht
    · split at ht
      · cases ht; simp
      · cases ht
        simp
@[simp] theorem spdmAnswer_logsOf (s : State) (msg : List Byte) : logsOf (spdmAnswer s msg) = logsOf s := by
  simp [spdmAnswer]
@[simp] theorem ideHost_logsOf (s : State) (on : Option Bool) : logsOf (ideHost s on) = logsOf s := by
  unfold ideHost; split <;> simp
@[simp] theorem pqCert_logsOf (s : State) (offset : Nat) : logsOf (pqCert s offset) = logsOf s := by
  simp [pqCert]
@[simp] theorem pqSign_logsOf (s : State) : logsOf (pqSign s) = logsOf s := by
  simp only [pqSign]; (repeat' split) <;> simp_all
@[simp] theorem entdaa_logsOf (s : State) (a : BitVec 7) : logsOf (entdaa s a) = logsOf s := by
  simp [entdaa]
@[simp] theorem sensorRead_logsOf (s : State) (r : Nat) (o : Nat) : logsOf (sensorRead s r o) = logsOf s := by
  simp [sensorRead]
@[simp] theorem pldmImage_logsOf (s : State) (image : List Byte) : logsOf (pldmImage s image) = logsOf s := by
  unfold pldmImage
  simp only []
  split
  · rfl
  · split
    · simp
    · split
      · rename_i t h1; simp [takeImage_logsOf _ _ h1]
      · simp
@[simp] theorem pldmTally_logsOf (s : State) (region : Nat) (form : Nat) (first : Nat) (count : Nat) : logsOf (pldmTally s region form first count) = logsOf s := by
  simp only [pldmTally]; (repeat' split) <;> simp_all
@[simp] theorem askHeld_logsOf (s : State) (u : Issue) (x2 : Instr) : logsOf (askHeld s u x2) = logsOf s := by
  simp only [askHeld]; (repeat' split) <;> simp_all
@[simp] theorem outcomeThere_logsOf (s : State) (u : Issue) (i : Instr) : logsOf (outcomeThere s u i) = logsOf s := by
  simp [outcomeThere]
@[simp] theorem passRetired_logsOf (s : State) (site : Nat) (d : Nat) : logsOf (passRetired s site d) = logsOf s := by
  unfold passRetired; simp only []; split <;> simp
@[simp] theorem engineRetire_logsOf (s : State) (site : Nat) (p : Place) : logsOf (engineRetire s site p) = logsOf s := by
  unfold engineRetire; simp only []; (repeat' split) <;> simp_all
@[simp] theorem signalArrives_logsOf (s : State) (src : Nat) (dst : Nat) (ctx : Nat) : logsOf (signalArrives s src dst ctx) = logsOf s := by
  unfold signalArrives; simp only []; (repeat' split) <;> simp_all
@[simp] theorem haltWait_logsOf (s : State) (u : Issue) (h : Hdr) (code : Nat) (p : Place) : logsOf (haltWait s u h code p) = logsOf s := by
  simp [haltWait]
@[simp] theorem syncTimeout_logsOf (s : State) (site : Nat) (p : Place) : logsOf (syncTimeout s site p) = logsOf s := by
  simp only [syncTimeout]; (repeat' split) <;> simp_all
@[simp] theorem stackOfflineAt_logsOf (s : State) (site : Nat) (p : Place) : logsOf (stackOfflineAt s site p) = logsOf s := by
  unfold stackOfflineAt
  (repeat' split) <;> first | rfl | exact raise_logsOf _ _ | (rw [haltWait_logsOf]; done) | (rw [haltWait_logsOf]; exact setDesc_logsOf _ _ _ _)
@[simp] theorem writeQs_logsOf (s : State) (o : Nat) (v : Word) : logsOf (writeQs s o v) = logsOf s := by
  unfold writeQs
  simp only []
  split
  · split
    · exact qsRun_logsOf _ _ _ (fun s t h => createQueue_logsOf _ _ _ h)
    · exact qsRun_logsOf _ _ _ (fun s t h => restartQueue_logsOf _ _ _ h)
    · exact qsRun_logsOf _ _ _ (fun s t h => disableQueue_logsOf _ _ _ h)
    · exact qsRun_logsOf _ _ _ (fun s t h => enableQueue_logsOf _ _ _ h)
    · exact qsRun_logsOf _ _ _ (fun s t h => destroyQueue_logsOf _ _ _ h)
    · rfl
  · split <;> simp
@[simp] theorem writeWindow_logsOf (s : State) (r : Nat) (o : Nat) (v : Word) : logsOf (writeWindow s r o v) = logsOf s := by
  unfold writeWindow; simp only []; (repeat' split) <;> simp_all
@[simp] theorem writeHost_logsOf (s : State) (o : Nat) (v : Word) : logsOf (writeHost s o v) = logsOf s := by
  simp [writeHost]
end Sys2Proof.Machine
end

