-- ==== Sys2Proof/Laws/Bounds.lean ====
section
/-!
SUPPORT. Laws/Bounds.lean: every operation that writes a log of the tally unit or the snoop filter keeps their bounds (R411, R470, R471, R473),
one lemma each, `<operation>_fits`.
-/
set_option linter.unusedSimpArgs false
set_option linter.unusedVariables false
namespace Sys2Proof.Machine

theorem foldl_fits {β : Type} (f : State → β → State) (h : ∀ s x, LogsFit (logsOf s) → LogsFit (logsOf (f s x))) :
    ∀ (l : List β) (s : State), LogsFit (logsOf s) → LogsFit (logsOf (l.foldl f s))
  | [], _, hs => hs
  | x :: l, s, hs => by rw [List.foldl_cons]; exact foldl_fits f h l _ (h s x hs)
theorem receiveTow_fits (s : State) (typ : Nat) (m : Tow) (extra : State → Bool) (f : State → State)
    (hf : ∀ s, LogsFit (logsOf s) → LogsFit (logsOf (f s))) (hb : LogsFit (logsOf s)) : LogsFit (logsOf (receiveTow s typ m extra f)) := by
  unfold receiveTow
  (repeat' split) <;> first | exact hb | exact hf _ hb | simpa using hb
theorem hostWrite_fits (s : State) (r p : Nat) (f : State → State) (hf : ∀ s, LogsFit (logsOf s) → LogsFit (logsOf (f s))) (hb : LogsFit (logsOf s)) :
    LogsFit (logsOf (hostWrite s r p f)) := by
  unfold hostWrite
  (repeat' split) <;> first | exact hb | exact hf _ hb | simpa using hb
theorem mailbox_fits (s : State) (code : Nat) (r : Req) (f : State → List Byte → Option State)
    (hf : ∀ s p t, LogsFit (logsOf s) → f s p = some t → LogsFit (logsOf t)) (hb : LogsFit (logsOf s)) : LogsFit (logsOf (mailbox s code r f)) := by
  unfold mailbox
  simp only []
  split
  · exact hb
  · split
    · simpa using hb
    · split
      · simpa using hb
      · split
        · rename_i t h; exact hf _ _ _ hb h
        · simpa using hb
theorem startThread_fits (i : Instr) (body : Body) (h : Hdr) (s : State) (u : Issue)
    (hbody : ∀ h s u, LogsFit (logsOf s) → LogsFit (logsOf (body h s u).1)) (hb : LogsFit (logsOf s)) : LogsFit (logsOf (startThread i body h s u)) := by
  have h1 := hbody h (traceRec (takeToken s u.site h) u h 0) u (by simpa using hb)
  unfold startThread
  split <;> rename_i t he <;> (try rw [he] at h1) <;> first | (simpa using h1) | (simpa using hb)
theorem threadCmd_fits (i : Instr) (h : Hdr) (absent : Bool) (body : Body) (s : State)
    (hbody : ∀ h s u, LogsFit (logsOf s) → LogsFit (logsOf (body h s u).1)) (hb : LogsFit (logsOf s)) : LogsFit (logsOf (threadCmd i h absent body s)) := by
  unfold threadCmd
  split
  · rename_i t ht; rw [(fetchRow_logsOf i h absent s).1 _ ht]; exact hb
  · rename_i t u ht
    rw [← (fetchRow_logsOf i h absent s).2 _ ht] at hb
    (repeat' split) <;> first | (simpa using hb) | exact startThread_fits _ _ _ _ _ hbody hb
theorem startEngine_fits (p : Place) (body : Body) (h : Hdr) (s : State) (u : Issue)
    (hbody : ∀ h s u, LogsFit (logsOf s) → LogsFit (logsOf (body h s u).1)) (hb : LogsFit (logsOf s)) :
    ∀ t, startEngine p body h s u = some t → LogsFit (logsOf t) := by
  have h1 := hbody h (traceRec (takeToken s u.site h) u h 0) u (by simpa using hb)
  intro t ht
  unfold startEngine at ht
  split at ht <;> rename_i t he <;> (try rw [he] at h1) <;> cases ht <;> first | exact h1 | (simpa using h1)
theorem enterQueue_fits (i : Instr) (p : Place) (body : Body) (h : Hdr) (s : State) (u : Issue)
    (hbody : ∀ h s u, LogsFit (logsOf s) → LogsFit (logsOf (body h s u).1)) (hb : LogsFit (logsOf s)) : LogsFit (logsOf (enterQueue i p body h s u)) := by
  unfold enterQueue
  simp only []
  split
  · split
    · rename_i t ht
      simpa using startEngine_fits p body h s (actOn s u h) hbody hb t ht
    · simpa using hb
  · simpa using hb

theorem logStep_fits (s : State) (r : StepRec) (outcome : Nat) (hb : LogsFit (logsOf s)) : LogsFit (logsOf (logStep s r outcome)) := by
  unfold logStep
  simp only [logsOf_mk]
  simp only [logsOf, LogsFit] at hb ⊢
  obtain ⟨h1, h2, h3, h4, h5⟩ := hb
  refine ⟨h1, h2, ?_, h4, h5⟩
  simp only [List.length_drop, List.length_append, List.length_singleton]
  omega
theorem reportOutcome_fits (s : State) (outcome : Nat) (hb : LogsFit (logsOf s)) : LogsFit (logsOf (reportOutcome s outcome)) := by
  unfold reportOutcome; simp only []; (repeat' split) <;> simp_all [logStep_fits]
theorem endInterlude_fits (s : State) (hb : LogsFit (logsOf s)) : LogsFit (logsOf (endInterlude s)) := by
  simp [endInterlude, reportOutcome_fits, hb]
theorem coreExits_fits (s : State) (u : Issue) (hb : LogsFit (logsOf s)) : LogsFit (logsOf (coreExits s u)) := by
  unfold coreExits; simp only []; (repeat' split) <;> simp_all [endInterlude_fits]
theorem exitBody_fits  (hdr : Hdr) (st : State) (iss : Issue) (hb : LogsFit (logsOf st)) : LogsFit (logsOf (exitBody hdr st iss).1) := by
  unfold exitBody; (repeat' split) <;> grind [coreExits_fits, leaveCode_logsOf, refused_logsOf]
theorem decided_fits (s : State) (outcome : Nat) (hb : LogsFit (logsOf s)) : LogsFit (logsOf (decided s outcome)) := by
  simp [decided, reportOutcome_fits, hb]
theorem commitStep_fits (s : State) (hb : LogsFit (logsOf s)) : LogsFit (logsOf (commitStep s)) := by
  simp [commitStep, decided_fits, hb]
theorem withholdStep_fits (s : State) (hb : LogsFit (logsOf s)) : LogsFit (logsOf (withholdStep s)) := by
  unfold withholdStep; simp only []; (repeat' split) <;> simp_all [commitStep_fits, reportOutcome_fits]
theorem takeOutcome_fits (s : State) (hb : LogsFit (logsOf s)) : LogsFit (logsOf (takeOutcome s)) := by
  unfold takeOutcome; simp only []; (repeat' split) <;> simp_all [commitStep_fits, decided_fits, withholdStep_fits]
theorem runVote_fits (x0 : Nat) (x1 : State) (hb : LogsFit (logsOf x1)) : LogsFit (logsOf (runVote x0 x1)) := by
  induction x0 generalizing x1 with
  | zero => exact hb
  | succ n ih =>
    unfold runVote
    simp only []
    (repeat' split) <;> first | exact hb | (exact takeOutcome_fits _ hb) | (apply ih; simpa using hb)
@[simp] theorem riskAtVote_logsOf (s : State) : logsOf (riskAtVote s) = logsOf s := by
  unfold riskAtVote; (repeat' split) <;> simp
theorem commitVoting_fits (s : State) (hb : LogsFit (logsOf s)) : LogsFit (logsOf (commitVoting s)) := by
  unfold commitVoting
  refine commitStep_fits _ ?_
  simp only [logsOf_mk, logsOf_fold]
  split <;> simpa using hb
theorem castVote_fits (s : State) (v : Vote) (hb : LogsFit (logsOf s)) : LogsFit (logsOf (castVote s v)) := by
  simp [castVote, runVote_fits, hb]
theorem abandonStep_fits (s : State) (mark : Word) (hb : LogsFit (logsOf s)) : LogsFit (logsOf (abandonStep s mark)) := by
  unfold abandonStep
  extract_lets st r0 s1 s2 s3 s4 v src s5
  have h4 : LogsFit (logsOf s4) := by
    have h3 : LogsFit (logsOf s3) := by
      simp only [s3]
      rw [foldl_logsOf _ (fun s p => by simp)]
      simpa [s2, s1] using hb
    simp only [s4]
    split
    · simpa using h3
    · exact h3
  clear_value s4 v src
  have h5 : LogsFit (logsOf s5) := by simpa [s5] using h4
  clear_value s5
  (repeat' split) <;> first | exact hb | exact h4 | exact h5 | exact castVote_fits _ _ h5 | simpa using h4
theorem raiseStep_fits (s : State) (f : Report) (hb : LogsFit (logsOf s)) : LogsFit (logsOf (raiseStep s f)) := by
  simp [raiseStep, abandonStep_fits, hb]
theorem heedLost_fits (s : State) (hb : LogsFit (logsOf s)) : LogsFit (logsOf (heedLost s)) := by
  unfold heedLost; (repeat' split) <;> grind [abandonStep_fits]
theorem commitVote_fits (s : State) (m : Tow) (hb : LogsFit (logsOf s)) : LogsFit (logsOf (commitVote s m)) := by
  unfold commitVote
  refine receiveTow_fits _ _ _ _ _ (fun s hb => ?_) hb
  dsimp only
  split
  · simpa using hb
  · exact runVote_fits _ _ (heedLost_fits _ (by simpa using hb))
theorem voteCast_fits (s : State) (busy : List Nat) (hb : LogsFit (logsOf s)) : LogsFit (logsOf (voteCast s busy)) := by
  unfold voteCast; simp only []; (repeat' split) <;> simp_all [castVote_fits]
theorem stopReplay_fits (s : State) (hb : LogsFit (logsOf s)) : LogsFit (logsOf (stopReplay s)) := by
  unfold stopReplay; (repeat' split) <;> grind [abandonStep_fits]
theorem resolveHere_fits (s : State) (discard : Bool) (suspect : Nat) (hb : LogsFit (logsOf s)) : LogsFit (logsOf (resolveHere s discard suspect)) := by
  unfold resolveHere
  extract_lets s1 s2
  have h1 : LogsFit (logsOf s1) := stopReplay_fits _ hb
  clear_value s1
  have h2 : LogsFit (logsOf s2) := by
    simp only [s2]
    split
    · simpa using h1
    · exact abandonStep_fits _ _ h1
  clear_value s2
  split
  · rw [markModule_logsOf]
    split
    · exact decided_fits _ _ h2
    · exact h2
  · split
    · exact commitStep_fits _ (by simpa using h1)
    · split
      · exact commitVoting_fits _ h1
      · exact h1
theorem resolve_fits (s : State) (discard : Bool) (suspect : Nat) (hb : LogsFit (logsOf s)) : LogsFit (logsOf (resolve s discard suspect)) := by
  unfold resolve; simp only []; (repeat' split) <;> simp_all [resolveHere_fits]
theorem commitMessage_fits (s : State) (m : Tow) (hb : LogsFit (logsOf s)) : LogsFit (logsOf (commitMessage s m)) := by
  unfold commitMessage
  refine receiveTow_fits _ _ _ _ _ (fun s hb => ?_) hb
  dsimp only
  split
  · simpa using hb
  · split
    · simpa using hb
    · split
      · exact resolveHere_fits _ _ _ (by simpa using hb)
      · simpa using hb
theorem heedDiscard_fits (s : State) (hb : LogsFit (logsOf s)) : LogsFit (logsOf (heedDiscard s)) := by
  unfold heedDiscard
  split
  · split
    · exact resolveHere_fits _ _ _ (by simpa using hb)
    · exact hb
  · exact hb
@[simp] theorem resumeWork_logsOf (s : State) : logsOf (resumeWork s) = logsOf s := by
  unfold resumeWork
  split <;> simp
theorem replayed_fits (s : State) (r : StepRec) (hb : LogsFit (logsOf s)) : LogsFit (logsOf (replayed s r)) := by
  have h1 : LogsFit (logsOf { s with step := { s.step with contribution := contribution s r.step } }) := by simpa only [logsOf_mk, logsOf_fold] using hb
  have h2 := reportOutcome_fits _ 5 h1
  unfold replayed
  rw [restartFeeders_logsOf, setCommitState_logsOf]
  exact h2
theorem digestTo_fits (s : State) (a b c : Nat) (d : Word) (hb : LogsFit (logsOf s)) : LogsFit (logsOf (digestTo s a b c d)) := by
  rw [digestTo_logsOf]; exact hb
theorem verifyHere_fits (t : State) (hb : LogsFit (logsOf t)) : LogsFit (logsOf (replayDone.verifyHere t)) := by
  unfold replayDone.verifyHere; simpa using hb
theorem replayDone_fits (s : State) (hb : LogsFit (logsOf s)) : LogsFit (logsOf (replayDone s)) := by
  unfold replayDone
  split
  · exact hb
  · split
    · exact hb
    · rename_i r _ _
      have h2 := replayed_fits s r hb
      dsimp only
      generalize replayed s r = t at *
      split
      · split
        · split
          · split
            · rw [comparePair_logsOf]; exact digestTo_fits _ _ _ _ _ h2
            · exact digestTo_fits _ _ _ _ _ h2
          · apply digestTo_fits
            split
            · rw [comparePair_logsOf]; exact digestTo_fits _ _ _ _ _ h2
            · exact digestTo_fits _ _ _ _ _ h2
        · exact verifyHere_fits _ h2
      · exact verifyHere_fits _ h2
theorem hdmServe_fits (s : State) (x : Ctx) (offset : Nat) (write : Bool) (data : List Byte)
    (hr : write = true ∨ s.hdm.filter.any (fun y => y.1 = offset / 64) = true ∨ s.hdm.filter.length < filterLines)
    (hb : LogsFit (logsOf s)) : LogsFit (logsOf (hdmServe s x offset write data)) := by
  have key : ∀ (t : State) (g : List (Nat × Bool)), logsOf t = logsOf s → g.length ≤ filterLines →
      LogsFit (logsOf { t with hdm := { t.hdm with filter := g } }) := by
    intro t g e hg
    rw [← e] at hb
    simp only [logsOf, LogsFit] at hb ⊢
    exact ⟨hb.1, hb.2.1, hb.2.2.1, hb.2.2.2.1, hg⟩
  have ef : ∀ t : State, logsOf t = logsOf s → t.hdm.filter = s.hdm.filter := fun t e => congrArg (fun x => x.2.2.2.2) e
  have hlen : s.hdm.filter.length ≤ filterLines := hb.2.2.2.2
  unfold hdmServe
  dsimp only
  split
  · exact key _ _ (by simp) (Nat.le_trans (List.length_filter_le _ _) (by rw [ef _ (by simp)]; exact hlen))
  · split
    · simpa using hb
    · refine key _ _ (by simp) ?_
      rw [ef _ (by simp), List.length_append, List.length_singleton]
      generalize filterLines = n at *
      rcases hr with h | h | h
      · contradiction
      · have : (s.hdm.filter.filter (fun y => decide (y.1 ≠ offset / 64))).length < s.hdm.filter.length := by
          rw [List.length_filter_lt_length_iff_exists]
          obtain ⟨y, hy, e⟩ := List.any_eq_true.mp h
          exact ⟨y, hy, by simpa using e⟩
        omega
      · have := List.length_filter_le (fun y : Nat × Bool => decide (y.1 ≠ offset / 64)) s.hdm.filter
        omega
theorem hdmAccess_fits (s : State) (offset : Nat) (write : Bool) (data : List Byte) (hb : LogsFit (logsOf s)) : LogsFit (logsOf (hdmAccess s offset write data)) := by
  unfold hdmAccess
  split
  · exact hb
  · split
    · simpa using hb
    · split
      · simpa using hb
      · dsimp only
        split
        · simpa using hb
        · split
          · simp only [logsOf_mk]
            split <;> simpa using hb
          · rename_i hf
            refine hdmServe_fits _ _ _ _ _ ?_ hb
            by_cases hw : write = true
            · exact Or.inl hw
            · by_cases hm : s.hdm.filter.any (fun y => decide (y.1 = offset / 64)) = true
              · exact Or.inr (Or.inl hm)
              · refine Or.inr (Or.inr (Nat.lt_of_not_le fun h => hf ⟨?_, ?_, h⟩))
                · simpa using hw
                · rw [Bool.not_eq_true] at hm; rw [hm]; rfl
theorem retryHdm_fits (s : State) (hb : LogsFit (logsOf s)) : LogsFit (logsOf (retryHdm s)) := by
  unfold retryHdm
  simp only []
  split
  · exact hb
  · exact foldl_fits _ (fun s x h => hdmAccess_fits _ _ _ _ h) _ _ (by simpa using hb)
theorem retryWaits_fits (s : State) (hb : LogsFit (logsOf s)) : LogsFit (logsOf (retryWaits s)) := by
  unfold retryWaits
  simp only []
  split
  · exact retryHdm_fits _ hb
  · exact foldl_fits _ (fun s x h => by simpa using h) _ _ (by simpa using retryHdm_fits _ hb)
theorem portLeaves_fits (s : State) (p : Nat) (hb : LogsFit (logsOf s)) : LogsFit (logsOf (portLeaves s p)) := by
  simp [portLeaves, raiseStep_fits, hb]
theorem updateService_fits (s : State) (p : Nat) (hb : LogsFit (logsOf s)) : LogsFit (logsOf (updateService s p)) := by
  unfold updateService; simp only []; (repeat' split) <;> simp_all [portLeaves_fits, retryWaits_fits]
theorem linkTrained_fits (s : State) (p : Nat) (width : Nat) (speed64 : Bool) (ide : Bool) (pbr : Nat) (base : Dword) (hb : LogsFit (logsOf s)) : LogsFit (logsOf (linkTrained s p width speed64 ide pbr base)) := by
  unfold linkTrained; simp only []; (repeat' split) <;> simp_all [raiseStep_fits, updateService_fits]
theorem linkDown_fits (s : State) (p : Nat) (hb : LogsFit (logsOf s)) : LogsFit (logsOf (linkDown s p)) := by
  unfold linkDown; simp only []; (repeat' split) <;> simp_all [updateService_fits]
theorem ideFailFabric_fits (s : State) (p : Nat) (hb : LogsFit (logsOf s)) : LogsFit (logsOf (ideFailFabric s p)) := by
  unfold ideFailFabric; (repeat' split) <;> grind [raiseStep_fits, updateService_fits, setFld_logsOf, modPort_logsOf]
theorem logFault_fits (s : State) (f : FaultRec) (hb : LogsFit (logsOf s)) : LogsFit (logsOf (logFault s f)) := by
  unfold logFault
  simp only [logsOf, LogsFit] at hb ⊢
  generalize stickySize = n at *
  generalize faultLogSize = k at *
  generalize stepLogSize = j at *
  generalize filterLines = i at *
  obtain ⟨h1, h2, h3, h4, h5⟩ := hb
  have hl : ((s.tally.faultLog ++ [f]).drop ((s.tally.faultLog ++ [f]).length - k)).length ≤ k := by
    simp only [List.length_drop]; omega
  split
  · exact ⟨h1, hl, h3, h4, h5⟩
  · split
    · rename_i hs
      refine ⟨?_, hl, h3, ?_, h5⟩
      · rw [List.length_append, List.length_singleton]; exact hs
      · intro hf; have := h4 hf; exact absurd hs (by simp [this])
    · rename_i hs
      exact ⟨h1, hl, h3, fun _ => Nat.le_antisymm h1 (Nat.not_lt.mp hs), h5⟩
theorem acceptRecord_fits (s : State) (f : FaultRec) (hb : LogsFit (logsOf s)) : LogsFit (logsOf (acceptRecord s f)) := by
  simp [acceptRecord, logFault_fits, hb]
theorem faultRecord_fits (s : State) (hb : LogsFit (logsOf s)) : LogsFit (logsOf (faultRecord s)) := by
  unfold faultRecord; simp only []; (repeat' split) <;> simp_all [acceptRecord_fits]
theorem faultAggregate_fits (s : State) (hb : LogsFit (logsOf s)) : LogsFit (logsOf (faultAggregate s)) := by
  unfold faultAggregate
  exact foldl_fits _ (fun s x h => acceptRecord_fits _ _ h) _ _ (by simpa using hb)
theorem lineAnswered_fits (s : State) (line : Nat) (inv : Bool) (hb : LogsFit (logsOf s)) : LogsFit (logsOf (lineAnswered s line inv)) := by
  unfold lineAnswered
  simp only [logsOf, LogsFit] at hb ⊢
  refine ⟨hb.1, hb.2.1, hb.2.2.1, hb.2.2.2.1, ?_⟩
  split
  · exact Nat.le_trans (List.length_filter_le _ _) hb.2.2.2.2
  · rw [List.length_map]; exact hb.2.2.2.2
theorem hdmDrained_fits (s : State) (hb : LogsFit (logsOf s)) : LogsFit (logsOf (hdmDrained s)) := by
  simpa using hb
theorem backInvalidate_fits (s : State) (line : Nat) (data : List Byte) (hb : LogsFit (logsOf s)) : LogsFit (logsOf (backInvalidate s line data)) := by
  unfold backInvalidate
  split
  · exact hb
  · rename_i l inv _
    have h1 : LogsFit (logsOf (lineReturned s line data)) := by
      unfold lineReturned; (repeat' split) <;> simpa using hb
    have h2 := lineAnswered_fits _ line inv h1
    dsimp only
    generalize lineAnswered (lineReturned s line data) line inv = t at *
    rw [resumeWork_logsOf]
    refine retryWaits_fits _ ?_
    split <;> simpa using h2
theorem h0Down_fits (s : State) (hb : LogsFit (logsOf s)) : LogsFit (logsOf (h0Down s)) := by
  unfold h0Down
  split
  · exact hb
  · have e : logsOf (setFld (setRegWord s 76 0x20 0x050 0) 76 0x20 ⟨0x040, 6, 6⟩ 0) = logsOf s := by simp
    simp only [logsOf_mk]
    generalize hs : setFld (setRegWord s 76 0x20 0x050 0) 76 0x20 ⟨0x040, 6, 6⟩ 0 = t at e
    rw [← e] at hb
    simp only [logsOf, LogsFit] at hb ⊢
    exact ⟨hb.1, hb.2.1, hb.2.2.1, hb.2.2.2.1, by simp [filterLines]⟩
theorem ideFail_fits (s : State) (p : Nat) (hb : LogsFit (logsOf s)) : LogsFit (logsOf (ideFail s p)) := by
  unfold ideFail; (repeat' split) <;> grind [h0Down_fits, ideFailFabric_fits, raise_logsOf]
theorem cutPorts_fits (s : State) (r : Nat) (hb : LogsFit (logsOf s)) : LogsFit (logsOf (cutPorts s r)) := by
  unfold cutPorts; (repeat' split) <;> grind [raiseStep_fits, updateService_fits]
theorem switchOff_fits (s : State) (r : Nat) (cause : Nat) (notice : Bool) (hb : LogsFit (logsOf s)) : LogsFit (logsOf (switchOff s r cause notice)) := by
  unfold switchOff; simp only []; (repeat' split) <;> simp_all [abandonStep_fits, cutPorts_fits, h0Down_fits]
theorem plannedOff_fits (s : State) (r : Nat) (why : OffCause) (hb : LogsFit (logsOf s)) : LogsFit (logsOf (plannedOff s r why)) := by
  unfold plannedOff; (repeat' split) <;> first | exact hb | exact switchOff_fits _ _ _ _ (by simpa using hb)
theorem pllUnlock_fits (s : State) (r : Nat) (hb : LogsFit (logsOf s)) : LogsFit (logsOf (pllUnlock s r)) := by
  unfold pllUnlock; simp only []; (repeat' split) <;> simp_all [switchOff_fits]
@[simp] theorem headCutOff_logsOf (s : State) : logsOf (headCutOff s) = logsOf s := by
  unfold headCutOff; simp only []; split <;> simp
theorem supplyTrip_fits (s : State) (r : Nat) (hb : LogsFit (logsOf s)) : LogsFit (logsOf (supplyTrip s r)) := by
  have aux : ∀ t : State, LogsFit (logsOf t) → LogsFit (logsOf (if r = 0 then headCutOff t else t)) := by
    intro t h; split <;> simpa using h
  unfold supplyTrip
  simp only []
  split
  · exact hb
  · have h1 : ∀ f : Report, LogsFit (logsOf (raise s f)) := fun f => by simpa using hb
    generalize hg : raise s _ = g
    have h2 : LogsFit (logsOf g) := hg ▸ h1 _
    refine aux _ (abandonStep_fits _ _ ?_)
    rw [markDirty_logsOf]
    split
    · rw [abandonRound_logsOf]; exact retryWaits_fits _ (cutPorts_fits _ _ (by simpa using h2))
    · exact retryWaits_fits _ (cutPorts_fits _ _ (by simpa using h2))
theorem returnReach_fits (s : State) (r : Nat) (hb : LogsFit (logsOf s)) : LogsFit (logsOf (returnReach s r)) := by
  unfold returnReach
  simp only [serveHeld_logsOf, resumeWork_logsOf]
  refine retryWaits_fits _ ?_
  simp only [residentPages_logsOf, markDirty_logsOf, bringUp_logsOf]
  split
  · simpa using hb
  · exact hb
theorem drainDone_fits (s : State) (hb : LogsFit (logsOf s)) : LogsFit (logsOf (drainDone s)) := by
  unfold drainDone
  simp only []
  split
  · exact hb
  · refine retryWaits_fits _ ?_
    simp only [setHold_logsOf, remakeStreams_logsOf]
    split <;> simpa using hb
theorem reachReturn_fits (s : State) (r : Nat) (hb : LogsFit (logsOf s)) : LogsFit (logsOf (reachReturn s r)) := by
  unfold reachReturn; (repeat' split) <;> grind [returnReach_fits]
theorem keeperRestart_fits (s : State) (r : Nat) (ok : Bool) (hb : LogsFit (logsOf s)) : LogsFit (logsOf (keeperRestart s r ok)) := by
  unfold keeperRestart; simp only []; (repeat' split) <;> simp_all [switchOff_fits]
theorem thermalStep_fits (s : State) (r : Nat) (hb : LogsFit (logsOf s)) : LogsFit (logsOf (thermalStep s r)) := by
  unfold thermalStep; simp only []; (repeat' split) <;> simp_all [plannedOff_fits]
theorem governorDecision_fits (s : State) (g : GovIn) (hb : LogsFit (logsOf s)) : LogsFit (logsOf (governorDecision s g)) := by
  unfold governorDecision
  split
  · exact hb
  · extract_lets s1 s2 p3 s3 s4
    have h1 : LogsFit (logsOf s1) := by simpa [s1] using hb
    have h2 : LogsFit (logsOf s2) := by simpa [s2] using h1
    have h3 : LogsFit (logsOf s3) := by simp only [s3]; split <;> simpa using h2
    have h4 : LogsFit (logsOf s4) := foldl_fits _ (fun s x h => thermalStep_fits _ _ h) _ _ h3
    clear_value s4
    simpa using h4
theorem heatRecovery_fits (s : State) (r : Nat) (hb : LogsFit (logsOf s)) : LogsFit (logsOf (heatRecovery s r)) := by
  unfold heatRecovery; (repeat' split) <;> grind [returnReach_fits, setThermalN_logsOf]
theorem lostAll_fits (s : State) (hb : LogsFit (logsOf s)) : LogsFit (logsOf (lostAll s)) := by
  unfold lostAll
  simp only [logsOf_mk]
  simp only [logsOf, LogsFit] at hb ⊢
  obtain ⟨h1, h2, h3, h4, h5⟩ := hb
  exact ⟨h1, h2, h3, h4, by simp [State.reset, filterLines]⟩
theorem logOnly_fits (s : State) (f : FaultRec) (hb : LogsFit (logsOf s)) : LogsFit (logsOf (logOnly s f)) := by
  simp [logOnly, logFault_fits, hb]
theorem inputLoss_fits (s : State) (hb : LogsFit (logsOf s)) : LogsFit (logsOf (inputLoss s)) := by
  unfold inputLoss
  split
  · exact hb
  · extract_lets held s1 last s2
    have h1 : LogsFit (logsOf s1) := by simpa [s1] using hb
    have h2 : LogsFit (logsOf s2) := foldl_fits _ (fun s x h => logOnly_fits _ _ h) _ _ h1
    exact lostAll_fits _ (by split <;> simpa using h2)
theorem junctionCutoff_fits (s : State) (r : Nat) (hb : LogsFit (logsOf s)) : LogsFit (logsOf (junctionCutoff s r)) := by
  unfold junctionCutoff; simp only []; (repeat' split) <;> simp_all [inputLoss_fits, switchOff_fits]
theorem coldStart_fits (s : State) (straps : BitVec 6) (hb : LogsFit (logsOf s)) : LogsFit (logsOf (coldStart s straps)) := by
  unfold coldStart; simp only []; (repeat' split) <;> simp_all [lostAll_fits]
theorem warmReset_fits (s : State) (hb : LogsFit (logsOf s)) : LogsFit (logsOf (warmReset s)) := by
  unfold warmReset; simp only []; (repeat' split) <;> simp_all [lostAll_fits]
theorem refclkLoss_fits (s : State) (hb : LogsFit (logsOf s)) : LogsFit (logsOf (refclkLoss s)) := by
  unfold refclkLoss
  simp only []
  split
  · simpa using hb
  · refine foldl_fits _ (fun s x h => ?_) _ _ (by simpa using hb)
    split
    · exact h
    · exact switchOff_fits _ _ _ _ (by simpa using h)
theorem refclkReturn_fits (s : State) (hb : LogsFit (logsOf s)) : LogsFit (logsOf (refclkReturn s)) := by
  unfold refclkReturn
  simp only []
  split
  · simpa using hb
  · exact foldl_fits _ (fun s x h => returnReach_fits _ _ h) _ _ (by simpa using hb)
theorem writeDone_fits (s : State) (hb : LogsFit (logsOf s)) : LogsFit (logsOf (writeDone s)) := by
  unfold writeDone; simp only []; (repeat' split) <;> simp_all [warmReset_fits]
theorem resetRequest_fits (s : State) (x1 : List Byte) (hb : LogsFit (logsOf s)) : ∀ out, resetRequest s x1 = some out → LogsFit (logsOf out) := by
  intro out ht; unfold resetRequest at ht; cases ht; exact warmReset_fits _ (by simpa using hb)
theorem jobRequest_fits (r : Req) (s : State) (p : List Byte) (hb : LogsFit (logsOf s)) : ∀ out, jobRequest r s p = some out → LogsFit (logsOf out) := by
  intro out ht
  have hu : ∀ t : State, LogsFit (logsOf t) → LogsFit (logsOf ([0, 1, 2, 3].foldl updateService t)) := fun t h =>
    foldl_fits _ (fun s x h => updateService_fits _ _ h) _ _ h
  unfold jobRequest at ht
  dsimp only at ht
  (repeat' split at ht) <;> cases ht <;> first | (simpa using hb) | (rw [mbAnswer_logsOf]; exact hu _ (by simpa using hb))
theorem pldmWarm_fits (s : State) (hb : LogsFit (logsOf s)) : LogsFit (logsOf (pldmWarm s)) := by
  unfold pldmWarm; (repeat' split) <;> grind [warmReset_fits]
theorem ideFabric_fits (s : State) (p : Nat) (on : Option Bool) (hb : LogsFit (logsOf s)) : LogsFit (logsOf (ideFabric s p on)) := by
  unfold ideFabric
  (repeat' split) <;> first | exact hb | exact updateService_fits _ _ (by simpa using hb)
theorem spdm_fits (s : State) (r : SpdmReq) (hb : LogsFit (logsOf s)) : LogsFit (logsOf (spdm s r)) := by
  unfold spdm
  split
  · split
    · exact hb
    · simp only []
      (repeat' split) <;> simpa using hb
  · split
    · exact hb
    · rw [spdmAnswer_logsOf]; exact ideFabric_fits _ _ _ hb
/-- A native command's body keeps the bounds. -/
def KeepBody (o : Option (Hdr × Body)) : Prop := ∀ g s u h b, o = some (h, b) → LogsFit (logsOf s) → LogsFit (logsOf (b g s u).1)
theorem KeepBody.of {h : Hdr} {b : Body} (e : ∀ g s u, logsOf (b g s u).1 = logsOf s) : KeepBody (some (h, b)) := by
  rintro g s u _ _ ⟨⟩ hb; rw [e]; exact hb
theorem KeepBody.none : KeepBody none := by rintro g s u _ _ ⟨⟩
theorem KeepBody.exit {h : Hdr} : KeepBody (some (h, exitBody)) := by
  rintro g s u _ _ ⟨⟩ hb; exact exitBody_fits _ _ _ hb
theorem runNative_fits (i : Instr) (h : Hdr) (body : Body) (e : runNative i = some (h, body)) :
    ∀ g s u, LogsFit (logsOf s) → LogsFit (logsOf (body g s u).1) := by
  have : KeepBody (runNative i) := by
    unfold runNative; split <;> first | exact KeepBody.none | exact KeepBody.exit | exact KeepBody.of (fun g s u => by simp)
  exact fun g s u => this g s u h body e
theorem wakeHeld_fits (s : State) (site : Nat) (t : Nat) (hb : LogsFit (logsOf s)) : LogsFit (logsOf (wakeHeld s site t)) := by
  unfold wakeHeld
  split
  · simpa using hb
  · split
    · rename_i hn _
      have hbody := runNative_fits _ _ _ hn
      split
      · exact hb
      · dsimp only
        split
        · split
          · exact heedLost_fits _ (startThread_fits _ _ _ _ _ hbody (by simpa using hb))
          · exact hb
        · split
          · simpa using hb
          · exact enterQueue_fits _ _ _ _ _ _ hbody (by simpa using hb)
    · exact hb
theorem wakeEngine_fits (s : State) (site : Nat) (p : Place) (hb : LogsFit (logsOf s)) : LogsFit (logsOf (wakeEngine s site p)) := by
  unfold wakeEngine
  extract_lets s1
  have hb : LogsFit (logsOf s1) := by simp only [s1]; split <;> simpa using hb
  clear_value s1
  split
  · exact hb
  · split
    · exact hb
    · rename_i hn
      have hbody := runNative_fits _ _ _ hn
      split
      · exact hb
      · split
        · exact hb
        · dsimp only
          split
          · simpa using hb
          · rename_i t ht
            simpa using startEngine_fits _ _ _ _ _ hbody (by simpa using hb) t ht
theorem tokenWaitMet_fits (s : State) (site : Nat) (p : Place) (hb : LogsFit (logsOf s)) : LogsFit (logsOf (tokenWaitMet s site p)) := by
  unfold tokenWaitMet; (repeat' split) <;> grind [wakeEngine_fits, wakeHeld_fits]
theorem writeCommit_fits (s : State) (o : Nat) (v : Word) (hb : LogsFit (logsOf s)) : LogsFit (logsOf (writeCommit s o v)) := by
  unfold writeCommit; simp only []; (repeat' split) <;> simp_all [resolve_fits]
theorem writeBlock_fits (s : State) (r : Nat) (p : Nat) (o : Nat) (v : Word) (hb : LogsFit (logsOf s)) : LogsFit (logsOf (writeBlock s r p o v)) := by
  unfold writeBlock; (repeat' split) <;> grind [warmReset_fits, writeCommit_fits, clearFault_logsOf, clearIrq_logsOf, commitShadows_logsOf, raisePeg_logsOf, releasePegs_logsOf, setXbar_logsOf, startBarrier_logsOf, startLoad_logsOf, writeHost_logsOf, writePlain_logsOf, writeQs_logsOf, writeWindow_logsOf, xbarWrite_logsOf]
theorem writeWord_fits (s : State) (a : Nat) (v : Word) (hb : LogsFit (logsOf s)) : LogsFit (logsOf (writeWord s a v)) := by
  unfold writeWord
  split
  · refine hostWrite_fits _ _ _ _ (fun s h => writeBlock_fits _ _ _ _ _ h) hb
  · split <;> simpa using hb
theorem registerWrite_fits (s : State) (a : Nat) (size : Nat) (v : Dword) (hb : LogsFit (logsOf s)) : LogsFit (logsOf (registerWrite s a size v)) := by
  unfold registerWrite; (repeat' split) <;> grind [writeWord_fits, emit_logsOf]
end Sys2Proof.Machine
end

