-- ==== Sys2Proof/Laws/State.lean ====
section
/-!
SUPPORT. State.lean: for each named update of State, every field it leaves as it was.
-/
namespace Sys2Proof.Machine

@[simp] theorem setRegWord_queues (s : State) (r p o : Nat) (w : Word) : (setRegWord s r p o w).queues = s.queues := rfl
@[simp] theorem setRegWord_cores (s : State) (r p o : Nat) (w : Word) : (setRegWord s r p o w).cores = s.cores := rfl
@[simp] theorem setRegWord_ctxs (s : State) (r p o : Nat) (w : Word) : (setRegWord s r p o w).ctxs = s.ctxs := rfl
@[simp] theorem setRegWord_store (s : State) (r p o : Nat) (w : Word) : (setRegWord s r p o w).store = s.store := rfl
@[simp] theorem setRegWord_head (s : State) (r p o : Nat) (w : Word) : (setRegWord s r p o w).head = s.head := rfl
@[simp] theorem setRegWord_tally (s : State) (r p o : Nat) (w : Word) : (setRegWord s r p o w).tally = s.tally := rfl
@[simp] theorem setRegWord_ports (s : State) (r p o : Nat) (w : Word) : (setRegWord s r p o w).ports = s.ports := rfl
@[simp] theorem setRegWord_step (s : State) (r p o : Nat) (w : Word) : (setRegWord s r p o w).step = s.step := rfl
@[simp] theorem setRegWord_withheld (s : State) (r p o : Nat) (w : Word) : (setRegWord s r p o w).withheld = s.withheld := rfl
@[simp] theorem setRegWord_risk (s : State) (r p o : Nat) (w : Word) : (setRegWord s r p o w).risk = s.risk := rfl
@[simp] theorem setRegWord_secure (s : State) (r p o : Nat) (w : Word) : (setRegWord s r p o w).secure = s.secure := rfl
@[simp] theorem setRegWord_pegs (s : State) (r p o : Nat) (w : Word) : (setRegWord s r p o w).pegs = s.pegs := rfl
@[simp] theorem setRegWord_pegCount (s : State) (r p o : Nat) (w : Word) : (setRegWord s r p o w).pegCount = s.pegCount := rfl
@[simp] theorem setRegWord_pegOrigin (s : State) (r p o : Nat) (w : Word) : (setRegWord s r p o w).pegOrigin = s.pegOrigin := rfl
@[simp] theorem setRegWord_mesh (s : State) (r p o : Nat) (w : Word) : (setRegWord s r p o w).mesh = s.mesh := rfl
@[simp] theorem setRegWord_power (s : State) (r p o : Nat) (w : Word) : (setRegWord s r p o w).power = s.power := rfl
@[simp] theorem setRegWord_hdm (s : State) (r p o : Nat) (w : Word) : (setRegWord s r p o w).hdm = s.hdm := rfl
@[simp] theorem setRegWord_mgmt (s : State) (r p o : Nat) (w : Word) : (setRegWord s r p o w).mgmt = s.mgmt := rfl
@[simp] theorem setRegWord_moves (s : State) (r p o : Nat) (w : Word) : (setRegWord s r p o w).moves = s.moves := rfl
@[simp] theorem setRegWord_outbox (s : State) (r p o : Nat) (w : Word) : (setRegWord s r p o w).outbox = s.outbox := rfl
@[simp] theorem setRegWord_now (s : State) (r p o : Nat) (w : Word) : (setRegWord s r p o w).now = s.now := rfl
@[simp] theorem setRegWord_fine (s : State) (r p o : Nat) (w : Word) : (setRegWord s r p o w).fine = s.fine := rfl
@[simp] theorem setRegWord_freeCount (s : State) (r p o : Nat) (w : Word) : (setRegWord s r p o w).freeCount = s.freeCount := rfl
@[simp] theorem setRegWord_pending (s : State) (r p o : Nat) (w : Word) : (setRegWord s r p o w).pending = s.pending := rfl

@[simp] theorem setShadowWord_queues (s : State) (r p o : Nat) (w : Word) : (setShadowWord s r p o w).queues = s.queues := rfl
@[simp] theorem setShadowWord_cores (s : State) (r p o : Nat) (w : Word) : (setShadowWord s r p o w).cores = s.cores := rfl
@[simp] theorem setShadowWord_ctxs (s : State) (r p o : Nat) (w : Word) : (setShadowWord s r p o w).ctxs = s.ctxs := rfl
@[simp] theorem setShadowWord_store (s : State) (r p o : Nat) (w : Word) : (setShadowWord s r p o w).store = s.store := rfl
@[simp] theorem setShadowWord_head (s : State) (r p o : Nat) (w : Word) : (setShadowWord s r p o w).head = s.head := rfl
@[simp] theorem setShadowWord_tally (s : State) (r p o : Nat) (w : Word) : (setShadowWord s r p o w).tally = s.tally := rfl
@[simp] theorem setShadowWord_ports (s : State) (r p o : Nat) (w : Word) : (setShadowWord s r p o w).ports = s.ports := rfl
@[simp] theorem setShadowWord_step (s : State) (r p o : Nat) (w : Word) : (setShadowWord s r p o w).step = s.step := rfl
@[simp] theorem setShadowWord_withheld (s : State) (r p o : Nat) (w : Word) : (setShadowWord s r p o w).withheld = s.withheld := rfl
@[simp] theorem setShadowWord_risk (s : State) (r p o : Nat) (w : Word) : (setShadowWord s r p o w).risk = s.risk := rfl
@[simp] theorem setShadowWord_secure (s : State) (r p o : Nat) (w : Word) : (setShadowWord s r p o w).secure = s.secure := rfl
@[simp] theorem setShadowWord_pegs (s : State) (r p o : Nat) (w : Word) : (setShadowWord s r p o w).pegs = s.pegs := rfl
@[simp] theorem setShadowWord_pegCount (s : State) (r p o : Nat) (w : Word) : (setShadowWord s r p o w).pegCount = s.pegCount := rfl
@[simp] theorem setShadowWord_pegOrigin (s : State) (r p o : Nat) (w : Word) : (setShadowWord s r p o w).pegOrigin = s.pegOrigin := rfl
@[simp] theorem setShadowWord_mesh (s : State) (r p o : Nat) (w : Word) : (setShadowWord s r p o w).mesh = s.mesh := rfl
@[simp] theorem setShadowWord_power (s : State) (r p o : Nat) (w : Word) : (setShadowWord s r p o w).power = s.power := rfl
@[simp] theorem setShadowWord_hdm (s : State) (r p o : Nat) (w : Word) : (setShadowWord s r p o w).hdm = s.hdm := rfl
@[simp] theorem setShadowWord_mgmt (s : State) (r p o : Nat) (w : Word) : (setShadowWord s r p o w).mgmt = s.mgmt := rfl
@[simp] theorem setShadowWord_moves (s : State) (r p o : Nat) (w : Word) : (setShadowWord s r p o w).moves = s.moves := rfl
@[simp] theorem setShadowWord_outbox (s : State) (r p o : Nat) (w : Word) : (setShadowWord s r p o w).outbox = s.outbox := rfl
@[simp] theorem setShadowWord_now (s : State) (r p o : Nat) (w : Word) : (setShadowWord s r p o w).now = s.now := rfl
@[simp] theorem setShadowWord_fine (s : State) (r p o : Nat) (w : Word) : (setShadowWord s r p o w).fine = s.fine := rfl
@[simp] theorem setShadowWord_freeCount (s : State) (r p o : Nat) (w : Word) : (setShadowWord s r p o w).freeCount = s.freeCount := rfl
@[simp] theorem setShadowWord_pending (s : State) (r p o : Nat) (w : Word) : (setShadowWord s r p o w).pending = s.pending := rfl

@[simp] theorem setFld_queues (s : State) (r p : Nat) (f : Fld) (v : Nat) : (setFld s r p f v).queues = s.queues := rfl
@[simp] theorem setFld_cores (s : State) (r p : Nat) (f : Fld) (v : Nat) : (setFld s r p f v).cores = s.cores := rfl
@[simp] theorem setFld_ctxs (s : State) (r p : Nat) (f : Fld) (v : Nat) : (setFld s r p f v).ctxs = s.ctxs := rfl
@[simp] theorem setFld_store (s : State) (r p : Nat) (f : Fld) (v : Nat) : (setFld s r p f v).store = s.store := rfl
@[simp] theorem setFld_head (s : State) (r p : Nat) (f : Fld) (v : Nat) : (setFld s r p f v).head = s.head := rfl
@[simp] theorem setFld_tally (s : State) (r p : Nat) (f : Fld) (v : Nat) : (setFld s r p f v).tally = s.tally := rfl
@[simp] theorem setFld_ports (s : State) (r p : Nat) (f : Fld) (v : Nat) : (setFld s r p f v).ports = s.ports := rfl
@[simp] theorem setFld_step (s : State) (r p : Nat) (f : Fld) (v : Nat) : (setFld s r p f v).step = s.step := rfl
@[simp] theorem setFld_withheld (s : State) (r p : Nat) (f : Fld) (v : Nat) : (setFld s r p f v).withheld = s.withheld := rfl
@[simp] theorem setFld_risk (s : State) (r p : Nat) (f : Fld) (v : Nat) : (setFld s r p f v).risk = s.risk := rfl
@[simp] theorem setFld_secure (s : State) (r p : Nat) (f : Fld) (v : Nat) : (setFld s r p f v).secure = s.secure := rfl
@[simp] theorem setFld_pegs (s : State) (r p : Nat) (f : Fld) (v : Nat) : (setFld s r p f v).pegs = s.pegs := rfl
@[simp] theorem setFld_pegCount (s : State) (r p : Nat) (f : Fld) (v : Nat) : (setFld s r p f v).pegCount = s.pegCount := rfl
@[simp] theorem setFld_pegOrigin (s : State) (r p : Nat) (f : Fld) (v : Nat) : (setFld s r p f v).pegOrigin = s.pegOrigin := rfl
@[simp] theorem setFld_mesh (s : State) (r p : Nat) (f : Fld) (v : Nat) : (setFld s r p f v).mesh = s.mesh := rfl
@[simp] theorem setFld_power (s : State) (r p : Nat) (f : Fld) (v : Nat) : (setFld s r p f v).power = s.power := rfl
@[simp] theorem setFld_hdm (s : State) (r p : Nat) (f : Fld) (v : Nat) : (setFld s r p f v).hdm = s.hdm := rfl
@[simp] theorem setFld_mgmt (s : State) (r p : Nat) (f : Fld) (v : Nat) : (setFld s r p f v).mgmt = s.mgmt := rfl
@[simp] theorem setFld_moves (s : State) (r p : Nat) (f : Fld) (v : Nat) : (setFld s r p f v).moves = s.moves := rfl
@[simp] theorem setFld_outbox (s : State) (r p : Nat) (f : Fld) (v : Nat) : (setFld s r p f v).outbox = s.outbox := rfl
@[simp] theorem setFld_now (s : State) (r p : Nat) (f : Fld) (v : Nat) : (setFld s r p f v).now = s.now := rfl
@[simp] theorem setFld_fine (s : State) (r p : Nat) (f : Fld) (v : Nat) : (setFld s r p f v).fine = s.fine := rfl
@[simp] theorem setFld_freeCount (s : State) (r p : Nat) (f : Fld) (v : Nat) : (setFld s r p f v).freeCount = s.freeCount := rfl
@[simp] theorem setFld_pending (s : State) (r p : Nat) (f : Fld) (v : Nat) : (setFld s r p f v).pending = s.pending := rfl

@[simp] theorem bump_queues (s : State) (r p : Nat) (f : Fld) (n : Nat) : (bump s r p f n).queues = s.queues := rfl
@[simp] theorem bump_cores (s : State) (r p : Nat) (f : Fld) (n : Nat) : (bump s r p f n).cores = s.cores := rfl
@[simp] theorem bump_ctxs (s : State) (r p : Nat) (f : Fld) (n : Nat) : (bump s r p f n).ctxs = s.ctxs := rfl
@[simp] theorem bump_store (s : State) (r p : Nat) (f : Fld) (n : Nat) : (bump s r p f n).store = s.store := rfl
@[simp] theorem bump_head (s : State) (r p : Nat) (f : Fld) (n : Nat) : (bump s r p f n).head = s.head := rfl
@[simp] theorem bump_tally (s : State) (r p : Nat) (f : Fld) (n : Nat) : (bump s r p f n).tally = s.tally := rfl
@[simp] theorem bump_ports (s : State) (r p : Nat) (f : Fld) (n : Nat) : (bump s r p f n).ports = s.ports := rfl
@[simp] theorem bump_step (s : State) (r p : Nat) (f : Fld) (n : Nat) : (bump s r p f n).step = s.step := rfl
@[simp] theorem bump_withheld (s : State) (r p : Nat) (f : Fld) (n : Nat) : (bump s r p f n).withheld = s.withheld := rfl
@[simp] theorem bump_risk (s : State) (r p : Nat) (f : Fld) (n : Nat) : (bump s r p f n).risk = s.risk := rfl
@[simp] theorem bump_secure (s : State) (r p : Nat) (f : Fld) (n : Nat) : (bump s r p f n).secure = s.secure := rfl
@[simp] theorem bump_pegs (s : State) (r p : Nat) (f : Fld) (n : Nat) : (bump s r p f n).pegs = s.pegs := rfl
@[simp] theorem bump_pegCount (s : State) (r p : Nat) (f : Fld) (n : Nat) : (bump s r p f n).pegCount = s.pegCount := rfl
@[simp] theorem bump_pegOrigin (s : State) (r p : Nat) (f : Fld) (n : Nat) : (bump s r p f n).pegOrigin = s.pegOrigin := rfl
@[simp] theorem bump_mesh (s : State) (r p : Nat) (f : Fld) (n : Nat) : (bump s r p f n).mesh = s.mesh := rfl
@[simp] theorem bump_power (s : State) (r p : Nat) (f : Fld) (n : Nat) : (bump s r p f n).power = s.power := rfl
@[simp] theorem bump_hdm (s : State) (r p : Nat) (f : Fld) (n : Nat) : (bump s r p f n).hdm = s.hdm := rfl
@[simp] theorem bump_mgmt (s : State) (r p : Nat) (f : Fld) (n : Nat) : (bump s r p f n).mgmt = s.mgmt := rfl
@[simp] theorem bump_moves (s : State) (r p : Nat) (f : Fld) (n : Nat) : (bump s r p f n).moves = s.moves := rfl
@[simp] theorem bump_outbox (s : State) (r p : Nat) (f : Fld) (n : Nat) : (bump s r p f n).outbox = s.outbox := rfl
@[simp] theorem bump_now (s : State) (r p : Nat) (f : Fld) (n : Nat) : (bump s r p f n).now = s.now := rfl
@[simp] theorem bump_fine (s : State) (r p : Nat) (f : Fld) (n : Nat) : (bump s r p f n).fine = s.fine := rfl
@[simp] theorem bump_freeCount (s : State) (r p : Nat) (f : Fld) (n : Nat) : (bump s r p f n).freeCount = s.freeCount := rfl
@[simp] theorem bump_pending (s : State) (r p : Nat) (f : Fld) (n : Nat) : (bump s r p f n).pending = s.pending := rfl

@[simp] theorem bumpWrap_queues (s : State) (r p : Nat) (f : Fld) (n : Nat) : (bumpWrap s r p f n).queues = s.queues := rfl
@[simp] theorem bumpWrap_cores (s : State) (r p : Nat) (f : Fld) (n : Nat) : (bumpWrap s r p f n).cores = s.cores := rfl
@[simp] theorem bumpWrap_ctxs (s : State) (r p : Nat) (f : Fld) (n : Nat) : (bumpWrap s r p f n).ctxs = s.ctxs := rfl
@[simp] theorem bumpWrap_store (s : State) (r p : Nat) (f : Fld) (n : Nat) : (bumpWrap s r p f n).store = s.store := rfl
@[simp] theorem bumpWrap_head (s : State) (r p : Nat) (f : Fld) (n : Nat) : (bumpWrap s r p f n).head = s.head := rfl
@[simp] theorem bumpWrap_tally (s : State) (r p : Nat) (f : Fld) (n : Nat) : (bumpWrap s r p f n).tally = s.tally := rfl
@[simp] theorem bumpWrap_ports (s : State) (r p : Nat) (f : Fld) (n : Nat) : (bumpWrap s r p f n).ports = s.ports := rfl
@[simp] theorem bumpWrap_step (s : State) (r p : Nat) (f : Fld) (n : Nat) : (bumpWrap s r p f n).step = s.step := rfl
@[simp] theorem bumpWrap_withheld (s : State) (r p : Nat) (f : Fld) (n : Nat) : (bumpWrap s r p f n).withheld = s.withheld := rfl
@[simp] theorem bumpWrap_risk (s : State) (r p : Nat) (f : Fld) (n : Nat) : (bumpWrap s r p f n).risk = s.risk := rfl
@[simp] theorem bumpWrap_secure (s : State) (r p : Nat) (f : Fld) (n : Nat) : (bumpWrap s r p f n).secure = s.secure := rfl
@[simp] theorem bumpWrap_pegs (s : State) (r p : Nat) (f : Fld) (n : Nat) : (bumpWrap s r p f n).pegs = s.pegs := rfl
@[simp] theorem bumpWrap_pegCount (s : State) (r p : Nat) (f : Fld) (n : Nat) : (bumpWrap s r p f n).pegCount = s.pegCount := rfl
@[simp] theorem bumpWrap_pegOrigin (s : State) (r p : Nat) (f : Fld) (n : Nat) : (bumpWrap s r p f n).pegOrigin = s.pegOrigin := rfl
@[simp] theorem bumpWrap_mesh (s : State) (r p : Nat) (f : Fld) (n : Nat) : (bumpWrap s r p f n).mesh = s.mesh := rfl
@[simp] theorem bumpWrap_power (s : State) (r p : Nat) (f : Fld) (n : Nat) : (bumpWrap s r p f n).power = s.power := rfl
@[simp] theorem bumpWrap_hdm (s : State) (r p : Nat) (f : Fld) (n : Nat) : (bumpWrap s r p f n).hdm = s.hdm := rfl
@[simp] theorem bumpWrap_mgmt (s : State) (r p : Nat) (f : Fld) (n : Nat) : (bumpWrap s r p f n).mgmt = s.mgmt := rfl
@[simp] theorem bumpWrap_moves (s : State) (r p : Nat) (f : Fld) (n : Nat) : (bumpWrap s r p f n).moves = s.moves := rfl
@[simp] theorem bumpWrap_outbox (s : State) (r p : Nat) (f : Fld) (n : Nat) : (bumpWrap s r p f n).outbox = s.outbox := rfl
@[simp] theorem bumpWrap_now (s : State) (r p : Nat) (f : Fld) (n : Nat) : (bumpWrap s r p f n).now = s.now := rfl
@[simp] theorem bumpWrap_fine (s : State) (r p : Nat) (f : Fld) (n : Nat) : (bumpWrap s r p f n).fine = s.fine := rfl
@[simp] theorem bumpWrap_freeCount (s : State) (r p : Nat) (f : Fld) (n : Nat) : (bumpWrap s r p f n).freeCount = s.freeCount := rfl
@[simp] theorem bumpWrap_pending (s : State) (r p : Nat) (f : Fld) (n : Nat) : (bumpWrap s r p f n).pending = s.pending := rfl

@[simp] theorem bumpPair_queues (s : State) (r p o n : Nat) : (bumpPair s r p o n).queues = s.queues := rfl
@[simp] theorem bumpPair_cores (s : State) (r p o n : Nat) : (bumpPair s r p o n).cores = s.cores := rfl
@[simp] theorem bumpPair_ctxs (s : State) (r p o n : Nat) : (bumpPair s r p o n).ctxs = s.ctxs := rfl
@[simp] theorem bumpPair_store (s : State) (r p o n : Nat) : (bumpPair s r p o n).store = s.store := rfl
@[simp] theorem bumpPair_head (s : State) (r p o n : Nat) : (bumpPair s r p o n).head = s.head := rfl
@[simp] theorem bumpPair_tally (s : State) (r p o n : Nat) : (bumpPair s r p o n).tally = s.tally := rfl
@[simp] theorem bumpPair_ports (s : State) (r p o n : Nat) : (bumpPair s r p o n).ports = s.ports := rfl
@[simp] theorem bumpPair_step (s : State) (r p o n : Nat) : (bumpPair s r p o n).step = s.step := rfl
@[simp] theorem bumpPair_withheld (s : State) (r p o n : Nat) : (bumpPair s r p o n).withheld = s.withheld := rfl
@[simp] theorem bumpPair_risk (s : State) (r p o n : Nat) : (bumpPair s r p o n).risk = s.risk := rfl
@[simp] theorem bumpPair_secure (s : State) (r p o n : Nat) : (bumpPair s r p o n).secure = s.secure := rfl
@[simp] theorem bumpPair_pegs (s : State) (r p o n : Nat) : (bumpPair s r p o n).pegs = s.pegs := rfl
@[simp] theorem bumpPair_pegCount (s : State) (r p o n : Nat) : (bumpPair s r p o n).pegCount = s.pegCount := rfl
@[simp] theorem bumpPair_pegOrigin (s : State) (r p o n : Nat) : (bumpPair s r p o n).pegOrigin = s.pegOrigin := rfl
@[simp] theorem bumpPair_mesh (s : State) (r p o n : Nat) : (bumpPair s r p o n).mesh = s.mesh := rfl
@[simp] theorem bumpPair_power (s : State) (r p o n : Nat) : (bumpPair s r p o n).power = s.power := rfl
@[simp] theorem bumpPair_hdm (s : State) (r p o n : Nat) : (bumpPair s r p o n).hdm = s.hdm := rfl
@[simp] theorem bumpPair_mgmt (s : State) (r p o n : Nat) : (bumpPair s r p o n).mgmt = s.mgmt := rfl
@[simp] theorem bumpPair_moves (s : State) (r p o n : Nat) : (bumpPair s r p o n).moves = s.moves := rfl
@[simp] theorem bumpPair_outbox (s : State) (r p o n : Nat) : (bumpPair s r p o n).outbox = s.outbox := rfl
@[simp] theorem bumpPair_now (s : State) (r p o n : Nat) : (bumpPair s r p o n).now = s.now := rfl
@[simp] theorem bumpPair_fine (s : State) (r p o n : Nat) : (bumpPair s r p o n).fine = s.fine := rfl
@[simp] theorem bumpPair_freeCount (s : State) (r p o n : Nat) : (bumpPair s r p o n).freeCount = s.freeCount := rfl
@[simp] theorem bumpPair_pending (s : State) (r p o n : Nat) : (bumpPair s r p o n).pending = s.pending := rfl

@[simp] theorem setLink_queues (s : State) (r d v : Nat) : (setLink s r d v).queues = s.queues := rfl
@[simp] theorem setLink_cores (s : State) (r d v : Nat) : (setLink s r d v).cores = s.cores := rfl
@[simp] theorem setLink_ctxs (s : State) (r d v : Nat) : (setLink s r d v).ctxs = s.ctxs := rfl
@[simp] theorem setLink_store (s : State) (r d v : Nat) : (setLink s r d v).store = s.store := rfl
@[simp] theorem setLink_head (s : State) (r d v : Nat) : (setLink s r d v).head = s.head := rfl
@[simp] theorem setLink_tally (s : State) (r d v : Nat) : (setLink s r d v).tally = s.tally := rfl
@[simp] theorem setLink_ports (s : State) (r d v : Nat) : (setLink s r d v).ports = s.ports := rfl
@[simp] theorem setLink_step (s : State) (r d v : Nat) : (setLink s r d v).step = s.step := rfl
@[simp] theorem setLink_withheld (s : State) (r d v : Nat) : (setLink s r d v).withheld = s.withheld := rfl
@[simp] theorem setLink_risk (s : State) (r d v : Nat) : (setLink s r d v).risk = s.risk := rfl
@[simp] theorem setLink_secure (s : State) (r d v : Nat) : (setLink s r d v).secure = s.secure := rfl
@[simp] theorem setLink_pegs (s : State) (r d v : Nat) : (setLink s r d v).pegs = s.pegs := rfl
@[simp] theorem setLink_pegCount (s : State) (r d v : Nat) : (setLink s r d v).pegCount = s.pegCount := rfl
@[simp] theorem setLink_pegOrigin (s : State) (r d v : Nat) : (setLink s r d v).pegOrigin = s.pegOrigin := rfl
@[simp] theorem setLink_mesh (s : State) (r d v : Nat) : (setLink s r d v).mesh = s.mesh := rfl
@[simp] theorem setLink_power (s : State) (r d v : Nat) : (setLink s r d v).power = s.power := rfl
@[simp] theorem setLink_hdm (s : State) (r d v : Nat) : (setLink s r d v).hdm = s.hdm := rfl
@[simp] theorem setLink_mgmt (s : State) (r d v : Nat) : (setLink s r d v).mgmt = s.mgmt := rfl
@[simp] theorem setLink_moves (s : State) (r d v : Nat) : (setLink s r d v).moves = s.moves := rfl
@[simp] theorem setLink_outbox (s : State) (r d v : Nat) : (setLink s r d v).outbox = s.outbox := rfl
@[simp] theorem setLink_now (s : State) (r d v : Nat) : (setLink s r d v).now = s.now := rfl
@[simp] theorem setLink_fine (s : State) (r d v : Nat) : (setLink s r d v).fine = s.fine := rfl
@[simp] theorem setLink_freeCount (s : State) (r d v : Nat) : (setLink s r d v).freeCount = s.freeCount := rfl
@[simp] theorem setLink_pending (s : State) (r d v : Nat) : (setLink s r d v).pending = s.pending := rfl
@[simp] theorem dropPacket_queues (s : State) (r : Nat) : (dropPacket s r).queues = s.queues := rfl
@[simp] theorem dropPacket_cores (s : State) (r : Nat) : (dropPacket s r).cores = s.cores := rfl
@[simp] theorem dropPacket_ctxs (s : State) (r : Nat) : (dropPacket s r).ctxs = s.ctxs := rfl
@[simp] theorem dropPacket_store (s : State) (r : Nat) : (dropPacket s r).store = s.store := rfl
@[simp] theorem dropPacket_head (s : State) (r : Nat) : (dropPacket s r).head = s.head := rfl
@[simp] theorem dropPacket_tally (s : State) (r : Nat) : (dropPacket s r).tally = s.tally := rfl
@[simp] theorem dropPacket_ports (s : State) (r : Nat) : (dropPacket s r).ports = s.ports := rfl
@[simp] theorem dropPacket_step (s : State) (r : Nat) : (dropPacket s r).step = s.step := rfl
@[simp] theorem dropPacket_withheld (s : State) (r : Nat) : (dropPacket s r).withheld = s.withheld := rfl
@[simp] theorem dropPacket_risk (s : State) (r : Nat) : (dropPacket s r).risk = s.risk := rfl
@[simp] theorem dropPacket_secure (s : State) (r : Nat) : (dropPacket s r).secure = s.secure := rfl
@[simp] theorem dropPacket_pegs (s : State) (r : Nat) : (dropPacket s r).pegs = s.pegs := rfl
@[simp] theorem dropPacket_pegCount (s : State) (r : Nat) : (dropPacket s r).pegCount = s.pegCount := rfl
@[simp] theorem dropPacket_pegOrigin (s : State) (r : Nat) : (dropPacket s r).pegOrigin = s.pegOrigin := rfl
@[simp] theorem dropPacket_mesh (s : State) (r : Nat) : (dropPacket s r).mesh = s.mesh := rfl
@[simp] theorem dropPacket_power (s : State) (r : Nat) : (dropPacket s r).power = s.power := rfl
@[simp] theorem dropPacket_hdm (s : State) (r : Nat) : (dropPacket s r).hdm = s.hdm := rfl
@[simp] theorem dropPacket_mgmt (s : State) (r : Nat) : (dropPacket s r).mgmt = s.mgmt := rfl
@[simp] theorem dropPacket_moves (s : State) (r : Nat) : (dropPacket s r).moves = s.moves := rfl
@[simp] theorem dropPacket_outbox (s : State) (r : Nat) : (dropPacket s r).outbox = s.outbox := rfl
@[simp] theorem dropPacket_now (s : State) (r : Nat) : (dropPacket s r).now = s.now := rfl
@[simp] theorem dropPacket_fine (s : State) (r : Nat) : (dropPacket s r).fine = s.fine := rfl
@[simp] theorem dropPacket_freeCount (s : State) (r : Nat) : (dropPacket s r).freeCount = s.freeCount := rfl
@[simp] theorem dropPacket_pending (s : State) (r : Nat) : (dropPacket s r).pending = s.pending := rfl

@[simp] theorem setCore_pages (s : State) (site : Nat) (c : Core) : (setCore s site c).pages = s.pages := rfl
@[simp] theorem setCore_queues (s : State) (site : Nat) (c : Core) : (setCore s site c).queues = s.queues := rfl
@[simp] theorem setCore_ctxs (s : State) (site : Nat) (c : Core) : (setCore s site c).ctxs = s.ctxs := rfl
@[simp] theorem setCore_store (s : State) (site : Nat) (c : Core) : (setCore s site c).store = s.store := rfl
@[simp] theorem setCore_head (s : State) (site : Nat) (c : Core) : (setCore s site c).head = s.head := rfl
@[simp] theorem setCore_tally (s : State) (site : Nat) (c : Core) : (setCore s site c).tally = s.tally := rfl
@[simp] theorem setCore_ports (s : State) (site : Nat) (c : Core) : (setCore s site c).ports = s.ports := rfl
@[simp] theorem setCore_step (s : State) (site : Nat) (c : Core) : (setCore s site c).step = s.step := rfl
@[simp] theorem setCore_withheld (s : State) (site : Nat) (c : Core) : (setCore s site c).withheld = s.withheld := rfl
@[simp] theorem setCore_risk (s : State) (site : Nat) (c : Core) : (setCore s site c).risk = s.risk := rfl
@[simp] theorem setCore_secure (s : State) (site : Nat) (c : Core) : (setCore s site c).secure = s.secure := rfl
@[simp] theorem setCore_pegs (s : State) (site : Nat) (c : Core) : (setCore s site c).pegs = s.pegs := rfl
@[simp] theorem setCore_pegCount (s : State) (site : Nat) (c : Core) : (setCore s site c).pegCount = s.pegCount := rfl
@[simp] theorem setCore_pegOrigin (s : State) (site : Nat) (c : Core) : (setCore s site c).pegOrigin = s.pegOrigin := rfl
@[simp] theorem setCore_mesh (s : State) (site : Nat) (c : Core) : (setCore s site c).mesh = s.mesh := rfl
@[simp] theorem setCore_power (s : State) (site : Nat) (c : Core) : (setCore s site c).power = s.power := rfl
@[simp] theorem setCore_hdm (s : State) (site : Nat) (c : Core) : (setCore s site c).hdm = s.hdm := rfl
@[simp] theorem setCore_mgmt (s : State) (site : Nat) (c : Core) : (setCore s site c).mgmt = s.mgmt := rfl
@[simp] theorem setCore_moves (s : State) (site : Nat) (c : Core) : (setCore s site c).moves = s.moves := rfl
@[simp] theorem setCore_outbox (s : State) (site : Nat) (c : Core) : (setCore s site c).outbox = s.outbox := rfl
@[simp] theorem setCore_now (s : State) (site : Nat) (c : Core) : (setCore s site c).now = s.now := rfl
@[simp] theorem setCore_fine (s : State) (site : Nat) (c : Core) : (setCore s site c).fine = s.fine := rfl
@[simp] theorem setCore_freeCount (s : State) (site : Nat) (c : Core) : (setCore s site c).freeCount = s.freeCount := rfl
@[simp] theorem setCore_pending (s : State) (site : Nat) (c : Core) : (setCore s site c).pending = s.pending := rfl

@[simp] theorem modCore_pages (s : State) (site : Nat) (f : Core → Core) : (modCore s site f).pages = s.pages := rfl
@[simp] theorem modCore_queues (s : State) (site : Nat) (f : Core → Core) : (modCore s site f).queues = s.queues := rfl
@[simp] theorem modCore_ctxs (s : State) (site : Nat) (f : Core → Core) : (modCore s site f).ctxs = s.ctxs := rfl
@[simp] theorem modCore_store (s : State) (site : Nat) (f : Core → Core) : (modCore s site f).store = s.store := rfl
@[simp] theorem modCore_head (s : State) (site : Nat) (f : Core → Core) : (modCore s site f).head = s.head := rfl
@[simp] theorem modCore_tally (s : State) (site : Nat) (f : Core → Core) : (modCore s site f).tally = s.tally := rfl
@[simp] theorem modCore_ports (s : State) (site : Nat) (f : Core → Core) : (modCore s site f).ports = s.ports := rfl
@[simp] theorem modCore_step (s : State) (site : Nat) (f : Core → Core) : (modCore s site f).step = s.step := rfl
@[simp] theorem modCore_withheld (s : State) (site : Nat) (f : Core → Core) : (modCore s site f).withheld = s.withheld := rfl
@[simp] theorem modCore_risk (s : State) (site : Nat) (f : Core → Core) : (modCore s site f).risk = s.risk := rfl
@[simp] theorem modCore_secure (s : State) (site : Nat) (f : Core → Core) : (modCore s site f).secure = s.secure := rfl
@[simp] theorem modCore_pegs (s : State) (site : Nat) (f : Core → Core) : (modCore s site f).pegs = s.pegs := rfl
@[simp] theorem modCore_pegCount (s : State) (site : Nat) (f : Core → Core) : (modCore s site f).pegCount = s.pegCount := rfl
@[simp] theorem modCore_pegOrigin (s : State) (site : Nat) (f : Core → Core) : (modCore s site f).pegOrigin = s.pegOrigin := rfl
@[simp] theorem modCore_mesh (s : State) (site : Nat) (f : Core → Core) : (modCore s site f).mesh = s.mesh := rfl
@[simp] theorem modCore_power (s : State) (site : Nat) (f : Core → Core) : (modCore s site f).power = s.power := rfl
@[simp] theorem modCore_hdm (s : State) (site : Nat) (f : Core → Core) : (modCore s site f).hdm = s.hdm := rfl
@[simp] theorem modCore_mgmt (s : State) (site : Nat) (f : Core → Core) : (modCore s site f).mgmt = s.mgmt := rfl
@[simp] theorem modCore_moves (s : State) (site : Nat) (f : Core → Core) : (modCore s site f).moves = s.moves := rfl
@[simp] theorem modCore_outbox (s : State) (site : Nat) (f : Core → Core) : (modCore s site f).outbox = s.outbox := rfl
@[simp] theorem modCore_now (s : State) (site : Nat) (f : Core → Core) : (modCore s site f).now = s.now := rfl
@[simp] theorem modCore_fine (s : State) (site : Nat) (f : Core → Core) : (modCore s site f).fine = s.fine := rfl
@[simp] theorem modCore_freeCount (s : State) (site : Nat) (f : Core → Core) : (modCore s site f).freeCount = s.freeCount := rfl
@[simp] theorem modCore_pending (s : State) (site : Nat) (f : Core → Core) : (modCore s site f).pending = s.pending := rfl

@[simp] theorem setThread_pages (s : State) (site t : Nat) (th : Thread) : (setThread s site t th).pages = s.pages := rfl
@[simp] theorem setThread_queues (s : State) (site t : Nat) (th : Thread) : (setThread s site t th).queues = s.queues := rfl
@[simp] theorem setThread_ctxs (s : State) (site t : Nat) (th : Thread) : (setThread s site t th).ctxs = s.ctxs := rfl
@[simp] theorem setThread_store (s : State) (site t : Nat) (th : Thread) : (setThread s site t th).store = s.store := rfl
@[simp] theorem setThread_head (s : State) (site t : Nat) (th : Thread) : (setThread s site t th).head = s.head := rfl
@[simp] theorem setThread_tally (s : State) (site t : Nat) (th : Thread) : (setThread s site t th).tally = s.tally := rfl
@[simp] theorem setThread_ports (s : State) (site t : Nat) (th : Thread) : (setThread s site t th).ports = s.ports := rfl
@[simp] theorem setThread_step (s : State) (site t : Nat) (th : Thread) : (setThread s site t th).step = s.step := rfl
@[simp] theorem setThread_withheld (s : State) (site t : Nat) (th : Thread) : (setThread s site t th).withheld = s.withheld := rfl
@[simp] theorem setThread_risk (s : State) (site t : Nat) (th : Thread) : (setThread s site t th).risk = s.risk := rfl
@[simp] theorem setThread_secure (s : State) (site t : Nat) (th : Thread) : (setThread s site t th).secure = s.secure := rfl
@[simp] theorem setThread_pegs (s : State) (site t : Nat) (th : Thread) : (setThread s site t th).pegs = s.pegs := rfl
@[simp] theorem setThread_pegCount (s : State) (site t : Nat) (th : Thread) : (setThread s site t th).pegCount = s.pegCount := rfl
@[simp] theorem setThread_pegOrigin (s : State) (site t : Nat) (th : Thread) : (setThread s site t th).pegOrigin = s.pegOrigin := rfl
@[simp] theorem setThread_mesh (s : State) (site t : Nat) (th : Thread) : (setThread s site t th).mesh = s.mesh := rfl
@[simp] theorem setThread_power (s : State) (site t : Nat) (th : Thread) : (setThread s site t th).power = s.power := rfl
@[simp] theorem setThread_hdm (s : State) (site t : Nat) (th : Thread) : (setThread s site t th).hdm = s.hdm := rfl
@[simp] theorem setThread_mgmt (s : State) (site t : Nat) (th : Thread) : (setThread s site t th).mgmt = s.mgmt := rfl
@[simp] theorem setThread_moves (s : State) (site t : Nat) (th : Thread) : (setThread s site t th).moves = s.moves := rfl
@[simp] theorem setThread_outbox (s : State) (site t : Nat) (th : Thread) : (setThread s site t th).outbox = s.outbox := rfl
@[simp] theorem setThread_now (s : State) (site t : Nat) (th : Thread) : (setThread s site t th).now = s.now := rfl
@[simp] theorem setThread_fine (s : State) (site t : Nat) (th : Thread) : (setThread s site t th).fine = s.fine := rfl
@[simp] theorem setThread_freeCount (s : State) (site t : Nat) (th : Thread) : (setThread s site t th).freeCount = s.freeCount := rfl
@[simp] theorem setThread_pending (s : State) (site t : Nat) (th : Thread) : (setThread s site t th).pending = s.pending := rfl

@[simp] theorem modThread_pages (s : State) (site t : Nat) (f : Thread → Thread) : (modThread s site t f).pages = s.pages := rfl
@[simp] theorem modThread_queues (s : State) (site t : Nat) (f : Thread → Thread) : (modThread s site t f).queues = s.queues := rfl
@[simp] theorem modThread_ctxs (s : State) (site t : Nat) (f : Thread → Thread) : (modThread s site t f).ctxs = s.ctxs := rfl
@[simp] theorem modThread_store (s : State) (site t : Nat) (f : Thread → Thread) : (modThread s site t f).store = s.store := rfl
@[simp] theorem modThread_head (s : State) (site t : Nat) (f : Thread → Thread) : (modThread s site t f).head = s.head := rfl
@[simp] theorem modThread_tally (s : State) (site t : Nat) (f : Thread → Thread) : (modThread s site t f).tally = s.tally := rfl
@[simp] theorem modThread_ports (s : State) (site t : Nat) (f : Thread → Thread) : (modThread s site t f).ports = s.ports := rfl
@[simp] theorem modThread_step (s : State) (site t : Nat) (f : Thread → Thread) : (modThread s site t f).step = s.step := rfl
@[simp] theorem modThread_withheld (s : State) (site t : Nat) (f : Thread → Thread) : (modThread s site t f).withheld = s.withheld := rfl
@[simp] theorem modThread_risk (s : State) (site t : Nat) (f : Thread → Thread) : (modThread s site t f).risk = s.risk := rfl
@[simp] theorem modThread_secure (s : State) (site t : Nat) (f : Thread → Thread) : (modThread s site t f).secure = s.secure := rfl
@[simp] theorem modThread_pegs (s : State) (site t : Nat) (f : Thread → Thread) : (modThread s site t f).pegs = s.pegs := rfl
@[simp] theorem modThread_pegCount (s : State) (site t : Nat) (f : Thread → Thread) : (modThread s site t f).pegCount = s.pegCount := rfl
@[simp] theorem modThread_pegOrigin (s : State) (site t : Nat) (f : Thread → Thread) : (modThread s site t f).pegOrigin = s.pegOrigin := rfl
@[simp] theorem modThread_mesh (s : State) (site t : Nat) (f : Thread → Thread) : (modThread s site t f).mesh = s.mesh := rfl
@[simp] theorem modThread_power (s : State) (site t : Nat) (f : Thread → Thread) : (modThread s site t f).power = s.power := rfl
@[simp] theorem modThread_hdm (s : State) (site t : Nat) (f : Thread → Thread) : (modThread s site t f).hdm = s.hdm := rfl
@[simp] theorem modThread_mgmt (s : State) (site t : Nat) (f : Thread → Thread) : (modThread s site t f).mgmt = s.mgmt := rfl
@[simp] theorem modThread_moves (s : State) (site t : Nat) (f : Thread → Thread) : (modThread s site t f).moves = s.moves := rfl
@[simp] theorem modThread_outbox (s : State) (site t : Nat) (f : Thread → Thread) : (modThread s site t f).outbox = s.outbox := rfl
@[simp] theorem modThread_now (s : State) (site t : Nat) (f : Thread → Thread) : (modThread s site t f).now = s.now := rfl
@[simp] theorem modThread_fine (s : State) (site t : Nat) (f : Thread → Thread) : (modThread s site t f).fine = s.fine := rfl
@[simp] theorem modThread_freeCount (s : State) (site t : Nat) (f : Thread → Thread) : (modThread s site t f).freeCount = s.freeCount := rfl
@[simp] theorem modThread_pending (s : State) (site t : Nat) (f : Thread → Thread) : (modThread s site t f).pending = s.pending := rfl

@[simp] theorem setQueue_pages (s : State) (q : Nat) (e : QEntry) : (setQueue s q e).pages = s.pages := rfl
@[simp] theorem setQueue_cores (s : State) (q : Nat) (e : QEntry) : (setQueue s q e).cores = s.cores := rfl
@[simp] theorem setQueue_ctxs (s : State) (q : Nat) (e : QEntry) : (setQueue s q e).ctxs = s.ctxs := rfl
@[simp] theorem setQueue_store (s : State) (q : Nat) (e : QEntry) : (setQueue s q e).store = s.store := rfl
@[simp] theorem setQueue_head (s : State) (q : Nat) (e : QEntry) : (setQueue s q e).head = s.head := rfl
@[simp] theorem setQueue_tally (s : State) (q : Nat) (e : QEntry) : (setQueue s q e).tally = s.tally := rfl
@[simp] theorem setQueue_ports (s : State) (q : Nat) (e : QEntry) : (setQueue s q e).ports = s.ports := rfl
@[simp] theorem setQueue_step (s : State) (q : Nat) (e : QEntry) : (setQueue s q e).step = s.step := rfl
@[simp] theorem setQueue_withheld (s : State) (q : Nat) (e : QEntry) : (setQueue s q e).withheld = s.withheld := rfl
@[simp] theorem setQueue_risk (s : State) (q : Nat) (e : QEntry) : (setQueue s q e).risk = s.risk := rfl
@[simp] theorem setQueue_secure (s : State) (q : Nat) (e : QEntry) : (setQueue s q e).secure = s.secure := rfl
@[simp] theorem setQueue_pegs (s : State) (q : Nat) (e : QEntry) : (setQueue s q e).pegs = s.pegs := rfl
@[simp] theorem setQueue_pegCount (s : State) (q : Nat) (e : QEntry) : (setQueue s q e).pegCount = s.pegCount := rfl
@[simp] theorem setQueue_pegOrigin (s : State) (q : Nat) (e : QEntry) : (setQueue s q e).pegOrigin = s.pegOrigin := rfl
@[simp] theorem setQueue_mesh (s : State) (q : Nat) (e : QEntry) : (setQueue s q e).mesh = s.mesh := rfl
@[simp] theorem setQueue_power (s : State) (q : Nat) (e : QEntry) : (setQueue s q e).power = s.power := rfl
@[simp] theorem setQueue_hdm (s : State) (q : Nat) (e : QEntry) : (setQueue s q e).hdm = s.hdm := rfl
@[simp] theorem setQueue_mgmt (s : State) (q : Nat) (e : QEntry) : (setQueue s q e).mgmt = s.mgmt := rfl
@[simp] theorem setQueue_moves (s : State) (q : Nat) (e : QEntry) : (setQueue s q e).moves = s.moves := rfl
@[simp] theorem setQueue_outbox (s : State) (q : Nat) (e : QEntry) : (setQueue s q e).outbox = s.outbox := rfl
@[simp] theorem setQueue_now (s : State) (q : Nat) (e : QEntry) : (setQueue s q e).now = s.now := rfl
@[simp] theorem setQueue_fine (s : State) (q : Nat) (e : QEntry) : (setQueue s q e).fine = s.fine := rfl
@[simp] theorem setQueue_freeCount (s : State) (q : Nat) (e : QEntry) : (setQueue s q e).freeCount = s.freeCount := rfl
@[simp] theorem setQueue_pending (s : State) (q : Nat) (e : QEntry) : (setQueue s q e).pending = s.pending := rfl

@[simp] theorem modQueue_pages (s : State) (q : Nat) (f : QEntry → QEntry) : (modQueue s q f).pages = s.pages := by unfold modQueue; split <;> rfl
@[simp] theorem modQueue_cores (s : State) (q : Nat) (f : QEntry → QEntry) : (modQueue s q f).cores = s.cores := by unfold modQueue; split <;> rfl
@[simp] theorem modQueue_ctxs (s : State) (q : Nat) (f : QEntry → QEntry) : (modQueue s q f).ctxs = s.ctxs := by unfold modQueue; split <;> rfl
@[simp] theorem modQueue_store (s : State) (q : Nat) (f : QEntry → QEntry) : (modQueue s q f).store = s.store := by unfold modQueue; split <;> rfl
@[simp] theorem modQueue_head (s : State) (q : Nat) (f : QEntry → QEntry) : (modQueue s q f).head = s.head := by unfold modQueue; split <;> rfl
@[simp] theorem modQueue_tally (s : State) (q : Nat) (f : QEntry → QEntry) : (modQueue s q f).tally = s.tally := by unfold modQueue; split <;> rfl
@[simp] theorem modQueue_ports (s : State) (q : Nat) (f : QEntry → QEntry) : (modQueue s q f).ports = s.ports := by unfold modQueue; split <;> rfl
@[simp] theorem modQueue_step (s : State) (q : Nat) (f : QEntry → QEntry) : (modQueue s q f).step = s.step := by unfold modQueue; split <;> rfl
@[simp] theorem modQueue_withheld (s : State) (q : Nat) (f : QEntry → QEntry) : (modQueue s q f).withheld = s.withheld := by unfold modQueue; split <;> rfl
@[simp] theorem modQueue_risk (s : State) (q : Nat) (f : QEntry → QEntry) : (modQueue s q f).risk = s.risk := by unfold modQueue; split <;> rfl
@[simp] theorem modQueue_secure (s : State) (q : Nat) (f : QEntry → QEntry) : (modQueue s q f).secure = s.secure := by unfold modQueue; split <;> rfl
@[simp] theorem modQueue_pegs (s : State) (q : Nat) (f : QEntry → QEntry) : (modQueue s q f).pegs = s.pegs := by unfold modQueue; split <;> rfl
@[simp] theorem modQueue_pegCount (s : State) (q : Nat) (f : QEntry → QEntry) : (modQueue s q f).pegCount = s.pegCount := by unfold modQueue; split <;> rfl
@[simp] theorem modQueue_pegOrigin (s : State) (q : Nat) (f : QEntry → QEntry) : (modQueue s q f).pegOrigin = s.pegOrigin := by unfold modQueue; split <;> rfl
@[simp] theorem modQueue_mesh (s : State) (q : Nat) (f : QEntry → QEntry) : (modQueue s q f).mesh = s.mesh := by unfold modQueue; split <;> rfl
@[simp] theorem modQueue_power (s : State) (q : Nat) (f : QEntry → QEntry) : (modQueue s q f).power = s.power := by unfold modQueue; split <;> rfl
@[simp] theorem modQueue_hdm (s : State) (q : Nat) (f : QEntry → QEntry) : (modQueue s q f).hdm = s.hdm := by unfold modQueue; split <;> rfl
@[simp] theorem modQueue_mgmt (s : State) (q : Nat) (f : QEntry → QEntry) : (modQueue s q f).mgmt = s.mgmt := by unfold modQueue; split <;> rfl
@[simp] theorem modQueue_moves (s : State) (q : Nat) (f : QEntry → QEntry) : (modQueue s q f).moves = s.moves := by unfold modQueue; split <;> rfl
@[simp] theorem modQueue_outbox (s : State) (q : Nat) (f : QEntry → QEntry) : (modQueue s q f).outbox = s.outbox := by unfold modQueue; split <;> rfl
@[simp] theorem modQueue_now (s : State) (q : Nat) (f : QEntry → QEntry) : (modQueue s q f).now = s.now := by unfold modQueue; split <;> rfl
@[simp] theorem modQueue_fine (s : State) (q : Nat) (f : QEntry → QEntry) : (modQueue s q f).fine = s.fine := by unfold modQueue; split <;> rfl
@[simp] theorem modQueue_freeCount (s : State) (q : Nat) (f : QEntry → QEntry) : (modQueue s q f).freeCount = s.freeCount := by unfold modQueue; split <;> rfl
@[simp] theorem modQueue_pending (s : State) (q : Nat) (f : QEntry → QEntry) : (modQueue s q f).pending = s.pending := by unfold modQueue; split <;> rfl

@[simp] theorem setCtx_pages (s : State) (c : Nat) (x : Ctx) : (setCtx s c x).pages = s.pages := rfl
@[simp] theorem setCtx_queues (s : State) (c : Nat) (x : Ctx) : (setCtx s c x).queues = s.queues := rfl
@[simp] theorem setCtx_cores (s : State) (c : Nat) (x : Ctx) : (setCtx s c x).cores = s.cores := rfl
@[simp] theorem setCtx_store (s : State) (c : Nat) (x : Ctx) : (setCtx s c x).store = s.store := rfl
@[simp] theorem setCtx_head (s : State) (c : Nat) (x : Ctx) : (setCtx s c x).head = s.head := rfl
@[simp] theorem setCtx_tally (s : State) (c : Nat) (x : Ctx) : (setCtx s c x).tally = s.tally := rfl
@[simp] theorem setCtx_ports (s : State) (c : Nat) (x : Ctx) : (setCtx s c x).ports = s.ports := rfl
@[simp] theorem setCtx_step (s : State) (c : Nat) (x : Ctx) : (setCtx s c x).step = s.step := rfl
@[simp] theorem setCtx_withheld (s : State) (c : Nat) (x : Ctx) : (setCtx s c x).withheld = s.withheld := rfl
@[simp] theorem setCtx_risk (s : State) (c : Nat) (x : Ctx) : (setCtx s c x).risk = s.risk := rfl
@[simp] theorem setCtx_secure (s : State) (c : Nat) (x : Ctx) : (setCtx s c x).secure = s.secure := rfl
@[simp] theorem setCtx_pegs (s : State) (c : Nat) (x : Ctx) : (setCtx s c x).pegs = s.pegs := rfl
@[simp] theorem setCtx_pegCount (s : State) (c : Nat) (x : Ctx) : (setCtx s c x).pegCount = s.pegCount := rfl
@[simp] theorem setCtx_pegOrigin (s : State) (c : Nat) (x : Ctx) : (setCtx s c x).pegOrigin = s.pegOrigin := rfl
@[simp] theorem setCtx_mesh (s : State) (c : Nat) (x : Ctx) : (setCtx s c x).mesh = s.mesh := rfl
@[simp] theorem setCtx_power (s : State) (c : Nat) (x : Ctx) : (setCtx s c x).power = s.power := rfl
@[simp] theorem setCtx_hdm (s : State) (c : Nat) (x : Ctx) : (setCtx s c x).hdm = s.hdm := rfl
@[simp] theorem setCtx_mgmt (s : State) (c : Nat) (x : Ctx) : (setCtx s c x).mgmt = s.mgmt := rfl
@[simp] theorem setCtx_moves (s : State) (c : Nat) (x : Ctx) : (setCtx s c x).moves = s.moves := rfl
@[simp] theorem setCtx_outbox (s : State) (c : Nat) (x : Ctx) : (setCtx s c x).outbox = s.outbox := rfl
@[simp] theorem setCtx_now (s : State) (c : Nat) (x : Ctx) : (setCtx s c x).now = s.now := rfl
@[simp] theorem setCtx_fine (s : State) (c : Nat) (x : Ctx) : (setCtx s c x).fine = s.fine := rfl
@[simp] theorem setCtx_freeCount (s : State) (c : Nat) (x : Ctx) : (setCtx s c x).freeCount = s.freeCount := rfl
@[simp] theorem setCtx_pending (s : State) (c : Nat) (x : Ctx) : (setCtx s c x).pending = s.pending := rfl

@[simp] theorem modCtx_pages (s : State) (c : Nat) (f : Ctx → Ctx) : (modCtx s c f).pages = s.pages := by unfold modCtx; split <;> rfl
@[simp] theorem modCtx_queues (s : State) (c : Nat) (f : Ctx → Ctx) : (modCtx s c f).queues = s.queues := by unfold modCtx; split <;> rfl
@[simp] theorem modCtx_cores (s : State) (c : Nat) (f : Ctx → Ctx) : (modCtx s c f).cores = s.cores := by unfold modCtx; split <;> rfl
@[simp] theorem modCtx_store (s : State) (c : Nat) (f : Ctx → Ctx) : (modCtx s c f).store = s.store := by unfold modCtx; split <;> rfl
@[simp] theorem modCtx_head (s : State) (c : Nat) (f : Ctx → Ctx) : (modCtx s c f).head = s.head := by unfold modCtx; split <;> rfl
@[simp] theorem modCtx_tally (s : State) (c : Nat) (f : Ctx → Ctx) : (modCtx s c f).tally = s.tally := by unfold modCtx; split <;> rfl
@[simp] theorem modCtx_ports (s : State) (c : Nat) (f : Ctx → Ctx) : (modCtx s c f).ports = s.ports := by unfold modCtx; split <;> rfl
@[simp] theorem modCtx_step (s : State) (c : Nat) (f : Ctx → Ctx) : (modCtx s c f).step = s.step := by unfold modCtx; split <;> rfl
@[simp] theorem modCtx_withheld (s : State) (c : Nat) (f : Ctx → Ctx) : (modCtx s c f).withheld = s.withheld := by unfold modCtx; split <;> rfl
@[simp] theorem modCtx_risk (s : State) (c : Nat) (f : Ctx → Ctx) : (modCtx s c f).risk = s.risk := by unfold modCtx; split <;> rfl
@[simp] theorem modCtx_secure (s : State) (c : Nat) (f : Ctx → Ctx) : (modCtx s c f).secure = s.secure := by unfold modCtx; split <;> rfl
@[simp] theorem modCtx_pegs (s : State) (c : Nat) (f : Ctx → Ctx) : (modCtx s c f).pegs = s.pegs := by unfold modCtx; split <;> rfl
@[simp] theorem modCtx_pegCount (s : State) (c : Nat) (f : Ctx → Ctx) : (modCtx s c f).pegCount = s.pegCount := by unfold modCtx; split <;> rfl
@[simp] theorem modCtx_pegOrigin (s : State) (c : Nat) (f : Ctx → Ctx) : (modCtx s c f).pegOrigin = s.pegOrigin := by unfold modCtx; split <;> rfl
@[simp] theorem modCtx_mesh (s : State) (c : Nat) (f : Ctx → Ctx) : (modCtx s c f).mesh = s.mesh := by unfold modCtx; split <;> rfl
@[simp] theorem modCtx_power (s : State) (c : Nat) (f : Ctx → Ctx) : (modCtx s c f).power = s.power := by unfold modCtx; split <;> rfl
@[simp] theorem modCtx_hdm (s : State) (c : Nat) (f : Ctx → Ctx) : (modCtx s c f).hdm = s.hdm := by unfold modCtx; split <;> rfl
@[simp] theorem modCtx_mgmt (s : State) (c : Nat) (f : Ctx → Ctx) : (modCtx s c f).mgmt = s.mgmt := by unfold modCtx; split <;> rfl
@[simp] theorem modCtx_moves (s : State) (c : Nat) (f : Ctx → Ctx) : (modCtx s c f).moves = s.moves := by unfold modCtx; split <;> rfl
@[simp] theorem modCtx_outbox (s : State) (c : Nat) (f : Ctx → Ctx) : (modCtx s c f).outbox = s.outbox := by unfold modCtx; split <;> rfl
@[simp] theorem modCtx_now (s : State) (c : Nat) (f : Ctx → Ctx) : (modCtx s c f).now = s.now := by unfold modCtx; split <;> rfl
@[simp] theorem modCtx_fine (s : State) (c : Nat) (f : Ctx → Ctx) : (modCtx s c f).fine = s.fine := by unfold modCtx; split <;> rfl
@[simp] theorem modCtx_freeCount (s : State) (c : Nat) (f : Ctx → Ctx) : (modCtx s c f).freeCount = s.freeCount := by unfold modCtx; split <;> rfl
@[simp] theorem modCtx_pending (s : State) (c : Nat) (f : Ctx → Ctx) : (modCtx s c f).pending = s.pending := by unfold modCtx; split <;> rfl

@[simp] theorem modPort_pages (s : State) (p : Nat) (f : Port → Port) : (modPort s p f).pages = s.pages := rfl
@[simp] theorem modPort_queues (s : State) (p : Nat) (f : Port → Port) : (modPort s p f).queues = s.queues := rfl
@[simp] theorem modPort_cores (s : State) (p : Nat) (f : Port → Port) : (modPort s p f).cores = s.cores := rfl
@[simp] theorem modPort_ctxs (s : State) (p : Nat) (f : Port → Port) : (modPort s p f).ctxs = s.ctxs := rfl
@[simp] theorem modPort_store (s : State) (p : Nat) (f : Port → Port) : (modPort s p f).store = s.store := rfl
@[simp] theorem modPort_head (s : State) (p : Nat) (f : Port → Port) : (modPort s p f).head = s.head := rfl
@[simp] theorem modPort_tally (s : State) (p : Nat) (f : Port → Port) : (modPort s p f).tally = s.tally := rfl
@[simp] theorem modPort_step (s : State) (p : Nat) (f : Port → Port) : (modPort s p f).step = s.step := rfl
@[simp] theorem modPort_withheld (s : State) (p : Nat) (f : Port → Port) : (modPort s p f).withheld = s.withheld := rfl
@[simp] theorem modPort_risk (s : State) (p : Nat) (f : Port → Port) : (modPort s p f).risk = s.risk := rfl
@[simp] theorem modPort_secure (s : State) (p : Nat) (f : Port → Port) : (modPort s p f).secure = s.secure := rfl
@[simp] theorem modPort_pegs (s : State) (p : Nat) (f : Port → Port) : (modPort s p f).pegs = s.pegs := rfl
@[simp] theorem modPort_pegCount (s : State) (p : Nat) (f : Port → Port) : (modPort s p f).pegCount = s.pegCount := rfl
@[simp] theorem modPort_pegOrigin (s : State) (p : Nat) (f : Port → Port) : (modPort s p f).pegOrigin = s.pegOrigin := rfl
@[simp] theorem modPort_mesh (s : State) (p : Nat) (f : Port → Port) : (modPort s p f).mesh = s.mesh := rfl
@[simp] theorem modPort_power (s : State) (p : Nat) (f : Port → Port) : (modPort s p f).power = s.power := rfl
@[simp] theorem modPort_hdm (s : State) (p : Nat) (f : Port → Port) : (modPort s p f).hdm = s.hdm := rfl
@[simp] theorem modPort_mgmt (s : State) (p : Nat) (f : Port → Port) : (modPort s p f).mgmt = s.mgmt := rfl
@[simp] theorem modPort_moves (s : State) (p : Nat) (f : Port → Port) : (modPort s p f).moves = s.moves := rfl
@[simp] theorem modPort_outbox (s : State) (p : Nat) (f : Port → Port) : (modPort s p f).outbox = s.outbox := rfl
@[simp] theorem modPort_now (s : State) (p : Nat) (f : Port → Port) : (modPort s p f).now = s.now := rfl
@[simp] theorem modPort_fine (s : State) (p : Nat) (f : Port → Port) : (modPort s p f).fine = s.fine := rfl
@[simp] theorem modPort_freeCount (s : State) (p : Nat) (f : Port → Port) : (modPort s p f).freeCount = s.freeCount := rfl
@[simp] theorem modPort_pending (s : State) (p : Nat) (f : Port → Port) : (modPort s p f).pending = s.pending := rfl

@[simp] theorem emit_pages (s : State) (o : Out) : (emit s o).pages = s.pages := rfl
@[simp] theorem emit_queues (s : State) (o : Out) : (emit s o).queues = s.queues := rfl
@[simp] theorem emit_cores (s : State) (o : Out) : (emit s o).cores = s.cores := rfl
@[simp] theorem emit_ctxs (s : State) (o : Out) : (emit s o).ctxs = s.ctxs := rfl
@[simp] theorem emit_store (s : State) (o : Out) : (emit s o).store = s.store := rfl
@[simp] theorem emit_head (s : State) (o : Out) : (emit s o).head = s.head := rfl
@[simp] theorem emit_tally (s : State) (o : Out) : (emit s o).tally = s.tally := rfl
@[simp] theorem emit_ports (s : State) (o : Out) : (emit s o).ports = s.ports := rfl
@[simp] theorem emit_step (s : State) (o : Out) : (emit s o).step = s.step := rfl
@[simp] theorem emit_withheld (s : State) (o : Out) : (emit s o).withheld = s.withheld := rfl
@[simp] theorem emit_risk (s : State) (o : Out) : (emit s o).risk = s.risk := rfl
@[simp] theorem emit_secure (s : State) (o : Out) : (emit s o).secure = s.secure := rfl
@[simp] theorem emit_pegs (s : State) (o : Out) : (emit s o).pegs = s.pegs := rfl
@[simp] theorem emit_pegCount (s : State) (o : Out) : (emit s o).pegCount = s.pegCount := rfl
@[simp] theorem emit_pegOrigin (s : State) (o : Out) : (emit s o).pegOrigin = s.pegOrigin := rfl
@[simp] theorem emit_mesh (s : State) (o : Out) : (emit s o).mesh = s.mesh := rfl
@[simp] theorem emit_power (s : State) (o : Out) : (emit s o).power = s.power := rfl
@[simp] theorem emit_hdm (s : State) (o : Out) : (emit s o).hdm = s.hdm := rfl
@[simp] theorem emit_mgmt (s : State) (o : Out) : (emit s o).mgmt = s.mgmt := rfl
@[simp] theorem emit_moves (s : State) (o : Out) : (emit s o).moves = s.moves := rfl
@[simp] theorem emit_now (s : State) (o : Out) : (emit s o).now = s.now := rfl
@[simp] theorem emit_fine (s : State) (o : Out) : (emit s o).fine = s.fine := rfl
@[simp] theorem emit_freeCount (s : State) (o : Out) : (emit s o).freeCount = s.freeCount := rfl
@[simp] theorem emit_pending (s : State) (o : Out) : (emit s o).pending = s.pending := rfl

@[simp] theorem hostStore_pages (s : State) (a : Nat) (bs : List Byte) : (hostStore s a bs).pages = s.pages := rfl
@[simp] theorem hostStore_queues (s : State) (a : Nat) (bs : List Byte) : (hostStore s a bs).queues = s.queues := rfl
@[simp] theorem hostStore_cores (s : State) (a : Nat) (bs : List Byte) : (hostStore s a bs).cores = s.cores := rfl
@[simp] theorem hostStore_ctxs (s : State) (a : Nat) (bs : List Byte) : (hostStore s a bs).ctxs = s.ctxs := rfl
@[simp] theorem hostStore_head (s : State) (a : Nat) (bs : List Byte) : (hostStore s a bs).head = s.head := rfl
@[simp] theorem hostStore_tally (s : State) (a : Nat) (bs : List Byte) : (hostStore s a bs).tally = s.tally := rfl
@[simp] theorem hostStore_ports (s : State) (a : Nat) (bs : List Byte) : (hostStore s a bs).ports = s.ports := rfl
@[simp] theorem hostStore_step (s : State) (a : Nat) (bs : List Byte) : (hostStore s a bs).step = s.step := rfl
@[simp] theorem hostStore_withheld (s : State) (a : Nat) (bs : List Byte) : (hostStore s a bs).withheld = s.withheld := rfl
@[simp] theorem hostStore_risk (s : State) (a : Nat) (bs : List Byte) : (hostStore s a bs).risk = s.risk := rfl
@[simp] theorem hostStore_secure (s : State) (a : Nat) (bs : List Byte) : (hostStore s a bs).secure = s.secure := rfl
@[simp] theorem hostStore_pegs (s : State) (a : Nat) (bs : List Byte) : (hostStore s a bs).pegs = s.pegs := rfl
@[simp] theorem hostStore_pegCount (s : State) (a : Nat) (bs : List Byte) : (hostStore s a bs).pegCount = s.pegCount := rfl
@[simp] theorem hostStore_pegOrigin (s : State) (a : Nat) (bs : List Byte) : (hostStore s a bs).pegOrigin = s.pegOrigin := rfl
@[simp] theorem hostStore_mesh (s : State) (a : Nat) (bs : List Byte) : (hostStore s a bs).mesh = s.mesh := rfl
@[simp] theorem hostStore_power (s : State) (a : Nat) (bs : List Byte) : (hostStore s a bs).power = s.power := rfl
@[simp] theorem hostStore_hdm (s : State) (a : Nat) (bs : List Byte) : (hostStore s a bs).hdm = s.hdm := rfl
@[simp] theorem hostStore_mgmt (s : State) (a : Nat) (bs : List Byte) : (hostStore s a bs).mgmt = s.mgmt := rfl
@[simp] theorem hostStore_moves (s : State) (a : Nat) (bs : List Byte) : (hostStore s a bs).moves = s.moves := rfl
@[simp] theorem hostStore_outbox (s : State) (a : Nat) (bs : List Byte) : (hostStore s a bs).outbox = s.outbox := rfl
@[simp] theorem hostStore_now (s : State) (a : Nat) (bs : List Byte) : (hostStore s a bs).now = s.now := rfl
@[simp] theorem hostStore_fine (s : State) (a : Nat) (bs : List Byte) : (hostStore s a bs).fine = s.fine := rfl
@[simp] theorem hostStore_freeCount (s : State) (a : Nat) (bs : List Byte) : (hostStore s a bs).freeCount = s.freeCount := rfl
@[simp] theorem hostStore_pending (s : State) (a : Nat) (bs : List Byte) : (hostStore s a bs).pending = s.pending := rfl

@[simp] theorem scratchSplice_pages (s : State) (key n : Nat) (src : Mem) (stained : Bool) : (scratchSplice s key n src stained).pages = s.pages := by unfold scratchSplice; split <;> rfl
@[simp] theorem scratchSplice_queues (s : State) (key n : Nat) (src : Mem) (stained : Bool) : (scratchSplice s key n src stained).queues = s.queues := by unfold scratchSplice; split <;> rfl
@[simp] theorem scratchSplice_cores (s : State) (key n : Nat) (src : Mem) (stained : Bool) : (scratchSplice s key n src stained).cores = s.cores := by unfold scratchSplice; split <;> rfl
@[simp] theorem scratchSplice_ctxs (s : State) (key n : Nat) (src : Mem) (stained : Bool) : (scratchSplice s key n src stained).ctxs = s.ctxs := by unfold scratchSplice; split <;> rfl
@[simp] theorem scratchSplice_head (s : State) (key n : Nat) (src : Mem) (stained : Bool) : (scratchSplice s key n src stained).head = s.head := by unfold scratchSplice; split <;> rfl
@[simp] theorem scratchSplice_tally (s : State) (key n : Nat) (src : Mem) (stained : Bool) : (scratchSplice s key n src stained).tally = s.tally := by unfold scratchSplice; split <;> rfl
@[simp] theorem scratchSplice_ports (s : State) (key n : Nat) (src : Mem) (stained : Bool) : (scratchSplice s key n src stained).ports = s.ports := by unfold scratchSplice; split <;> rfl
@[simp] theorem scratchSplice_step (s : State) (key n : Nat) (src : Mem) (stained : Bool) : (scratchSplice s key n src stained).step = s.step := by unfold scratchSplice; split <;> rfl
@[simp] theorem scratchSplice_withheld (s : State) (key n : Nat) (src : Mem) (stained : Bool) : (scratchSplice s key n src stained).withheld = s.withheld := by unfold scratchSplice; split <;> rfl
@[simp] theorem scratchSplice_risk (s : State) (key n : Nat) (src : Mem) (stained : Bool) : (scratchSplice s key n src stained).risk = s.risk := by unfold scratchSplice; split <;> rfl
@[simp] theorem scratchSplice_secure (s : State) (key n : Nat) (src : Mem) (stained : Bool) : (scratchSplice s key n src stained).secure = s.secure := by unfold scratchSplice; split <;> rfl
@[simp] theorem scratchSplice_pegs (s : State) (key n : Nat) (src : Mem) (stained : Bool) : (scratchSplice s key n src stained).pegs = s.pegs := by unfold scratchSplice; split <;> rfl
@[simp] theorem scratchSplice_pegCount (s : State) (key n : Nat) (src : Mem) (stained : Bool) : (scratchSplice s key n src stained).pegCount = s.pegCount := by unfold scratchSplice; split <;> rfl
@[simp] theorem scratchSplice_pegOrigin (s : State) (key n : Nat) (src : Mem) (stained : Bool) : (scratchSplice s key n src stained).pegOrigin = s.pegOrigin := by unfold scratchSplice; split <;> rfl
@[simp] theorem scratchSplice_mesh (s : State) (key n : Nat) (src : Mem) (stained : Bool) : (scratchSplice s key n src stained).mesh = s.mesh := by unfold scratchSplice; split <;> rfl
@[simp] theorem scratchSplice_power (s : State) (key n : Nat) (src : Mem) (stained : Bool) : (scratchSplice s key n src stained).power = s.power := by unfold scratchSplice; split <;> rfl
@[simp] theorem scratchSplice_hdm (s : State) (key n : Nat) (src : Mem) (stained : Bool) : (scratchSplice s key n src stained).hdm = s.hdm := by unfold scratchSplice; split <;> rfl
@[simp] theorem scratchSplice_mgmt (s : State) (key n : Nat) (src : Mem) (stained : Bool) : (scratchSplice s key n src stained).mgmt = s.mgmt := by unfold scratchSplice; split <;> rfl
@[simp] theorem scratchSplice_moves (s : State) (key n : Nat) (src : Mem) (stained : Bool) : (scratchSplice s key n src stained).moves = s.moves := by unfold scratchSplice; split <;> rfl
@[simp] theorem scratchSplice_outbox (s : State) (key n : Nat) (src : Mem) (stained : Bool) : (scratchSplice s key n src stained).outbox = s.outbox := by unfold scratchSplice; split <;> rfl
@[simp] theorem scratchSplice_now (s : State) (key n : Nat) (src : Mem) (stained : Bool) : (scratchSplice s key n src stained).now = s.now := by unfold scratchSplice; split <;> rfl
@[simp] theorem scratchSplice_fine (s : State) (key n : Nat) (src : Mem) (stained : Bool) : (scratchSplice s key n src stained).fine = s.fine := by unfold scratchSplice; split <;> rfl
@[simp] theorem scratchSplice_freeCount (s : State) (key n : Nat) (src : Mem) (stained : Bool) : (scratchSplice s key n src stained).freeCount = s.freeCount := by unfold scratchSplice; split <;> rfl
@[simp] theorem scratchSplice_pending (s : State) (key n : Nat) (src : Mem) (stained : Bool) : (scratchSplice s key n src stained).pending = s.pending := by unfold scratchSplice; split <;> rfl

@[simp] theorem suspectStep_pages (s : State) (code : Nat) : (suspectStep s code).pages = s.pages := rfl
@[simp] theorem suspectStep_queues (s : State) (code : Nat) : (suspectStep s code).queues = s.queues := rfl
@[simp] theorem suspectStep_cores (s : State) (code : Nat) : (suspectStep s code).cores = s.cores := rfl
@[simp] theorem suspectStep_ctxs (s : State) (code : Nat) : (suspectStep s code).ctxs = s.ctxs := rfl
@[simp] theorem suspectStep_store (s : State) (code : Nat) : (suspectStep s code).store = s.store := rfl
@[simp] theorem suspectStep_head (s : State) (code : Nat) : (suspectStep s code).head = s.head := rfl
@[simp] theorem suspectStep_tally (s : State) (code : Nat) : (suspectStep s code).tally = s.tally := rfl
@[simp] theorem suspectStep_ports (s : State) (code : Nat) : (suspectStep s code).ports = s.ports := rfl
@[simp] theorem suspectStep_withheld (s : State) (code : Nat) : (suspectStep s code).withheld = s.withheld := rfl
@[simp] theorem suspectStep_risk (s : State) (code : Nat) : (suspectStep s code).risk = s.risk := rfl
@[simp] theorem suspectStep_secure (s : State) (code : Nat) : (suspectStep s code).secure = s.secure := rfl
@[simp] theorem suspectStep_pegs (s : State) (code : Nat) : (suspectStep s code).pegs = s.pegs := rfl
@[simp] theorem suspectStep_pegCount (s : State) (code : Nat) : (suspectStep s code).pegCount = s.pegCount := rfl
@[simp] theorem suspectStep_pegOrigin (s : State) (code : Nat) : (suspectStep s code).pegOrigin = s.pegOrigin := rfl
@[simp] theorem suspectStep_mesh (s : State) (code : Nat) : (suspectStep s code).mesh = s.mesh := rfl
@[simp] theorem suspectStep_power (s : State) (code : Nat) : (suspectStep s code).power = s.power := rfl
@[simp] theorem suspectStep_hdm (s : State) (code : Nat) : (suspectStep s code).hdm = s.hdm := rfl
@[simp] theorem suspectStep_mgmt (s : State) (code : Nat) : (suspectStep s code).mgmt = s.mgmt := rfl
@[simp] theorem suspectStep_moves (s : State) (code : Nat) : (suspectStep s code).moves = s.moves := rfl
@[simp] theorem suspectStep_outbox (s : State) (code : Nat) : (suspectStep s code).outbox = s.outbox := rfl
@[simp] theorem suspectStep_now (s : State) (code : Nat) : (suspectStep s code).now = s.now := rfl
@[simp] theorem suspectStep_fine (s : State) (code : Nat) : (suspectStep s code).fine = s.fine := rfl
@[simp] theorem suspectStep_freeCount (s : State) (code : Nat) : (suspectStep s code).freeCount = s.freeCount := rfl
@[simp] theorem suspectStep_pending (s : State) (code : Nat) : (suspectStep s code).pending = s.pending := rfl

@[simp] theorem tallyCount_pages (s : State) (kind unit : Nat) : (tallyCount s kind unit).pages = s.pages := rfl
@[simp] theorem tallyCount_queues (s : State) (kind unit : Nat) : (tallyCount s kind unit).queues = s.queues := rfl
@[simp] theorem tallyCount_cores (s : State) (kind unit : Nat) : (tallyCount s kind unit).cores = s.cores := rfl
@[simp] theorem tallyCount_ctxs (s : State) (kind unit : Nat) : (tallyCount s kind unit).ctxs = s.ctxs := rfl
@[simp] theorem tallyCount_store (s : State) (kind unit : Nat) : (tallyCount s kind unit).store = s.store := rfl
@[simp] theorem tallyCount_head (s : State) (kind unit : Nat) : (tallyCount s kind unit).head = s.head := rfl
@[simp] theorem tallyCount_ports (s : State) (kind unit : Nat) : (tallyCount s kind unit).ports = s.ports := rfl
@[simp] theorem tallyCount_step (s : State) (kind unit : Nat) : (tallyCount s kind unit).step = s.step := rfl
@[simp] theorem tallyCount_withheld (s : State) (kind unit : Nat) : (tallyCount s kind unit).withheld = s.withheld := rfl
@[simp] theorem tallyCount_risk (s : State) (kind unit : Nat) : (tallyCount s kind unit).risk = s.risk := rfl
@[simp] theorem tallyCount_secure (s : State) (kind unit : Nat) : (tallyCount s kind unit).secure = s.secure := rfl
@[simp] theorem tallyCount_pegs (s : State) (kind unit : Nat) : (tallyCount s kind unit).pegs = s.pegs := rfl
@[simp] theorem tallyCount_pegCount (s : State) (kind unit : Nat) : (tallyCount s kind unit).pegCount = s.pegCount := rfl
@[simp] theorem tallyCount_pegOrigin (s : State) (kind unit : Nat) : (tallyCount s kind unit).pegOrigin = s.pegOrigin := rfl
@[simp] theorem tallyCount_mesh (s : State) (kind unit : Nat) : (tallyCount s kind unit).mesh = s.mesh := rfl
@[simp] theorem tallyCount_power (s : State) (kind unit : Nat) : (tallyCount s kind unit).power = s.power := rfl
@[simp] theorem tallyCount_hdm (s : State) (kind unit : Nat) : (tallyCount s kind unit).hdm = s.hdm := rfl
@[simp] theorem tallyCount_mgmt (s : State) (kind unit : Nat) : (tallyCount s kind unit).mgmt = s.mgmt := rfl
@[simp] theorem tallyCount_moves (s : State) (kind unit : Nat) : (tallyCount s kind unit).moves = s.moves := rfl
@[simp] theorem tallyCount_outbox (s : State) (kind unit : Nat) : (tallyCount s kind unit).outbox = s.outbox := rfl
@[simp] theorem tallyCount_now (s : State) (kind unit : Nat) : (tallyCount s kind unit).now = s.now := rfl
@[simp] theorem tallyCount_fine (s : State) (kind unit : Nat) : (tallyCount s kind unit).fine = s.fine := rfl
@[simp] theorem tallyCount_freeCount (s : State) (kind unit : Nat) : (tallyCount s kind unit).freeCount = s.freeCount := rfl
@[simp] theorem tallyCount_pending (s : State) (kind unit : Nat) : (tallyCount s kind unit).pending = s.pending := rfl

/-- A fold of updates that each leave a field as it was leaves it as it was. -/
theorem foldl_keeps {α β : Type} (proj : State → α) (f : State → β → State) (h : ∀ s y, proj (f s y) = proj s) : ∀ (l : List β) (s : State), proj (l.foldl f s) = proj s
  | [], _ => rfl
  | y :: l, s => by rw [List.foldl_cons, foldl_keeps proj f h l, h]
@[simp] theorem ctxSplice_pages (s : State) (c : Nat) (x : Ctx) (a n : Nat) (src : Mem) (stained : Bool) : (ctxSplice s c x a n src stained).pages = s.pages := by
  refine foldl_keeps State.pages _ (fun s y => ?_) _ s; dsimp only; (repeat' split) <;> simp
@[simp] theorem ctxSplice_queues (s : State) (c : Nat) (x : Ctx) (a n : Nat) (src : Mem) (stained : Bool) : (ctxSplice s c x a n src stained).queues = s.queues := by
  refine foldl_keeps State.queues _ (fun s y => ?_) _ s; dsimp only; (repeat' split) <;> simp
@[simp] theorem ctxSplice_cores (s : State) (c : Nat) (x : Ctx) (a n : Nat) (src : Mem) (stained : Bool) : (ctxSplice s c x a n src stained).cores = s.cores := by
  refine foldl_keeps State.cores _ (fun s y => ?_) _ s; dsimp only; (repeat' split) <;> simp
@[simp] theorem ctxSplice_head (s : State) (c : Nat) (x : Ctx) (a n : Nat) (src : Mem) (stained : Bool) : (ctxSplice s c x a n src stained).head = s.head := by
  refine foldl_keeps State.head _ (fun s y => ?_) _ s; dsimp only; (repeat' split) <;> simp
@[simp] theorem ctxSplice_tally (s : State) (c : Nat) (x : Ctx) (a n : Nat) (src : Mem) (stained : Bool) : (ctxSplice s c x a n src stained).tally = s.tally := by
  refine foldl_keeps State.tally _ (fun s y => ?_) _ s; dsimp only; (repeat' split) <;> simp
@[simp] theorem ctxSplice_ports (s : State) (c : Nat) (x : Ctx) (a n : Nat) (src : Mem) (stained : Bool) : (ctxSplice s c x a n src stained).ports = s.ports := by
  refine foldl_keeps State.ports _ (fun s y => ?_) _ s; dsimp only; (repeat' split) <;> simp
@[simp] theorem ctxSplice_step (s : State) (c : Nat) (x : Ctx) (a n : Nat) (src : Mem) (stained : Bool) : (ctxSplice s c x a n src stained).step = s.step := by
  refine foldl_keeps State.step _ (fun s y => ?_) _ s; dsimp only; (repeat' split) <;> simp
@[simp] theorem ctxSplice_withheld (s : State) (c : Nat) (x : Ctx) (a n : Nat) (src : Mem) (stained : Bool) : (ctxSplice s c x a n src stained).withheld = s.withheld := by
  refine foldl_keeps State.withheld _ (fun s y => ?_) _ s; dsimp only; (repeat' split) <;> simp
@[simp] theorem ctxSplice_risk (s : State) (c : Nat) (x : Ctx) (a n : Nat) (src : Mem) (stained : Bool) : (ctxSplice s c x a n src stained).risk = s.risk := by
  refine foldl_keeps State.risk _ (fun s y => ?_) _ s; dsimp only; (repeat' split) <;> simp
@[simp] theorem ctxSplice_secure (s : State) (c : Nat) (x : Ctx) (a n : Nat) (src : Mem) (stained : Bool) : (ctxSplice s c x a n src stained).secure = s.secure := by
  refine foldl_keeps State.secure _ (fun s y => ?_) _ s; dsimp only; (repeat' split) <;> simp
@[simp] theorem ctxSplice_pegs (s : State) (c : Nat) (x : Ctx) (a n : Nat) (src : Mem) (stained : Bool) : (ctxSplice s c x a n src stained).pegs = s.pegs := by
  refine foldl_keeps State.pegs _ (fun s y => ?_) _ s; dsimp only; (repeat' split) <;> simp
@[simp] theorem ctxSplice_pegCount (s : State) (c : Nat) (x : Ctx) (a n : Nat) (src : Mem) (stained : Bool) : (ctxSplice s c x a n src stained).pegCount = s.pegCount := by
  refine foldl_keeps State.pegCount _ (fun s y => ?_) _ s; dsimp only; (repeat' split) <;> simp
@[simp] theorem ctxSplice_pegOrigin (s : State) (c : Nat) (x : Ctx) (a n : Nat) (src : Mem) (stained : Bool) : (ctxSplice s c x a n src stained).pegOrigin = s.pegOrigin := by
  refine foldl_keeps State.pegOrigin _ (fun s y => ?_) _ s; dsimp only; (repeat' split) <;> simp
@[simp] theorem ctxSplice_mesh (s : State) (c : Nat) (x : Ctx) (a n : Nat) (src : Mem) (stained : Bool) : (ctxSplice s c x a n src stained).mesh = s.mesh := by
  refine foldl_keeps State.mesh _ (fun s y => ?_) _ s; dsimp only; (repeat' split) <;> simp
@[simp] theorem ctxSplice_power (s : State) (c : Nat) (x : Ctx) (a n : Nat) (src : Mem) (stained : Bool) : (ctxSplice s c x a n src stained).power = s.power := by
  refine foldl_keeps State.power _ (fun s y => ?_) _ s; dsimp only; (repeat' split) <;> simp
@[simp] theorem ctxSplice_hdm (s : State) (c : Nat) (x : Ctx) (a n : Nat) (src : Mem) (stained : Bool) : (ctxSplice s c x a n src stained).hdm = s.hdm := by
  refine foldl_keeps State.hdm _ (fun s y => ?_) _ s; dsimp only; (repeat' split) <;> simp
@[simp] theorem ctxSplice_mgmt (s : State) (c : Nat) (x : Ctx) (a n : Nat) (src : Mem) (stained : Bool) : (ctxSplice s c x a n src stained).mgmt = s.mgmt := by
  refine foldl_keeps State.mgmt _ (fun s y => ?_) _ s; dsimp only; (repeat' split) <;> simp
@[simp] theorem ctxSplice_moves (s : State) (c : Nat) (x : Ctx) (a n : Nat) (src : Mem) (stained : Bool) : (ctxSplice s c x a n src stained).moves = s.moves := by
  refine foldl_keeps State.moves _ (fun s y => ?_) _ s; dsimp only; (repeat' split) <;> simp
@[simp] theorem ctxSplice_outbox (s : State) (c : Nat) (x : Ctx) (a n : Nat) (src : Mem) (stained : Bool) : (ctxSplice s c x a n src stained).outbox = s.outbox := by
  refine foldl_keeps State.outbox _ (fun s y => ?_) _ s; dsimp only; (repeat' split) <;> simp
@[simp] theorem ctxSplice_now (s : State) (c : Nat) (x : Ctx) (a n : Nat) (src : Mem) (stained : Bool) : (ctxSplice s c x a n src stained).now = s.now := by
  refine foldl_keeps State.now _ (fun s y => ?_) _ s; dsimp only; (repeat' split) <;> simp
@[simp] theorem ctxSplice_fine (s : State) (c : Nat) (x : Ctx) (a n : Nat) (src : Mem) (stained : Bool) : (ctxSplice s c x a n src stained).fine = s.fine := by
  refine foldl_keeps State.fine _ (fun s y => ?_) _ s; dsimp only; (repeat' split) <;> simp
@[simp] theorem ctxSplice_freeCount (s : State) (c : Nat) (x : Ctx) (a n : Nat) (src : Mem) (stained : Bool) : (ctxSplice s c x a n src stained).freeCount = s.freeCount := by
  refine foldl_keeps State.freeCount _ (fun s y => ?_) _ s; dsimp only; (repeat' split) <;> simp
@[simp] theorem ctxSplice_pending (s : State) (c : Nat) (x : Ctx) (a n : Nat) (src : Mem) (stained : Bool) : (ctxSplice s c x a n src stained).pending = s.pending := by
  refine foldl_keeps State.pending _ (fun s y => ?_) _ s; dsimp only; (repeat' split) <;> simp

end Sys2Proof.Machine
end

