-- ==== Sys2Proof/Laws/Tables.lean ====
section
/-!
SUPPORT. Tables.lean: the laws of sparse tables and memories: a read after a write, and the canonical form.
-/
namespace Sys2Proof.Machine

variable {α : Type}

/-! ### Ordered lists -/

theorem mem_insertKey (x y : Nat) (l : List Nat) : y ∈ insertKey x l ↔ y = x ∨ y ∈ l := by
  induction l with
  | nil => simp [insertKey]
  | cons z r ih =>
    simp only [insertKey]
    split
    · simp
    · split
      · subst x; simp
      · simp [ih, or_left_comm]

@[simp] theorem mem_sortDistinct (y : Nat) (l : List Nat) : y ∈ sortDistinct l ↔ y ∈ l := by
  induction l with
  | nil => simp [sortDistinct]
  | cons x r ih => exact (mem_insertKey x y _).trans (by rw [List.mem_cons]; exact or_congr_right ih)

theorem insertKey_rising (x : Nat) (l : List Nat) (h : l.Pairwise (· < ·)) : (insertKey x l).Pairwise (· < ·) := by
  induction l with
  | nil => simp [insertKey]
  | cons z r ih =>
    simp only [insertKey]
    have hz := List.pairwise_cons.1 h
    split
    · rename_i hx
      refine List.pairwise_cons.2 ⟨fun a ha => ?_, h⟩
      rcases List.mem_cons.1 ha with rfl | ha
      · exact hx
      · exact Nat.lt_trans hx (hz.1 a ha)
    · split
      · exact h
      · refine List.pairwise_cons.2 ⟨fun a ha => ?_, ih hz.2⟩
        rcases (mem_insertKey x a r).1 ha with rfl | ha
        · omega
        · exact hz.1 a ha

/-- A list put in order rises strictly. -/
theorem sortDistinct_rising (l : List Nat) : (sortDistinct l).Pairwise (· < ·) := by
  induction l with
  | nil => simp [sortDistinct]
  | cons x r ih => exact insertKey_rising x _ ih

theorem insertBy_perm (le : α → α → Bool) (x : α) (l : List α) : (insertBy le x l).Perm (x :: l) := by
  induction l with
  | nil => exact List.Perm.refl _
  | cons y r ih =>
    simp only [insertBy]
    split
    · exact List.Perm.refl _
    · exact (ih.cons y).trans (List.Perm.swap x y r)

/-- Ordering a list keeps its entries. -/
theorem sortBy_perm (le : α → α → Bool) (l : List α) : (sortBy le l).Perm l := by
  induction l with
  | nil => exact List.Perm.refl _
  | cons x r ih => exact (insertBy_perm le x _).trans (ih.cons x)

/-! ### Reads after writes -/

theorem tFind_tIns (t : Tab α) (k j : Nat) (v : α) : tFind (tIns t k v) j = if j = k then some v else tFind t j := by
  induction t with
  | nil => by_cases h : k = j <;> simp [tIns, tFind, h, eq_comm]
  | cons x r ih =>
    obtain ⟨i, w⟩ := x
    simp only [tIns]
    split
    · by_cases h : k = j <;> simp [tFind, h, eq_comm]
    · split
      · subst i; by_cases h : k = j <;> simp [tFind, h, eq_comm]
      · rename_i h1 h2
        simp only [tFind, ih]
        by_cases h : i = j
        · subst h; simp [h2]
        · simp [h]

theorem tFind_filter (t : Tab α) (p : Nat → Bool) (j : Nat) : tFind (t.filter (fun e => p e.1)) j = if p j then tFind t j else none := by
  induction t with
  | nil => simp [tFind]
  | cons x r ih =>
    obtain ⟨i, w⟩ := x
    rw [List.filter_cons]
    by_cases hi : p i = true
    · by_cases h : i = j
      · subst h; simp [hi, tFind]
      · simp [hi, tFind, h, ih]
    · by_cases h : i = j
      · subst h; simp [hi, ih]
      · simp [hi, tFind, h, ih]

theorem tFind_tDel (t : Tab α) (k j : Nat) : tFind (tDel t k) j = if j = k then none else tFind t j := by
  have h := tFind_filter t (fun e => decide (e ≠ k)) j
  unfold tDel
  rw [h]
  by_cases e : j = k <;> simp [e]

theorem tGet_tIns (d : α) (t : Tab α) (k j : Nat) (v : α) : tGet d (tIns t k v) j = if j = k then v else tGet d t j := by
  unfold tGet; rw [tFind_tIns]; split <;> rfl

theorem tGet_tPut [DecidableEq α] (d : α) (t : Tab α) (k j : Nat) (v : α) : tGet d (tPut d t k v) j = if j = k then v else tGet d t j := by
  unfold tPut
  split
  · rename_i h; subst h; unfold tGet; rw [tFind_tDel]; split <;> rfl
  · exact tGet_tIns d t k j v

theorem tFind_map (t : Tab α) (f : α → α) (j : Nat) : tFind (t.map (fun x => (x.1, f x.2))) j = (tFind t j).map f := by
  induction t with
  | nil => rfl
  | cons x r ih => obtain ⟨i, w⟩ := x; by_cases h : i = j <;> simp [tFind, h, ih]

theorem tFind_append (a b : Tab α) (j : Nat) : tFind (a ++ b) j = (tFind a j).or (tFind b j) := by
  induction a with
  | nil => simp [tFind]
  | cons x r ih => obtain ⟨i, w⟩ := x; by_cases h : i = j <;> simp [tFind, h, ih]

theorem tFind_shift (t : Tab α) (n j : Nat) : tFind (t.map (fun x => (x.1 + n, x.2))) j = if n ≤ j then tFind t (j - n) else none := by
  induction t with
  | nil => simp [tFind]
  | cons x r ih =>
    obtain ⟨i, w⟩ := x
    simp only [List.map_cons, tFind, ih]
    by_cases h : i + n = j
    · have : i = j - n := by omega
      have : n ≤ j := by omega
      simp [*]
    · by_cases hn : n ≤ j
      · have : i ≠ j - n := by omega
        simp [*]
      · simp [*]

theorem memByte_memPut (m : Mem) (a b : Nat) (v : Byte) : memByte (memPut m a v) b = if b = a then v else memByte m b := tGet_tPut 0 m a b v

theorem memByte_memStore (bs : List Byte) : ∀ (m : Mem) (a b : Nat),
    memByte (memStore m a bs) b = if a ≤ b ∧ b < a + bs.length then bs.getD (b - a) 0 else memByte m b := by
  induction bs with
  | nil =>
    intro m a b
    have h : ¬ (a ≤ b ∧ b < a + ([] : List Byte).length) := by simp only [List.length_nil]; omega
    rw [if_neg h]; rfl
  | cons v r ih =>
    intro m a b
    simp only [memStore, ih, memByte_memPut, List.length_cons]
    by_cases h : b = a
    · subst h
      have h1 : ¬ (b + 1 ≤ b ∧ b < b + 1 + r.length) := by omega
      have h2 : b ≤ b ∧ b < b + (r.length + 1) := by omega
      simp [h1, h2]
    · by_cases h1 : a + 1 ≤ b ∧ b < a + 1 + r.length
      · have h2 : a ≤ b ∧ b < a + (r.length + 1) := by omega
        have h3 : b - a = (b - (a + 1)) + 1 := by omega
        simp [h1, h2, h3]
      · have h2 : ¬ (a ≤ b ∧ b < a + (r.length + 1)) := by omega
        rw [if_neg h1, if_neg h2, if_neg h]

/-- What memSplice does, byte by byte: the range takes the source's bytes, every other byte stays. -/
theorem memByte_memSplice (m : Mem) (a n : Nat) (src : Mem) (b : Nat) :
    memByte (memSplice m a n src) b = if a ≤ b ∧ b < a + n then memByte src (b - a) else memByte m b := by
  unfold memByte tGet memSplice
  rw [tFind_append, tFind_append]
  have h1 := tFind_filter m (fun k => decide (k < a)) b
  have h2 := tFind_filter m (fun k => decide (a + n ≤ k)) b
  have h3 := tFind_shift (src.filter (fun c => decide (c.1 < n))) a b
  have h4 := tFind_filter src (fun k => decide (k < n)) (b - a)
  rw [h1, h2, h3, h4]
  by_cases hl : b < a
  · have e1 : ¬ a ≤ b := by omega
    have e2 : ¬ a + n ≤ b := by omega
    simp [hl, e1, e2]
  · have e1 : a ≤ b := by omega
    by_cases hu : b < a + n
    · have e2 : ¬ a + n ≤ b := by omega
      have e3 : b - a < n := by omega
      simp [hl, e1, e2, e3, hu]
    · have e2 : a + n ≤ b := by omega
      have e3 : ¬ b - a < n := by omega
      simp [hl, e1, e2, e3, hu]

theorem memByte_memOf (bs : List Byte) (b : Nat) : memByte (memOf bs) b = bs.getD b 0 := by
  unfold memOf
  rw [memByte_memStore]
  by_cases h : b < bs.length
  · simp [h]
  · simp [h, memByte, tGet, tFind]

/-! ### The canonical form -/

/-- Keys rising, said of neighbours pairwise. -/
theorem tSorted_iff (t : Tab α) : tSorted t = true ↔ t.Pairwise (fun x y => x.1 < y.1) := by
  induction t with
  | nil => simp [tSorted]
  | cons x r ih =>
    obtain ⟨i, w⟩ := x
    cases r with
    | nil => simp [tSorted]
    | cons y q =>
      obtain ⟨j, z⟩ := y
      simp only [tSorted, Bool.and_eq_true, decide_eq_true_eq] at ih ⊢
      rw [List.pairwise_cons]
      constructor
      · rintro ⟨h, hs⟩
        have hp := ih.mp hs
        refine ⟨fun e he => ?_, hp⟩
        rcases List.mem_cons.mp he with rfl | he
        · exact h
        · exact Nat.lt_trans h ((List.pairwise_cons.mp hp).1 e he)
      · rintro ⟨h, hp⟩
        exact ⟨h (j, z) (List.mem_cons_self ..), ih.mpr hp⟩

theorem tSorted_filter (t : Tab α) (p : Nat × α → Bool) (h : tSorted t = true) : tSorted (t.filter p) = true :=
  (tSorted_iff _).mpr (((tSorted_iff _).mp h).filter p)

theorem mem_tIns (t : Tab α) (k : Nat) (v : α) (e : Nat × α) (h : e ∈ tIns t k v) : e = (k, v) ∨ e ∈ t := by
  induction t with
  | nil => simpa [tIns] using h
  | cons x r ih =>
    obtain ⟨i, w⟩ := x
    simp only [tIns] at h
    split at h
    · simpa using h
    · split at h
      · rcases List.mem_cons.mp h with h | h
        · exact .inl h
        · exact .inr (List.mem_cons_of_mem _ h)
      · rcases List.mem_cons.mp h with h | h
        · exact .inr (h ▸ List.mem_cons_self ..)
        · rcases ih h with h | h
          · exact .inl h
          · exact .inr (List.mem_cons_of_mem _ h)

theorem tSorted_tIns (t : Tab α) (k : Nat) (v : α) (h : tSorted t = true) : tSorted (tIns t k v) = true := by
  rw [tSorted_iff] at h ⊢
  induction t with
  | nil => simp [tIns]
  | cons x r ih =>
    obtain ⟨i, w⟩ := x
    obtain ⟨h1, h2⟩ := List.pairwise_cons.mp h
    simp only [tIns]
    split
    · rename_i hk
      refine List.pairwise_cons.mpr ⟨fun e he => ?_, h⟩
      rcases List.mem_cons.mp he with rfl | he
      · exact hk
      · exact Nat.lt_trans hk (h1 e he)
    · split
      · rename_i hk; subst hk; exact List.pairwise_cons.mpr ⟨h1, h2⟩
      · refine List.pairwise_cons.mpr ⟨fun e he => ?_, ih h2⟩
        rcases mem_tIns r k v e he with rfl | he
        · show i < k; omega
        · exact h1 e he

/-- Every write of one byte keeps the canonical form. -/
theorem wf_memPut (m : Mem) (a : Nat) (v : Byte) (h : Memory.wf m = true) : Memory.wf (memPut m a v) = true := by
  simp only [Memory.wf, Bool.and_eq_true, List.all_eq_true] at h ⊢
  unfold memPut tPut
  split
  · exact ⟨tSorted_filter _ _ h.1, fun e he => h.2 e ((List.mem_filter.mp he).1)⟩
  · rename_i hv
    refine ⟨tSorted_tIns _ _ _ h.1, fun e he => ?_⟩
    rcases mem_tIns m a v e he with rfl | he
    · simpa using hv
    · exact h.2 e he

theorem wf_memStore (bs : List Byte) : ∀ (m : Mem) (a : Nat), Memory.wf m = true → Memory.wf (memStore m a bs) = true := by
  induction bs with
  | nil => intro m a h; exact h
  | cons v r ih => intro m a h; exact ih _ _ (wf_memPut m a v h)

theorem wf_memOf (bs : List Byte) : Memory.wf (memOf bs) = true := wf_memStore bs [] 0 rfl

theorem wf_memSlice (m : Mem) (a n : Nat) (h : Memory.wf m = true) : Memory.wf (memSlice m a n) = true := by
  simp only [Memory.wf, Bool.and_eq_true, List.all_eq_true, tSorted_iff] at h ⊢
  unfold memSlice
  refine ⟨?_, ?_⟩
  · rw [List.pairwise_map]
    refine List.Pairwise.imp_of_mem ?_ (h.1.filter _)
    intro x y hx hy hxy
    have := (List.mem_filter.mp hx).2
    have := (List.mem_filter.mp hy).2
    simp at *
    omega
  · intro e he
    obtain ⟨x, hx, rfl⟩ := List.mem_map.mp he
    exact h.2 x ((List.mem_filter.mp hx).1)

theorem wf_memSplice (m : Mem) (a n : Nat) (src : Mem) (h : Memory.wf m = true) (hs : Memory.wf src = true) :
    Memory.wf (memSplice m a n src) = true := by
  simp only [Memory.wf, Bool.and_eq_true, List.all_eq_true, tSorted_iff] at h hs ⊢
  unfold memSplice
  refine ⟨?_, ?_⟩
  · rw [List.append_assoc, List.pairwise_append, List.pairwise_append, List.pairwise_map]
    refine ⟨h.1.filter _, ⟨?_, h.1.filter _, ?_⟩, ?_⟩
    · refine List.Pairwise.imp_of_mem ?_ (hs.1.filter _)
      intro x y _ _ hxy; simp at *; omega
    · intro x hx y hy
      obtain ⟨z, hz, rfl⟩ := List.mem_map.mp hx
      have := (List.mem_filter.mp hz).2
      have := (List.mem_filter.mp hy).2
      simp at *; omega
    · intro x hx y hy
      have hx := (List.mem_filter.mp hx).2
      rcases List.mem_append.mp hy with hy | hy
      · obtain ⟨z, hz, rfl⟩ := List.mem_map.mp hy
        simp at *; omega
      · have := (List.mem_filter.mp hy).2
        simp at *; omega
  · intro e he
    rcases List.mem_append.mp he with he | he
    · rcases List.mem_append.mp he with he | he
      · exact h.2 e ((List.mem_filter.mp he).1)
      · obtain ⟨x, hx, rfl⟩ := List.mem_map.mp he
        exact hs.2 x ((List.mem_filter.mp hx).1)
    · exact h.2 e ((List.mem_filter.mp he).1)

end Sys2Proof.Machine
end

