-- ==== Sys2Proof/Laws/Words.lean ====
section
/-!
SUPPORT. Laws/Words.lean: reads after writes of register words, fields, cores, threads, queues and contexts.
-/
namespace Sys2Proof.Machine

/-! ### Register words -/

theorem pageKey_inj {r p o r' p' o' : Nat} (hp : p < 64) (ho : o < 4096) (hp' : p' < 64) (ho' : o' < 4096) :
    pageKey r p o = pageKey r' p' o' ↔ r = r' ∧ p = p' ∧ o = o' := by
  unfold pageKey; omega

theorem regWord_setRegWord (s : State) {r p o r' p' o' : Nat} (w : Word) (hp : p < 64) (ho : o < 4096) (hp' : p' < 64) (ho' : o' < 4096) :
    regWord (setRegWord s r p o w) r' p' o' = if r = r' ∧ p = p' ∧ o = o' then w else regWord s r' p' o' := by
  have h := pageKey_inj (r := r) (r' := r') hp ho hp' ho'
  unfold regWord setRegWord
  simp only [tPut]
  split <;> split
  · rename_i h1 h2; obtain ⟨rfl, rfl, rfl⟩ := h2; rw [tFind_tDel]; simp [h1]
  · rename_i h1 h2; rw [tFind_tDel, if_neg (fun e => h2 (h.mp e.symm))]
  · rename_i h1 h2; rw [tFind_tIns, if_pos (h.mpr h2).symm]; rfl
  · rename_i h1 h2; rw [tFind_tIns, if_neg (fun e => h2 (h.mp e.symm))]

theorem regWord_congr {s t : State} (h : t.pages = s.pages) (r p o : Nat) : regWord t r p o = regWord s r p o := by
  unfold regWord; rw [h]

theorem regWord_setRegWord_ne (s : State) {r p o r' p' o' : Nat} (w : Word) (hp : p < 64) (ho : o < 4096) (hp' : p' < 64) (ho' : o' < 4096)
    (h : ¬(r = r' ∧ p = p' ∧ o = o')) : regWord (setRegWord s r p o w) r' p' o' = regWord s r' p' o' := by
  rw [regWord_setRegWord s w hp ho hp' ho', if_neg h]

theorem regWord_setFld (s : State) {r p r' p' o' : Nat} (f : Fld) (v : Nat) (hp : p < 64) (ho : f.off < 4096) (hp' : p' < 64) (ho' : o' < 4096) :
    regWord (setFld s r p f v) r' p' o' = if r = r' ∧ p = p' ∧ f.off = o' then withField (regWord s r p f.off) f.hi f.lo v else regWord s r' p' o' :=
  regWord_setRegWord s _ hp ho hp' ho'

/-! ### Cores and threads -/

@[simp] theorem coreAt_setCore (s : State) (a b : Nat) (c : Core) : coreAt (setCore s a c) b = if b = a then c else coreAt s b := by
  unfold coreAt setCore; exact tGet_tIns _ _ _ _ _

@[simp] theorem coreAt_modCore (s : State) (a b : Nat) (f : Core → Core) :
    coreAt (modCore s a f) b = if b = a then f (coreAt s a) else coreAt s b := by
  unfold modCore; exact coreAt_setCore s a b _

theorem coreAt_congr {s t : State} (h : t.cores = s.cores) (a : Nat) : coreAt t a = coreAt s a := by unfold coreAt; rw [h]

theorem threadAt_congr {s t : State} (h : t.cores = s.cores) (a b : Nat) : threadAt t a b = threadAt s a b := by
  unfold threadAt; rw [coreAt_congr h]

theorem threadAt_modCore (s : State) (a : Nat) (f : Core → Core) (hf : ∀ c, (f c).threads = c.threads) (b t : Nat) :
    threadAt (modCore s a f) b t = threadAt s b t := by
  unfold threadAt; rw [coreAt_modCore]; split
  · rename_i h; rw [hf, h]
  · rfl

theorem threadAt_setThread (s : State) (a t : Nat) (th : Thread) (b v : Nat) :
    threadAt (setThread s a t th) b v = if b = a ∧ v = t then th else threadAt s b v := by
  unfold threadAt setThread
  rw [coreAt_modCore]
  by_cases h : b = a
  · subst h; simp only [if_true, true_and]; rw [tGet_tIns]
  · simp [h]

theorem threadAt_modThread (s : State) (a t : Nat) (f : Thread → Thread) (b v : Nat) :
    threadAt (modThread s a t f) b v = if b = a ∧ v = t then f (threadAt s a t) else threadAt s b v := threadAt_setThread s a t _ b v

/-- A table of cores changed entry by entry. -/
theorem tGet_map {α : Type} (d : α) (g : α → α) (hd : g d = d) (t : Tab α) (k : Nat) :
    tGet d (t.map (fun c => (c.1, g c.2))) k = g (tGet d t k) := by
  unfold tGet
  induction t with
  | nil => exact hd.symm
  | cons x r ih =>
    obtain ⟨j, v⟩ := x
    simp only [List.map_cons, tFind]
    split
    · rfl
    · exact ih

/-- A property of every entry, where one entry is set to a value that has it as the old one had, or no entry. -/
theorem all_tIns {α : Type} (p : α → Bool) (t : Tab α) (k : Nat) (v : α) (h : p v = match tFind t k with | some w => p w | none => true) :
    (tIns t k v).all (fun c => p c.2) = t.all (fun c => p c.2) := by
  induction t with
  | nil => simpa [tIns, tFind] using h
  | cons x r ih =>
    obtain ⟨j, w⟩ := x
    unfold tIns
    by_cases h1 : k < j
    · rw [if_pos h1]
      simp only [tFind, if_neg (Nat.ne_of_gt h1)] at h
      rw [List.all_cons]
      cases hv : p v
      · rw [hv] at h
        have : (r.all fun c => p c.2) = false := by
          cases hr : tFind r k with
          | none => rw [hr] at h; cases h
          | some y =>
            rw [hr] at h
            have hm : ∀ (l : Tab α), tFind l k = some y → (k, y) ∈ l := by
              intro l
              induction l with
              | nil => intro e; cases e
              | cons z l ihl =>
                obtain ⟨m, n⟩ := z
                intro e
                simp only [tFind] at e
                split at e
                · rename_i hm; cases e; rw [hm]; exact List.mem_cons_self ..
                · exact List.mem_cons_of_mem _ (ihl e)
            cases hr2 : (r.all fun c => p c.2) with
            | false => rfl
            | true => exact absurd (List.all_eq_true.mp hr2 _ (hm r hr)) (by simp [← h])
        simp [this]
      · simp
    · rw [if_neg h1]
      by_cases h2 : j = k
      · rw [if_pos h2]
        simp only [tFind, if_pos h2] at h
        rw [List.all_cons, List.all_cons, h]
      · rw [if_neg h2]
        simp only [tFind, if_neg h2] at h
        rw [List.all_cons, List.all_cons, ih h]

/-! ### Queues and contexts -/

theorem queueAt_setQueue (s : State) (q r : Nat) (e : QEntry) : queueAt (setQueue s q e) r = if r = q then some e else queueAt s r := by
  unfold queueAt setQueue; exact tFind_tIns _ _ _ _

theorem queueAt_modQueue (s : State) (q r : Nat) (f : QEntry → QEntry) :
    queueAt (modQueue s q f) r = if r = q then (queueAt s q).map f else queueAt s r := by
  unfold modQueue
  split
  · rename_i h; split
    · rename_i h'; rw [h', h]; rfl
    · rfl
  · rename_i e h; rw [queueAt_setQueue, h]; rfl

theorem ctxAt_setCtx (s : State) (c d : Nat) (x : Ctx) : ctxAt (setCtx s c x) d = if d = c then some x else ctxAt s d := by
  unfold ctxAt setCtx; exact tFind_tIns _ _ _ _

theorem ctxAt_modCtx (s : State) (c d : Nat) (f : Ctx → Ctx) :
    ctxAt (modCtx s c f) d = if d = c then (ctxAt s c).map f else ctxAt s d := by
  unfold modCtx
  split
  · rename_i h; split
    · rename_i h'; rw [h', h]; rfl
    · rfl
  · rename_i x h; rw [ctxAt_setCtx, h]; rfl

theorem modQueue_fields (s : State) (q : Nat) (f : QEntry → QEntry) : (modQueue s q f).pages = s.pages ∧ (modQueue s q f).cores = s.cores ∧
    (modQueue s q f).ctxs = s.ctxs ∧ (modQueue s q f).store = s.store := by
  unfold modQueue; split <;> exact ⟨rfl, rfl, rfl, rfl⟩

theorem siteOf_lt {s : State} {k site : Nat} (h : siteOf s k = some site) : site < 72 := by
  unfold siteOf at h
  simp only at h
  split at h
  · rename_i hh; cases h; exact hh.2
  · cases h

end Sys2Proof.Machine
end

