-- ==== Sys2Proof/Laws/Native.lean ====
section
/-!
SUPPORT. Laws/Native.lean: what the steps of a native command at a thread leave as they were (ThreadFrame), one lemma per step.
-/
namespace Sys2Proof.Machine

variable {u : Issue} {s t v : State}

/-! ### The frame -/

theorem ThreadFrame.refl (u : Issue) (s : State) : ThreadFrame u s s :=
  ⟨fun _ _ _ _ _ _ _ => rfl, fun _ _ _ _ _ _ => rfl, fun _ _ => rfl, rfl, fun _ _ => rfl, fun _ => rfl, fun _ _ h _ => h, fun _ => rfl, rfl⟩

theorem ThreadFrame.trans (h : ThreadFrame u s t) (k : ThreadFrame u t v) : ThreadFrame u s v where
  words := fun r p o a b c d => (k.words r p o a b c d).trans (h.words r p o a b c d)
  ownWords := fun p o a b c d => (k.ownWords p o a b c d).trans (h.ownWords p o a b c d)
  cores := fun a b => (k.cores a b).trans (h.cores a b)
  units := k.units.trans h.units
  threads := fun a b => (k.threads a b).trans (h.threads a b)
  bindings := fun q => (k.bindings q).trans (h.bindings q)
  queues := fun q e a b => k.queues q e (h.queues q e a b) b
  ctxs := fun c => (k.ctxs c).trans (h.ctxs c)
  rest := k.rest.trans h.rest

theorem ThreadFrame.after (k : ThreadFrame u t v) (h : ThreadFrame u s t) : ThreadFrame u s v := h.trans k

/-- A step that keeps the frame, the store, the tokens of the core and the registers of the thread. -/
structure Kept (u : Issue) (s t : State) : Prop where
  frame : ThreadFrame u s t
  store : t.store = s.store
  tokens : (coreAt t u.site).tokens = (coreAt s u.site).tokens
  regs : sameRegs u s t

theorem Kept.refl (u : Issue) (s : State) : Kept u s s := ⟨ThreadFrame.refl u s, rfl, rfl, fun _ => rfl⟩

theorem Kept.trans (h : Kept u s t) (k : Kept u t v) : Kept u s v :=
  ⟨h.frame.trans k.frame, k.store.trans h.store, k.tokens.trans h.tokens, fun i => (k.regs i).trans (h.regs i)⟩

/-- Kept.trans with the last step first. -/
theorem Kept.after (k : Kept u t v) (h : Kept u s t) : Kept u s v := h.trans k

/-- The queue of an issuer is bound to it. -/
def BoundTo (u : Issue) (s : State) : Prop :=
  siteOf s u.core = some u.site ∧ ∃ e, queueAt s u.q = some e ∧ e.core = u.core ∧ e.thread.toNat = u.t ∧ u.home = u.site

theorem BoundTo.lt (h : BoundTo u s) : u.site < 72 := siteOf_lt h.1

theorem siteOf_frame (h : ThreadFrame u s t) (hu : u.site < 72) (k : Nat) : siteOf t k = siteOf s k := by
  unfold siteOf
  by_cases hk : k < 72
  · rw [h.words headPage 0 (0x400 + k / 4 * 4) (by omega) (by omega) (by simp [headPage]; omega) (by simp [headPage])]
  · simp [hk]

theorem BoundTo.frame (b : BoundTo u s) (h : ThreadFrame u s t) : BoundTo u t := by
  obtain ⟨hs, e, he, h1, h2⟩ := b
  refine ⟨(siteOf_frame h (siteOf_lt hs) _).trans hs, ?_⟩
  have hb := h.bindings u.q
  rw [he] at hb
  cases ht : queueAt t u.q with
  | none => rw [ht] at hb; cases hb
  | some e' =>
    rw [ht] at hb
    simp only [Option.map_some, Option.some.injEq, bindingOf, Prod.mk.injEq] at hb
    exact ⟨e', rfl, hb.2.2.2.1.trans h1, by rw [hb.2.2.2.2.1]; exact h2.1, h2.2⟩

theorem bound_of_issue {h : Hdr} (hi : issueOf s h = some u) : BoundTo u s := by
  unfold issueOf at hi
  split at hi
  · cases hi
  · rename_i w hw
    split at hi
    · cases hi
      unfold issueBase at hw
      split at hw
      · cases hw
      · rename_i e he
        split at hw
        · cases hw
        · rename_i site hsite
          cases hw
          exact ⟨hsite, e, he, rfl, rfl, rfl⟩
    · cases hi

/-- A later step that uses the binding. -/
theorem Kept.then (b : BoundTo u s) (k : BoundTo u t → Kept u t v) (h : Kept u s t) : Kept u s v := h.trans (k (b.frame h.frame))

/-! ### Single updates -/

/-- An update of nothing the frame reads. -/
theorem Kept.of_same (hp : t.pages = s.pages) (hc : t.cores = s.cores) (hq : t.queues = s.queues) (hx : t.ctxs = s.ctxs) (hst : t.store = s.store)
    (hr : restOf t = restOf s) : Kept u s t where
  frame := {
    words := fun r p o _ _ _ _ => regWord_congr hp r p o
    ownWords := fun p o _ _ _ _ => regWord_congr hp u.site p o
    cores := fun a _ => by rw [coreAt_congr hc]
    units := by rw [coreAt_congr hc]
    threads := fun b _ => threadAt_congr hc u.site b
    bindings := fun q => by unfold queueAt; rw [hq]
    queues := fun q e h _ => by unfold queueAt at *; rw [hq]; exact h
    ctxs := fun c => by unfold ctxAt; rw [hx]
    rest := hr }
  store := hst
  tokens := by rw [coreAt_congr hc]
  regs := fun i => by rw [threadAt_congr hc]

/-- A register word of the issuer's scheduler or sync page, or of the head's scheduler page. -/
theorem kept_setRegWord (s : State) (r p o : Nat) (w : Word) (ho : o < 4096)
    (h : (r = u.site ∧ (p = 0x10 ∨ p = 0x11)) ∨ (r = 76 ∧ p = 0x28)) (hu : u.site < 72) : Kept u s (setRegWord s r p o w) where
  frame := {
    words := fun r' p' o' hp' ho' hr hn => regWord_setRegWord_ne s w (by omega) ho hp' ho' (by omega)
    ownWords := fun p' o' hp' ho' h1 h2 => regWord_setRegWord_ne s w (by omega) ho hp' ho' (by omega)
    cores := fun _ _ => rfl
    units := rfl
    threads := fun _ _ => rfl
    bindings := fun _ => rfl
    queues := fun _ _ h _ => h
    ctxs := fun _ => rfl
    rest := rfl }
  store := rfl
  tokens := rfl
  regs := fun _ => rfl

theorem kept_modThread (s : State) (f : Thread → Thread) (hf : ∀ th, (f th).regs = th.regs) : Kept u s (modThread s u.site u.t f) where
  frame := {
    words := fun _ _ _ _ _ _ _ => rfl
    ownWords := fun _ _ _ _ _ _ => rfl
    cores := fun a h => by unfold modThread setThread; rw [coreAt_modCore, if_neg h]
    units := by unfold modThread setThread; rw [coreAt_modCore, if_pos rfl]; rfl
    threads := fun b h => by rw [threadAt_modThread, if_neg (fun e => h e.2)]
    bindings := fun _ => rfl
    queues := fun _ _ h _ => h
    ctxs := fun _ => rfl
    rest := rfl }
  store := rfl
  tokens := by unfold modThread setThread; rw [coreAt_modCore, if_pos rfl]
  regs := fun i => by
    rw [threadAt_modThread]; split
    · rename_i h; unfold regOf; rw [hf, ← h.1]
    · rfl

/-- A change of engine queues alone. -/
theorem kept_modCore (s : State) (f : Core → Core) (hf : ∀ c, coreRest (f c) = coreRest c) (ht : ∀ c, (f c).threads = c.threads)
    (hk : ∀ c, (f c).tokens = c.tokens) : Kept u s (modCore s u.site f) where
  frame := {
    words := fun _ _ _ _ _ _ _ => rfl
    ownWords := fun _ _ _ _ _ _ => rfl
    cores := fun a h => by rw [coreAt_modCore, if_neg h]
    units := by rw [coreAt_modCore, if_pos rfl, hf]
    threads := fun b _ => threadAt_modCore s u.site f ht u.site b
    bindings := fun _ => rfl
    queues := fun _ _ h _ => h
    ctxs := fun _ => rfl
    rest := rfl }
  store := rfl
  tokens := by rw [coreAt_modCore, if_pos rfl, hk]
  regs := fun i => by rw [threadAt_modCore s u.site f ht]

/-- The held commands of the issuer's queue leave every core. -/
theorem kept_dropHeld (s : State) : Kept u s { s with cores := s.cores.map (fun c =>
    (c.1, { c.2 with held := c.2.held.filter (fun x => !decide (instrQueue x.2 = some u.q)) })) } := by
  have hg : ∀ a, coreAt { s with cores := s.cores.map (fun c =>
      (c.1, { c.2 with held := c.2.held.filter (fun x => !decide (instrQueue x.2 = some u.q)) })) } a =
      { coreAt s a with held := (coreAt s a).held.filter (fun x => !decide (instrQueue x.2 = some u.q)) } := fun a =>
    tGet_map freshCore (fun c => { c with held := c.held.filter (fun x => !decide (instrQueue x.2 = some u.q)) }) rfl s.cores a
  have ht : ∀ a b, threadAt { s with cores := s.cores.map (fun c =>
      (c.1, { c.2 with held := c.2.held.filter (fun x => !decide (instrQueue x.2 = some u.q)) })) } a b = threadAt s a b := fun a b => by
    unfold threadAt; rw [hg]
  exact {
    frame := {
      words := fun _ _ _ _ _ _ _ => rfl
      ownWords := fun _ _ _ _ _ _ => rfl
      cores := fun a _ => by
        rw [hg]
        unfold withoutQueue
        congr 1
        rw [List.filter_filter]
        exact List.filter_congr (fun x _ => by simp)
      units := by rw [hg]; rfl
      threads := fun b _ => ht u.site b
      bindings := fun _ => rfl
      queues := fun _ _ h _ => h
      ctxs := fun _ => rfl
      rest := rfl }
    store := rfl
    tokens := by rw [hg]
    regs := fun i => by rw [ht] }

theorem kept_modQueue (s : State) (q : Nat) (f : QEntry → QEntry) (hf : ∀ e, bindingOf (f e) = bindingOf e)
    (hq : ∀ e, queueAt s q = some e → e.core = u.core ∧ e.thread.toNat = u.t) : Kept u s (modQueue s q f) where
  frame := {
    words := fun r p o _ _ _ _ => regWord_congr (modQueue_fields s q f).1 r p o
    ownWords := fun p o _ _ _ _ => regWord_congr (modQueue_fields s q f).1 u.site p o
    cores := fun a _ => by rw [coreAt_congr (modQueue_fields s q f).2.1]
    units := by rw [coreAt_congr (modQueue_fields s q f).2.1]
    threads := fun b _ => threadAt_congr (modQueue_fields s q f).2.1 u.site b
    bindings := fun r => by
      rw [queueAt_modQueue]; split
      · rename_i h; rw [h, Option.map_map]; congr 1; funext e; exact hf e
      · rfl
    queues := fun r e h hne => by
      rw [queueAt_modQueue]; split
      · rename_i h'; rw [h'] at h; have := hq e h; omega
      · exact h
    ctxs := fun c => by unfold ctxAt; rw [(modQueue_fields s q f).2.2.1]
    rest := by unfold modQueue; split <;> rfl }
  store := (modQueue_fields s q f).2.2.2
  tokens := by rw [coreAt_congr (modQueue_fields s q f).2.1]
  regs := fun i => by rw [threadAt_congr (modQueue_fields s q f).2.1]

theorem BoundTo.home (b : BoundTo u s) : u.home = u.site := by
  obtain ⟨_, _, _, _, _, h⟩ := b; exact h

theorem BoundTo.own (b : BoundTo u s) : ∀ e, queueAt s u.q = some e → e.core = u.core ∧ e.thread.toNat = u.t := by
  obtain ⟨_, e, he, h1, h2, _⟩ := b
  intro e' he'
  rw [he] at he'; cases he'; exact ⟨h1, h2⟩

theorem kept_modOwn (b : BoundTo u s) (f : QEntry → QEntry) (hf : ∀ e, bindingOf (f e) = bindingOf e) : Kept u s (modQueue s u.q f) :=
  kept_modQueue s u.q f hf b.own

/-! ### The fetch and what follows a command -/

theorem kept_setPos (b : BoundTo u s) (p : Int) : Kept u s (setPos s u p) := by
  unfold setPos
  simp only
  split
  · exact kept_modThread s _ (fun _ => rfl)
  · exact kept_modOwn b _ (fun _ => rfl)

theorem kept_afterFetch (b : BoundTo u s) : Kept u s (afterFetch s u) := by
  unfold afterFetch bumpWrap setFld
  exact ((kept_setPos b _).trans (kept_setRegWord _ _ _ _ _ (by simp [wordFld]) (.inl ⟨rfl, .inl rfl⟩) b.lt)).trans
    (kept_modCore _ _ (fun _ => rfl) (fun _ => rfl) (fun _ => rfl))

theorem readyFor_own {q : Nat} (h : readyFor s u.core u.t q = true) : ∀ e, queueAt s q = some e → e.core = u.core ∧ e.thread.toNat = u.t := by
  intro e he
  simp [readyFor, he] at h
  exact ⟨h.1, h.2.1⟩

theorem kept_attachNext (left : Nat) : Kept u s (attachNext s u.core u.site u.t left) := by
  unfold attachNext
  simp only
  split
  · exact Kept.refl u s
  · rename_i q hq
    have hm : q ∈ (s.queues.map (·.1)).filter (readyFor s u.core u.t) := by
      cases hf : ((s.queues.map (·.1)).filter (readyFor s u.core u.t)).find? (fun q => left < q) with
      | none => rw [hf] at hq; exact List.mem_of_head? (by simpa using hq)
      | some q' => rw [hf] at hq; simp at hq; subst hq; exact List.mem_of_find?_eq_some hf
    have hr : readyFor s u.core u.t q = true := (List.mem_filter.mp hm).2
    refine Kept.after (kept_modThread _ _ (fun th => ?_)) (kept_modQueue s q _ (fun _ => rfl) (readyFor_own hr))
    split <;> rfl

theorem kept_leaveQueue (b : BoundTo u s) : Kept u s (leaveQueue s u.q u.site u.t) := by
  unfold leaveQueue
  exact Kept.after (kept_modThread _ _ (fun _ => rfl)) (kept_modOwn b _ (fun _ => rfl))

theorem kept_loopTurn (n : Nat) : ∀ {s : State}, BoundTo u s → Kept u s (loopTurn s u n) := by
  induction n with
  | zero => intro s _; exact Kept.refl u s
  | succ n ih =>
    intro s b
    unfold loopTurn
    simp only
    split
    · exact Kept.refl u s
    · split
      · split
        · exact Kept.then b (fun b => kept_setPos b _) (kept_modThread _ _ (fun _ => rfl))
        · exact Kept.then b (fun b => ih b) (kept_modThread _ _ (fun _ => rfl))
      · exact Kept.refl u s

theorem kept_leaveIfEmpty (b : BoundTo u s) : Kept u s (leaveIfEmpty s u) := by
  unfold leaveIfEmpty
  simp only
  split
  · exact (kept_leaveQueue b).trans (kept_attachNext _)
  · split
    · exact Kept.refl u s
    · split
      · have h := kept_modThread (u := u) s (fun th => { th with attached := none }) (fun _ => rfl)
        exact Kept.after (kept_attachNext _) (Kept.after (kept_modOwn (b.frame h.frame) _ (fun _ => rfl)) h)
      · exact kept_modThread s _ (fun _ => rfl)

theorem kept_goOn (b : BoundTo u s) : Kept u s (goOn s u) := by
  unfold goOn
  split
  · have h := kept_loopTurn 5 b
    exact h.trans (kept_leaveIfEmpty (b.frame h.frame))
  · exact Kept.refl u s

theorem kept_goOnJumped (b : BoundTo u s) : Kept u s (goOnJumped s u) := by
  unfold goOnJumped
  split
  · exact kept_leaveIfEmpty b
  · exact Kept.refl u s

/-! ### Faults of a signal -/

theorem kept_setFld (s : State) (r p : Nat) (f : Fld) (v : Nat) (ho : f.off < 4096)
    (h : (r = u.site ∧ (p = 0x10 ∨ p = 0x11)) ∨ (r = 76 ∧ p = 0x28)) (hu : u.site < 72) : Kept u s (setFld s r p f v) :=
  kept_setRegWord s r p f.off _ ho h hu

theorem kept_msix (s : State) (v : Nat) : Kept u s (msix s v) := by
  unfold msix
  split <;> exact Kept.of_same rfl rfl rfl rfl rfl rfl

theorem kept_irqRise (was : Bool) (s : State) (r p : Nat) : Kept u s (irqRise was s r p) := by
  unfold irqRise
  split
  · exact kept_msix s 64
  · exact Kept.refl u s

theorem kept_irqEvent (s : State) (p bit : Nat) (hp : p = 0x10 ∨ p = 0x11) (hu : u.site < 72) : Kept u s (irqEvent s u.site p bit) :=
  (kept_setRegWord s u.site p 0x010 _ (by omega) (.inl ⟨rfl, hp⟩) hu).trans (kept_irqRise _ _ _ _)

theorem kept_latch (s : State) (f : Report) (hr : f.reach = u.site) (hp : f.page = 0x10 ∨ f.page = 0x11) (hu : u.site < 72) :
    Kept u s (latch s f) := by
  unfold latch
  rw [hr]
  split
  · exact kept_setFld s u.site f.page _ _ (by simp) (.inl ⟨rfl, hp⟩) hu
  · exact (((kept_setRegWord s u.site f.page _ _ (by omega) (.inl ⟨rfl, hp⟩) hu).trans
      (kept_setRegWord _ u.site f.page _ _ (by omega) (.inl ⟨rfl, hp⟩) hu)).trans
      (kept_setRegWord _ u.site f.page _ _ (by omega) (.inl ⟨rfl, hp⟩) hu)).trans (kept_irqEvent _ _ _ hp hu)

theorem kept_stopQueue (b : BoundTo u s) (code : Nat) (mark : Word) : Kept u s (stopQueue s u.q code mark) := by
  unfold stopQueue
  split
  · exact Kept.refl u s
  · rename_i e he
    split
    · exact Kept.refl u s
    · have h1 : Kept u s (setQueue s u.q { e with stopping := some (BitVec.ofNat 16 code, mark), saved := none }) := by
        have h := kept_modOwn b (fun e => { e with stopping := some (BitVec.ofNat 16 code, mark), saved := none }) (fun _ => rfl)
        unfold modQueue at h; rw [he] at h; exact h
      have he' := b.own e he
      simp only
      generalize setQueue s u.q { e with stopping := some (BitVec.ofNat 16 code, mark), saved := none } = g at h1 ⊢
      generalize (g.cores.map (fun c => (c.2.held.filter (fun x => decide (instrQueue x.2 = some u.q))).length)).foldl (· + ·) 0 = n
      have h2 : Kept u s (bump g 76 0x28 (wordFld 0x068) n) := h1.trans (kept_setFld g 76 0x28 (wordFld 0x068) _ (by simp [wordFld]) (.inr ⟨rfl, rfl⟩) b.lt)
      have h3 := Kept.after (kept_dropHeld _) h2
      split
      · exact h3
      · rename_i site hsite
        have hb := b.frame h3.frame
        obtain rfl : site = u.site := by
          have := hb.1; rw [← he'.1] at this; exact Option.some.inj (hsite.symm.trans this)
        rw [he'.1, he'.2]
        split
        · exact Kept.after (kept_attachNext _) (Kept.after (kept_modThread _ _ (fun _ => rfl)) h3)
        · exact h3

theorem kept_raise (b : BoundTo u s) (h : Hdr) (code page detail : Nat) (hp : page = 0x10 ∨ page = 0x11) (hc : code / 256 ≠ 7) :
    Kept u s (raise s (cmdReport u h code 3 page detail)) := by
  unfold raise
  simp only
  have h1 : Kept u s (latch s (cmdReport u h code 3 page detail)) := kept_latch s _ rfl hp b.lt
  have hne : ¬((cmdReport u h code 3 page detail).code / 256 = 7) := hc
  rw [if_neg hne]
  have h2 := h1.trans (Kept.of_same (u := u) (t := { latch s (cmdReport u h code 3 page detail) with head := { (latch s (cmdReport u h code 3 page detail)).head with inbox := (latch s (cmdReport u h code 3 page detail)).head.inbox ++ [recordOf s (cmdReport u h code 3 page detail)] } }) rfl rfl rfl rfl rfl rfl)
  exact h2.trans (kept_stopQueue (b.frame h2.frame) _ _)

/-! ### The sync block and the trace -/

theorem frame_tokens (s : State) (f : Core → Core) (hf : ∀ c, f c = { c with tokens := (f c).tokens }) :
    ThreadFrame u s (modCore s u.site f) where
  words := fun _ _ _ _ _ _ _ => rfl
  ownWords := fun _ _ _ _ _ _ => rfl
  cores := fun a h => by rw [coreAt_modCore, if_neg h]
  units := by rw [coreAt_modCore, if_pos rfl, hf]; rfl
  threads := fun b _ => threadAt_modCore s u.site f (fun c => by rw [hf]) u.site b
  bindings := fun _ => rfl
  queues := fun _ _ h _ => h
  ctxs := fun _ => rfl
  rest := rfl

theorem regs_tokens (s : State) (f : Core → Core) (hf : ∀ c, (f c).threads = c.threads) : sameRegs u s (modCore s u.site f) :=
  fun i => by rw [threadAt_modCore s u.site f hf]

theorem frame_ctx (s : State) (c : Nat) (x y : Ctx) (hx : ctxAt s c = some x) (hy : untraced y = untraced x) : ThreadFrame u s (setCtx s c y) where
  words := fun _ _ _ _ _ _ _ => rfl
  ownWords := fun _ _ _ _ _ _ => rfl
  cores := fun _ _ => rfl
  units := rfl
  threads := fun _ _ => rfl
  bindings := fun _ => rfl
  queues := fun _ _ h _ => h
  ctxs := fun d => by
    rw [ctxAt_setCtx]; split
    · rename_i h; rw [h, hx]; simp [hy]
    · rfl
  rest := rfl

theorem frame_hostStore (s : State) (a : Nat) (bs : List Byte) : ThreadFrame u s (hostStore s a bs) where
  words := fun _ _ _ _ _ _ _ => rfl
  ownWords := fun _ _ _ _ _ _ => rfl
  cores := fun _ _ => rfl
  units := rfl
  threads := fun _ _ => rfl
  bindings := fun _ => rfl
  queues := fun _ _ h _ => h
  ctxs := fun _ => rfl
  rest := rfl

/-- What a trace record leaves as it was. -/
theorem traceRec_frame (s : State) (u : Issue) (h : Hdr) (kind : Nat) : ThreadFrame u s (traceRec s u h kind) ∧
    (traceRec s u h kind).cores = s.cores ∧ (traceRec s u h kind).queues = s.queues ∧ (traceRec s u h kind).pages = s.pages ∧
    (∃ m, (traceRec s u h kind).store = { s.store with host := m }) ∧ (isTraced s u h = false → traceRec s u h kind = s) := by
  unfold traceRec isTraced
  split
  · exact ⟨ThreadFrame.refl u s, rfl, rfl, rfl, ⟨s.store.host, rfl⟩, fun _ => rfl⟩
  · rename_i x hx
    split
    · exact ⟨ThreadFrame.refl u s, rfl, rfl, rfl, ⟨s.store.host, rfl⟩, fun _ => rfl⟩
    · rename_i hno
      simp only
      split
      · refine ⟨ThreadFrame.after (frame_hostStore _ _ _) (frame_ctx s u.ctx x _ hx rfl), rfl, rfl, rfl, ⟨_, rfl⟩, fun ht => ?_⟩
        simp [ht] at hno
      · refine ⟨ThreadFrame.after (frame_hostStore _ _ _) (ThreadFrame.after (frame_hostStore _ _ _) (frame_ctx s u.ctx x _ hx rfl)), rfl, rfl, rfl, ⟨_, rfl⟩, fun ht => ?_⟩
        simp [ht] at hno

theorem isTraced_frame (h : ThreadFrame u s t) (hd : Hdr) : isTraced t u hd = isTraced s u hd := by
  have hb := h.bindings u.q
  unfold isTraced entryD
  cases hs : queueAt s u.q <;> cases ht : queueAt t u.q <;> rw [hs, ht] at hb <;> simp [bindingOf] at hb ⊢
  rw [hb.2.2.2.2.2]

/-- What the steps around a command's own effect leave: the frame, the store but host memory, the registers. -/
structure Around (u : Issue) (h : Hdr) (s t : State) : Prop where
  frame : ThreadFrame u s t
  store : ∃ m, t.store = { s.store with host := m }
  host : isTraced s u h = false → t.store = s.store
  regs : sameRegs u s t

theorem Kept.around (k : Kept u s t) (h : Hdr) : Around u h s t :=
  ⟨k.frame, ⟨s.store.host, k.store⟩, fun _ => k.store, k.regs⟩

theorem Around.trans {h : Hdr} (a : Around u h s t) (b : Around u h t v) : Around u h s v where
  frame := a.frame.trans b.frame
  store := by
    obtain ⟨m, hm⟩ := a.store; obtain ⟨n, hn⟩ := b.store
    exact ⟨n, by rw [hn, hm]⟩
  host := fun ht => (b.host ((isTraced_frame a.frame h).trans ht)).trans (a.host ht)
  regs := fun i => (b.regs i).trans (a.regs i)

theorem Around.after {h : Hdr} (b : Around u h t v) (a : Around u h s t) : Around u h s v := a.trans b

theorem around_traceRec (s : State) (h : Hdr) (kind : Nat) : Around u h s (traceRec s u h kind) := by
  obtain ⟨h1, h2, h3, h4, h5, h6⟩ := traceRec_frame s u h kind
  exact ⟨h1, h5, fun ht => by rw [h6 ht], fun i => by rw [threadAt_congr h2]⟩

theorem around_takeToken (s : State) (h : Hdr) : Around u h s (takeToken s u.site h) :=
  ⟨frame_tokens s _ (fun _ => rfl), ⟨s.store.host, rfl⟩, fun _ => rfl, regs_tokens s _ (fun _ => rfl)⟩

theorem around_addToken (s : State) (h : Hdr) (k n : Nat) : Around u h s (addToken s u.site k n).1 := by
  unfold addToken
  simp only
  exact ⟨frame_tokens s _ (fun _ => rfl), ⟨s.store.host, rfl⟩, fun _ => rfl, regs_tokens s _ (fun _ => rfl)⟩

theorem around_giveSignal (b : BoundTo u s) (h : Hdr) : Around u h s (giveSignal s u h 0x11) := by
  unfold giveSignal
  split
  · exact (Kept.refl u s).around h
  · split
    · refine Kept.around (Kept.of_same ?_ ?_ ?_ ?_ ?_ ?_) h <;> rfl
    · have ha := around_addToken (u := u) s h h.sigTok.toNat h.sigCnt.toNat
      simp only
      split
      · exact ha.trans ((kept_raise (b.frame ha.frame) h 0x0122 0x11 0 (.inr rfl) (by decide)).around h)
      · exact ha

theorem around_retireCmd (b : BoundTo u s) (h : Hdr) : Around u h s (retireCmd s u h 0x11) :=
  (around_traceRec s h 1).trans (around_giveSignal (b.frame (around_traceRec s h 1).frame) h)

theorem around_begun (b : BoundTo u s) (h : Hdr) : Around u h s (begun s u h) :=
  ((kept_afterFetch b).around h).trans ((around_takeToken _ h).trans (around_traceRec _ h 0))

/-! ### Tokens -/

theorem tokens_traceRec (s : State) (h : Hdr) (kind : Nat) : (coreAt (traceRec s u h kind) u.site).tokens = (coreAt s u.site).tokens := by
  rw [coreAt_congr (traceRec_frame s u h kind).2.1]

theorem tokenOf_begun (b : BoundTo u s) (h : Hdr) (k : Nat) : tokenOf (coreAt (begun s u h) u.site) k =
    if k = h.waitTok.toNat then tokenOf (coreAt s u.site) k - h.waitCnt.setWidth 16 else tokenOf (coreAt s u.site) k := by
  unfold begun tokenOf
  rw [tokens_traceRec]
  unfold takeToken
  rw [coreAt_modCore, if_pos rfl]
  simp only
  rw [tGet_tPut]
  unfold tokenOf
  rw [(kept_afterFetch b).tokens]
  split
  · rename_i hk; rw [hk]
  · rfl

theorem tokenOf_retireCmd (b : BoundTo u s) (h : Hdr) (k : Nat) : (tokenOf (coreAt (retireCmd s u h 0x11) u.site) k).toNat =
    if !h.sigRemote ∧ k = h.sigTok.toNat then min ((tokenOf (coreAt s u.site) k).toNat + h.sigCnt.toNat) 65535
    else (tokenOf (coreAt s u.site) k).toNat := by
  have htr := tokens_traceRec (u := u) s h 1
  have ha := around_traceRec (u := u) s h 1
  unfold retireCmd
  generalize traceRec s u h 1 = g at htr ha
  have hg : ∀ k, tokenOf (coreAt g u.site) k = tokenOf (coreAt s u.site) k := fun k => by unfold tokenOf; rw [htr]
  rw [← hg]
  have hlt := (tokenOf (coreAt g u.site) k).isLt
  unfold giveSignal
  split
  · rename_i h0
    rw [h0]
    simp only [show (0 : Byte).toNat = 0 from rfl, Nat.add_zero]
    split <;> omega
  · split
    · rename_i hr; rw [if_neg (by simp [hr])]; rfl
    · rename_i hr
      have hv : ∀ t, (coreAt t u.site).tokens = (coreAt (addToken g u.site h.sigTok.toNat h.sigCnt.toNat).1 u.site).tokens →
          (tokenOf (coreAt t u.site) k).toNat = if !h.sigRemote ∧ k = h.sigTok.toNat then
            min ((tokenOf (coreAt g u.site) k).toNat + h.sigCnt.toNat) 65535 else (tokenOf (coreAt g u.site) k).toNat := by
        intro t ht
        have he : tokenOf (coreAt t u.site) k = tokenOf (coreAt (addToken g u.site h.sigTok.toNat h.sigCnt.toNat).1 u.site) k := by
          unfold tokenOf; rw [ht]
        rw [he]
        unfold addToken tokenOf
        simp only
        rw [coreAt_modCore, if_pos rfl]
        simp only
        rw [tGet_tPut]
        simp only [hr]
        by_cases hk : k = h.sigTok.toNat
        · simp only [hk]
          first | (simp; done) | (simp; omega)
        · simp [hk]
      simp only
      split
      · exact hv _ (kept_raise ((b.frame ha.frame).frame (around_addToken g h _ _).frame) h 0x0122 0x11 0 (.inr rfl) (by decide)).tokens
      · exact hv _ rfl

/-! ### A whole command -/

/-- The fetch passes a command that can be fetched. -/
theorem fetchCmd_passed {h : Hdr} (hf : fetchable s u h = true) : issueOf s h = some u ∧ fetchCmd s u h false = .passed (afterFetch s u) := by
  unfold fetchable at hf
  simp only [Bool.and_eq_true, decide_eq_true_eq] at hf
  obtain ⟨⟨hi, hx⟩, hc⟩ := hf
  refine ⟨hi, ?_⟩
  unfold fetchCmd
  cases hctx : ctxAt s u.ctx with
  | none => simp [hctx] at hx
  | some x =>
    rw [hctx] at hx
    simp only [Bool.or_eq_true, Bool.and_eq_true] at hx
    have hnone : fetchFault s u h false = none := by
      unfold fetchFault
      rw [List.all_eq_true] at hc
      simp only [Bool.false_or]
      rw [if_neg, if_neg]
      · intro ha
        obtain ⟨k, hk, hk2⟩ := List.any_eq_true.mp ha
        have := hc k hk; simp at this hk2; omega
      · intro ha
        obtain ⟨k, hk, hk2⟩ := List.any_eq_true.mp ha
        have := hc k hk; simp at this hk2; omega
    simp only [Option.map_some]
    by_cases hcode : (threadAt s u.site u.t).code.isSome
    · simp [hcode, hnone, afterFetch]
    · simp [hcode] at hx ⊢
      simp [hx, hnone, afterFetch]

/-- What fences and waits read of a core. -/
structure SameWaits (s t : State) : Prop where
  held : ∀ a, (coreAt t a).held = (coreAt s a).held
  tokens : ∀ a, (coreAt t a).tokens = (coreAt s a).tokens
  waits : ∀ a b, (threadAt t a b).waits = (threadAt s a b).waits ∧ (threadAt t a b).held = (threadAt s a b).held ∧
    (threadAt t a b).attached = (threadAt s a b).attached
  fence : ∀ q, fenceMet t q = fenceMet s q

theorem SameWaits.trans {s t v : State} (h : SameWaits s t) (k : SameWaits t v) : SameWaits s v where
  held := fun a => (k.held a).trans (h.held a)
  tokens := fun a => (k.tokens a).trans (h.tokens a)
  waits := fun a b => ⟨(k.waits a b).1.trans (h.waits a b).1, (k.waits a b).2.1.trans (h.waits a b).2.1, (k.waits a b).2.2.trans (h.waits a b).2.2⟩
  fence := fun q => (k.fence q).trans (h.fence q)

theorem SameWaits.of_cores {s t : State} (h : t.cores = s.cores) : SameWaits s t where
  held := fun a => by rw [coreAt_congr h]
  tokens := fun a => by rw [coreAt_congr h]
  waits := fun a b => by rw [threadAt_congr h]; exact ⟨rfl, rfl, rfl⟩
  fence := fun q => by unfold fenceMet; rw [h]

theorem SameWaits.of_modCore (s : State) (a : Nat) (f : Core → Core)
    (hf : ∀ c, (f c).held = c.held ∧ (f c).tokens = c.tokens ∧ (f c).started = c.started ∧ (f c).descs = c.descs)
    (ht : ∀ b, let x := tGet freshThread (f (coreAt s a)).threads b
      x.waits = (threadAt s a b).waits ∧ x.held = (threadAt s a b).held ∧ x.attached = (threadAt s a b).attached) : SameWaits s (modCore s a f) where
  held := fun b => by
    rw [coreAt_modCore]; split
    · rename_i h; rw [(hf _).1, h]
    · rfl
  tokens := fun b => by
    rw [coreAt_modCore]; split
    · rename_i h; rw [(hf _).2.1, h]
    · rfl
  waits := fun b c => by
    unfold threadAt
    rw [coreAt_modCore]
    split
    · rename_i h; rw [h]; exact ht c
    · exact ⟨rfl, rfl, rfl⟩
  fence := fun q => by
    unfold fenceMet modCore setCore
    refine all_tIns (fun c : Core => c.held.all (fun x => instrQueue x.2 ≠ some q) && c.started.all (fun x => x.2.queue.toNat ≠ q) &&
      c.descs.all (fun d => d.2.flight.all (fun f => f.2.1.queue.toNat ≠ q))) s.cores a _ ?_
    simp only [(hf _).1, (hf _).2.2.1, (hf _).2.2.2]
    unfold coreAt tGet
    cases tFind s.cores a <;> rfl

theorem SameWaits.headWait {s t : State} (h : SameWaits s t) (site : Nat) (p : Place) : headWait t site p = headWait s site p := by
  have hh : headOf t site p = headOf s site p := by
    unfold headOf
    split
    · rename_i b
      unfold threadHead
      obtain ⟨h1, h2, h3⟩ := h.waits site b.toNat
      simp only [h1, h2, h3]
    · unfold placeHead; rw [h.held]
  unfold Machine.headWait
  rw [hh]
  simp only [h.fence]

theorem SameWaits.served {s t : State} (h : SameWaits s t) (site : Nat) (p : Place) (hd : Hdr) : served t site p hd = served s site p hd := by
  unfold Machine.served tokenLeft tokenOf
  simp only [h.headWait, h.tokens]

theorem sameWaits_afterFetch (s : State) (u : Issue) : SameWaits s (afterFetch s u) := by
  have h1 : SameWaits s (setPos s u ((curPos s u : Nat) + 1)) := by
    unfold setPos
    simp only
    split
    · unfold modThread setThread
      refine SameWaits.of_modCore _ _ _ (fun _ => ⟨rfl, rfl, rfl, rfl⟩) (fun b => ?_)
      simp only
      rw [tGet_tIns]
      split
      · rename_i h; rw [h]; exact ⟨rfl, rfl, rfl⟩
      · exact ⟨rfl, rfl, rfl⟩
    · exact SameWaits.of_cores (modQueue_fields s u.q _).2.1
  have h2 : SameWaits s (bumpWrap (setPos s u ((curPos s u : Nat) + 1)) u.site 0x10 (wordFld 0x040) 1) := h1.trans (SameWaits.of_cores rfl)
  exact h2.trans (SameWaits.of_modCore _ _ _ (fun _ => ⟨rfl, rfl, rfl, rfl⟩) (fun _ => ⟨rfl, rfl, rfl⟩))

/-- A command that stands at the ring's head passes the fetch. -/
theorem fetchRow_passed {i : Instr} {h : Hdr} (hf : fetchable s u h = true) (ha : atRingHead s u i = true) :
    fetchRow i h false s = .inr (afterFetch s u, u) := by
  obtain ⟨hi, hp⟩ := fetchCmd_passed hf
  have hv : ringView s u i = .same := by
    unfold atRingHead at ha
    split at ha
    · assumption
    · cases ha
  unfold fetchRow
  simp only [hi, hv, hp]

/-- A command that its thread can run, and whose effect is done at once. -/
theorem threadCmd_done {i : Instr} {h : Hdr} {body : Body} {b : State} (hr : threadRuns s u h = true) (ha : atRingHead s u i = true)
    (hb : body h (begun s u h) u = (b, .done)) : threadCmd i h false body s = goOn (retireCmd b u h 0x11) u := by
  unfold threadRuns at hr
  simp only [Bool.and_eq_true, decide_eq_true_eq] at hr
  obtain ⟨⟨hf, he⟩, hu⟩ := hr
  have hk := sameWaits_afterFetch s u
  have hu' : ((h.fence && !fenceMet (afterFetch s u) u.q) || !served (afterFetch s u) u.site (.thread (BitVec.ofNat 4 u.t)) h) = false := by
    rw [hk.fence, hk.served]
    unfold unheld at hu
    revert hu
    cases h.fence <;> cases fenceMet s u.q <;> simp
  unfold threadCmd
  rw [fetchRow_passed hf ha]
  simp only
  rw [if_neg (by simp [he]), hu']
  simp only [Bool.false_eq_true, if_false]
  unfold startThread
  rw [show traceRec (takeToken (afterFetch s u) u.site h) u h 0 = begun s u h from rfl, hb]

/-- After its effect a command retires and its thread goes on. -/
theorem around_end (b : BoundTo u s) (h : Hdr) : Around u h s (goOn (retireCmd s u h 0x11) u) :=
  Around.after ((kept_goOn (b.frame (around_retireCmd b h).frame)).around h) (around_retireCmd b h)

theorem tokenOf_end (b : BoundTo u s) (h : Hdr) (k : Nat) : (tokenOf (coreAt (goOn (retireCmd s u h 0x11) u) u.site) k).toNat =
    (tokenOf (coreAt (retireCmd s u h 0x11) u.site) k).toNat := by
  unfold tokenOf; rw [(kept_goOn (b.frame (around_retireCmd b h).frame)).tokens]

/-- A wait that is served finds its count in the token (R93). -/
theorem served_le {site : Nat} {p : Place} {h : Hdr} (hs : served s site p h = true) :
    h.waitCnt.toNat ≤ (tokenOf (coreAt s site) h.waitTok.toNat).toNat := by
  have hle : ∀ (f : Place → Option Hdr) (l : List Place) (n : Nat), l.foldl (fun n x => match f x with
      | some k => if k.waitTok = h.waitTok ∧ k.waitCnt.toNat ≤ n then n - k.waitCnt.toNat else n
      | none => n) n ≤ n := by
    intro f l
    induction l with
    | nil => intro n; exact Nat.le_refl n
    | cons x l ih =>
      intro n
      rw [List.foldl_cons]
      refine Nat.le_trans (ih _) ?_
      split
      · split
        · exact Nat.sub_le _ _
        · exact Nat.le_refl n
      · exact Nat.le_refl n
  unfold served at hs
  simp only [Bool.or_eq_true, decide_eq_true_eq] at hs
  rcases hs with hs | hs
  · rw [hs]; exact Nat.zero_le _
  · exact Nat.le_trans hs (hle _ _ _)

/-- The whole of a command whose effect is an update b of the state in which it begins. -/
theorem ranAround_done {h : Hdr} {e : State} (hb : BoundTo u s) (hmet : unheld s u h = true) (hf : ThreadFrame u (begun s u h) e)
    (htok : (coreAt e u.site).tokens = (coreAt (begun s u h) u.site).tokens) (hhost : e.store.host = (begun s u h).store.host) :
    RanAround s (goOn (retireCmd e u h 0x11) u) u h := by
  have h1 := around_begun hb h
  have he := (hb.frame h1.frame).frame hf
  have h2 := around_end he h
  refine ⟨(h1.frame.trans hf).trans h2.frame, fun k => ?_, fun ht a => ?_⟩
  · rw [tokenOf_end he, tokenOf_retireCmd he]
    have hk : tokenOf (coreAt e u.site) k = tokenOf (coreAt (begun s u h) u.site) k := by unfold tokenOf; rw [htok]
    rw [hk, tokenOf_begun hb]
    unfold tokenAfter
    simp only
    have hw : (if k = h.waitTok.toNat then tokenOf (coreAt s u.site) k - h.waitCnt.setWidth 16 else tokenOf (coreAt s u.site) k).toNat =
        (tokenOf (coreAt s u.site) k).toNat - (if k = h.waitTok.toNat then h.waitCnt.toNat else 0) := by
      split
      · rename_i hkw
        unfold unheld at hmet
        simp only [Bool.and_eq_true] at hmet
        have := served_le hmet.2
        rw [← hkw] at this
        rw [BitVec.toNat_sub_of_le]
        · have := h.waitCnt.isLt
          simp only [BitVec.toNat_setWidth]
          omega
        · have h8 := h.waitCnt.isLt
          rw [BitVec.le_def, BitVec.toNat_setWidth]; omega
      · omega
    rw [hw]
  · have ht1 : isTraced e u h = false := (isTraced_frame (h1.frame.trans hf) h).trans ht
    rw [h2.host ht1, hhost, h1.host ht]

/-- Memory across a whole command. -/
theorem store_done {h : Hdr} {e : State} (hb : BoundTo u s) (hf : ThreadFrame u (begun s u h) e) :
    let t := goOn (retireCmd e u h 0x11) u
    t.store.stack = e.store.stack ∧ t.store.scratch = e.store.scratch ∧ t.store.fabric = e.store.fabric ∧
      t.store.stainStack = e.store.stainStack ∧ t.store.stainScratch = e.store.stainScratch ∧ t.store.stainFabric = e.store.stainFabric := by
  have h1 := around_begun hb h
  obtain ⟨m, hm⟩ := (around_end ((hb.frame h1.frame).frame hf) h).store
  simp only
  rw [hm]
  exact ⟨rfl, rfl, rfl, rfl, rfl, rfl⟩

theorem store_begun {h : Hdr} (hb : BoundTo u s) : ∃ m, (begun s u h).store = { s.store with host := m } := (around_begun hb h).store

theorem regs_done {h : Hdr} {e : State} (hb : BoundTo u s) (hf : ThreadFrame u (begun s u h) e) :
    sameRegs u e (goOn (retireCmd e u h 0x11) u) :=
  (around_end ((hb.frame (around_begun hb h).frame).frame hf) h).regs

theorem bound_of_runs {h : Hdr} (hr : threadRuns s u h = true) : BoundTo u s ∧ unheld s u h = true := by
  unfold threadRuns fetchable at hr
  simp only [Bool.and_eq_true, decide_eq_true_eq] at hr
  exact ⟨bound_of_issue hr.1.1.1.1, hr.2⟩

/-- Writing a register of the issuing thread. -/
theorem frame_writeReg (s : State) (i : Nat) (v : Dword) : ThreadFrame u s (writeReg s u i v) where
  words := fun _ _ _ _ _ _ _ => rfl
  ownWords := fun _ _ _ _ _ _ => rfl
  cores := fun a h => by unfold writeReg modThread setThread; rw [coreAt_modCore, if_neg h]
  units := by unfold writeReg modThread setThread; rw [coreAt_modCore, if_pos rfl]; rfl
  threads := fun b h => by unfold writeReg; rw [threadAt_modThread, if_neg (fun e => h e.2)]
  bindings := fun _ => rfl
  queues := fun _ _ h _ => h
  ctxs := fun _ => rfl
  rest := rfl

theorem regOf_writeReg (s : State) (i : Nat) (v : Dword) (k : Nat) :
    regOf (threadAt (writeReg s u i v) u.site u.t) k = if k = i then v else regOf (threadAt s u.site u.t) k := by
  unfold writeReg regOf
  rw [threadAt_modThread, if_pos ⟨rfl, rfl⟩]
  exact tGet_tPut 0 _ _ _ _

theorem tokens_writeReg (s : State) (i : Nat) (v : Dword) : (coreAt (writeReg s u i v) u.site).tokens = (coreAt s u.site).tokens := by
  unfold writeReg modThread setThread; rw [coreAt_modCore, if_pos rfl]

/-- A command of a thread whose effect is one register. -/
theorem writesReg_of {i : Instr} {h : Hdr} {body : Body} {d : Nat} {v : Dword} (hr : threadRuns s u h = true)
    (hx : exec i s = .next (threadCmd i h false body s)) (hb : body h (begun s u h) u = (writeReg (begun s u h) u d v, .done)) :
    WritesReg i s u h d v := by
  obtain ⟨hbd, hmet⟩ := bound_of_runs hr
  have hf := frame_writeReg (u := u) (begun s u h) d v
  intro ha
  refine ⟨_, hx.trans (congrArg _ (threadCmd_done hr ha hb)), fun k => ?_, ranAround_done hbd hmet hf (tokens_writeReg _ _ _) rfl, ?_, ?_⟩
  · rw [regs_done hbd hf k, ← (around_begun hbd h).regs k, hbd.home, regOf_writeReg]
  · obtain ⟨m, hm⟩ := store_begun (h := h) hbd
    obtain ⟨h1, h2, h3, _, _, _⟩ := store_done hbd hf
    intro a
    rw [h1, h2, h3]
    show memByte (begun s u h).store.stack a = _ ∧ memByte (begun s u h).store.scratch a = _ ∧ memByte (begun s u h).store.fabric a = _
    rw [hm]; exact ⟨rfl, rfl, rfl⟩
  · obtain ⟨m, hm⟩ := store_begun (h := h) hbd
    obtain ⟨_, _, _, h1, h2, h3⟩ := store_done hbd hf
    unfold sameStains
    rw [h1, h2, h3]
    show (begun s u h).store.stainStack = _ ∧ (begun s u h).store.stainScratch = _ ∧ (begun s u h).store.stainFabric = _
    rw [hm]; exact ⟨rfl, rfl, rfl⟩

theorem threadAt_takeToken (s : State) (site : Nat) (h : Hdr) (a b : Nat) : threadAt (takeToken s site h) a b = threadAt s a b := by
  unfold takeToken
  rw [threadAt_modCore]
  intro c; rfl

theorem threadAt_afterFetch (s : State) (u : Issue) (a b : Nat) :
    threadAt (afterFetch s u) a b = threadAt (setPos s u ((curPos s u : Nat) + 1)) a b := by
  unfold afterFetch
  rw [threadAt_modCore]
  · exact threadAt_congr rfl a b
  · intro c; rfl

/-- The loops and the sources of the issuing thread at a command's start. -/
theorem sourceA_begun {h : Hdr} (hb : BoundTo u s) (a : Byte) :
    sourceA (threadAt (begun s u h) u.site u.t) a = sourceA (threadAt s u.site u.t) a := by
  have hr : ∀ i, regOf (threadAt (begun s u h) u.site u.t) i = regOf (threadAt s u.site u.t) i := fun i => by
    have := (around_begun hb h).regs i
    rwa [hb.home] at this
  have hl : (threadAt (begun s u h) u.site u.t).loops = (threadAt s u.site u.t).loops := by
    unfold begun
    rw [threadAt_congr (traceRec_frame _ u h 0).2.1]
    rw [threadAt_takeToken, threadAt_afterFetch]
    unfold setPos
    simp only
    split
    · rw [threadAt_modThread, if_pos ⟨rfl, rfl⟩]
    · rw [threadAt_congr (modQueue_fields s u.q _).2.1]
  unfold sourceA loopCounter
  rw [hl, hr]

theorem sourceB_begun {h : Hdr} (hb : BoundTo u s) (b : Byte) (imm : Dword) :
    sourceB (threadAt (begun s u h) u.site u.t) b imm = sourceB (threadAt s u.site u.t) b imm := by
  unfold sourceB; rw [sourceA_begun hb]

end Sys2Proof.Machine
end

