-- ==== Sys2Proof/Laws/Control.lean ====
section
/-!
SUPPORT. Laws/Control.lean: the scratchpad of a context at a command's start, a held command, a retirement whose signal fits, and where
a command that moves the fetch leaves its thread.
-/
namespace Sys2Proof.Machine

variable {u : Issue} {s t : State} {h : Hdr}

theorem spBase_begun (hb : BoundTo u s) : spBase (begun s u h) u.ctx = spBase s u.ctx ∧ spRows (begun s u h) u.ctx = spRows s u.ctx := by
  have hc := (around_begun hb h).frame.ctxs u.ctx
  unfold spBase spRows
  cases h1 : ctxAt s u.ctx <;> cases h2 : ctxAt (begun s u h) u.ctx <;> rw [h1, h2] at hc <;> simp at hc ⊢
  have h3 := congrArg Ctx.spBase hc
  have h4 := congrArg Ctx.spRows hc
  exact ⟨h3, h4⟩

theorem scratch_begun (hb : BoundTo u s) : (begun s u h).store.scratch = s.store.scratch ∧ (begun s u h).store.stainScratch = s.store.stainScratch := by
  obtain ⟨m, hm⟩ := store_begun (h := h) hb
  rw [hm]; exact ⟨rfl, rfl⟩

theorem frame_scratchSplice (u : Issue) (s : State) (k n : Nat) (m : Mem) (b : Bool) : ThreadFrame u s (scratchSplice s k n m b) := by
  unfold scratchSplice; split
  · exact ThreadFrame.refl _ _
  · exact ⟨fun _ _ _ _ _ _ _ => rfl, fun _ _ _ _ _ _ => rfl, fun _ _ => rfl, rfl, fun _ _ => rfl, fun _ => rfl, fun _ _ h _ => h, fun _ => rfl, rfl⟩

/-- A retirement whose signal fits changes neither queues, nor words, nor threads. -/
theorem retire_still (hfit : (h.sigRemote || decide ((tokenOf (coreAt s u.site) h.sigTok.toNat).toNat + h.sigCnt.toNat ≤ 65535)) = true) :
    (retireCmd s u h 0x11).queues = s.queues ∧ (retireCmd s u h 0x11).pages = s.pages ∧
      (∀ a b, threadAt (retireCmd s u h 0x11) a b = threadAt s a b) := by
  obtain ⟨_, h2, h3, h4, _, _⟩ := traceRec_frame s u h 1
  unfold retireCmd
  generalize traceRec s u h 1 = g at *
  have ht : ∀ a b, threadAt g a b = threadAt s a b := fun a b => threadAt_congr h2 a b
  unfold giveSignal
  split
  · exact ⟨h3, h4, ht⟩
  · split
    · exact ⟨h3, h4, ht⟩
    · rename_i hr
      have h0 : (addToken g u.site h.sigTok.toNat h.sigCnt.toNat).2 = false := by
        simp [hr] at hfit
        unfold addToken; simp
        rw [coreAt_congr h2]; omega
      simp only [h0]
      refine ⟨h3, h4, fun a b => ?_⟩
      rw [← ht a b]
      exact threadAt_modCore g u.site (fun c => { c with tokens := tPut 0 c.tokens h.sigTok.toNat (BitVec.ofNat 16 (min ((tokenOf (coreAt g u.site) h.sigTok.toNat).toNat + h.sigCnt.toNat) 65535)) }) (fun _ => rfl) a b

/-- What a command sees of its thread and queue when its effect begins. -/
theorem begun_thread (hb : BoundTo u s) : (∃ e, queueAt (begun s u h) u.q = some e ∧ ∃ f, queueAt s u.q = some f ∧
      e = if (ownThread s u).code.isSome then f else { f with head := nextPos s u }) ∧
    ownThread (begun s u h) u = if (ownThread s u).code.isSome then { ownThread s u with pc := nextPos s u } else ownThread s u := by
  have h1 : (begun s u h).queues = (setPos s u ((curPos s u : Nat) + 1)).queues := (traceRec_frame _ u h 0).2.2.1
  have h2 : threadAt (begun s u h) u.site u.t = threadAt (setPos s u ((curPos s u : Nat) + 1)) u.site u.t := by
    unfold begun
    rw [threadAt_congr (traceRec_frame _ u h 0).2.1]
    rw [threadAt_takeToken, threadAt_afterFetch]
  obtain ⟨_, f, hf, _⟩ := hb
  unfold ownThread
  rw [h2]
  have h3 : queueAt (begun s u h) u.q = queueAt (setPos s u ((curPos s u : Nat) + 1)) u.q := by unfold queueAt; rw [h1]
  rw [h3]
  unfold setPos
  simp only
  by_cases hc : (threadAt s u.site u.t).code.isSome
  · simp only [hc, if_true]
    refine ⟨⟨f, hf, f, hf, rfl⟩, ?_⟩
    rw [threadAt_modThread, if_pos ⟨rfl, rfl⟩]; rfl
  · simp only [hc]
    refine ⟨⟨{ f with head := nextPos s u }, ?_, f, hf, rfl⟩, ?_⟩
    · simp only [Bool.false_eq_true, if_false]; rw [queueAt_modQueue, if_pos rfl, hf]; rfl
    · simp only [Bool.false_eq_true, if_false]; rw [threadAt_congr (modQueue_fields s u.q _).2.1]

/-- A command the thread holds: fetched, waiting on its token. -/
theorem threadCmd_held {i : Instr} {body : Body} (hf : fetchable s u h = true) (ha : atRingHead s u i = true) (h0 : h.engine = 0)
    (hu : unheld s u h = false) : threadCmd i h false body s = holdAtThread (afterFetch s u) u i := by
  have hk := sameWaits_afterFetch s u
  unfold threadCmd
  rw [fetchRow_passed hf ha]
  simp only
  rw [if_neg (by simp [h0]), hk.fence, hk.served, if_pos]
  unfold unheld at hu
  revert hu
  cases h.fence <;> cases fenceMet s u.q <;> simp

/-- A command of a thread that can run and ends in a jump. -/
theorem threadCmd_jumped {i : Instr} {body : Body} {b : State} (hr : threadRuns s u h = true) (ha : atRingHead s u i = true)
    (hb : body h (begun s u h) u = (b, .jumped)) : threadCmd i h false body s = goOnJumped (retireCmd b u h 0x11) u := by
  unfold threadRuns at hr
  simp only [Bool.and_eq_true, decide_eq_true_eq] at hr
  obtain ⟨⟨hf, he⟩, hu⟩ := hr
  have hk := sameWaits_afterFetch s u
  unfold threadCmd
  rw [fetchRow_passed hf ha]
  simp only
  rw [if_neg (by simp [he]), hk.fence, hk.served, if_neg]
  · unfold startThread
    rw [show traceRec (takeToken (afterFetch s u) u.site h) u h 0 = begun s u h from rfl, hb]
  · unfold unheld at hu
    revert hu
    cases h.fence <;> cases fenceMet s u.q <;> simp

end Sys2Proof.Machine
end

