-- ==== Sys2Proof/Machine/KwRun.lean ====
section
/-!
DEFINITION. KwRun.lean: the results of a Kweus function (R144, R147 to R149, R154, R164, R196): its instructions run one at a time, in order, on
each logical core, with virtual values in place of registers; and what R152 asks of native code. Each instruction gives what the native
command of its operation gives on the same operands, which stand for it in registers of the core. What the rules leave open of a Kweus instruction is
the choice of log entry 139.
-/
namespace Sys2Proof.Machine

/-- How a core stands in its function: running, at an operation that meets the other cores, ended, or without a defined result. -/
inductive KwStop where
  | runs | meets | ends | fails
  deriving DecidableEq, Repr

/-- An open loop: its LOOP instruction, its count, the iteration under way. -/
structure KwLoop where
  pos : Nat
  count : Nat
  index : Nat
  deriving DecidableEq, Repr

/-- One logical core: its virtual tiles, accumulators and scalars (R144), the arguments placed by ARG (R196), function and position, open loops,
and the functions it returns to. -/
structure KwCore where
  u : Issue
  tiles : Tab TileReg
  accs : Tab (Tab F32)
  scalars : Tab Dword
  argTiles : Tab TileReg
  argRegs : Tab Dword
  fn : Nat
  pc : Nat
  loops : List KwLoop
  calls : List (Nat × Nat × List KwLoop)
  stop : KwStop
  deriving DecidableEq, Repr

/-- All cores of a layout, the module they share, the module as the last common BARRIER found it, and the tiles read from peers and stored since
(core, tensor, tile). -/
structure KwWorld where
  s : State
  snap : State
  cores : List KwCore
  peers : List (Nat × Nat × Nat)
  wrote : List (Nat × Nat × Nat)

/-! ### Operands -/

/-- The instruction that a core stands at; none past the end of its function. -/
def kwHere (b : List Byte) (k : KwCore) : Option Kw := ((functionCode b)[k.fn]?).bind (fun f => f.2[k.pc]?)

/-- The header of the native commands of an instruction: its mark (R145, R182). -/
def kwHdr (b : List Byte) (k : KwCore) : Hdr :=
  { queue := BitVec.ofNat 20 k.u.q, engine := 0, fence := false, trace := false, mark := kwMark b k.fn k.pc, waitTok := 0, waitCnt := 0
    sigTok := 0, sigCnt := 0, sigRemote := false, sigCore := 0, targetValid := false, targetCore := 0 }

/-- The 64-bit value of a scalar slot: vs0 to vs4 as R144 lists them, vs3 and vs4 as the last STEP_BEGIN wrote them, another scalar, a signed immediate, a literal. -/
def kwScalar (b : List Byte) (s : State) (k : KwCore) (x : Nat × Nat) : Dword :=
  match x with
  | (2, 0) => BitVec.ofNat 64 k.u.core
  | (2, 1) => BitVec.ofNat 64 (layoutWidth s k.u.ctx)
  | (2, 2) => (regWord s k.u.site 0x14 0x05C).setWidth 64
  | (2, 3) => BitVec.ofNat 64 (coreAt s k.u.site).firstToken
  | (2, 4) => BitVec.ofNat 64 (coreAt s k.u.site).sliceTokens
  | (2, n) => tGet 0 k.scalars n
  | (5, n) => BitVec.ofNat 64 (leAt (sectionD b 8) (8 * n) 8)
  | x => BitVec.ofInt 64 (immOf x)

/-- The entries that a TENSOR slot names: PARAMETERS, then TENSORS (R137). -/
def kwTensors (b : List Byte) : List TRef :=
  (paramsOf b).map (fun p => { id := p.tensorId, tile := 0, rows := p.rows, cols := p.cols, fmt := p.format }) ++
    (tensorsOf b).map (fun t => { id := t.id, tile := 0, rows := t.rows, cols := t.cols, fmt := t.format })

/-- Tiles of a tensor. -/
def kwTileCount (t : TRef) : Nat := tilesAcross t.cols t.fmt * ((t.rows + (shapeD t.fmt).rows - 1) / max 1 (shapeD t.fmt).rows)

/-- A tensor slot's entry with a tile index or an element index inside it. -/
def kwTileOf (b : List Byte) (x : Nat × Nat) (g : Nat) : Option TRef :=
  ((kwTensors b)[x.2]?).bind (fun t => if g < kwTileCount t then some { t with tile := g } else none)
def kwElemOf (b : List Byte) (x : Nat × Nat) (n : Nat) : Option (TRef × Nat) :=
  ((kwTensors b)[x.2]?).bind (fun t =>
    let per := (shapeD t.fmt).rows * (shapeD t.fmt).cols
    if n < kwTileCount t * per then some ({ t with tile := n / max 1 per }, n % max 1 per) else none)

/-- An operand in place for a command: a tile in T j, an accumulator in A j, a scalar in S(8 + j), with its specifier (R163). -/
def kwPlace (b : List Byte) (k : KwCore) (j : Nat) (x : Nat × Nat) (s : State) : State × Word :=
  match x.1 with
  | 0 => (s, 0)
  | 1 => (modCore s k.u.site (fun c => setRegStain (setTile c j (tGet freshTile k.tiles x.2)) j []), BitVec.ofNat 32 (2 ^ 28 + j))
  | 7 => (modCore s k.u.site (fun c => setRegStain (setAcc c j (tGet [] k.accs x.2)) (16 + j) []), accSpec j)
  | _ => (writeReg s k.u (8 + j) (kwScalar b s k x), BitVec.ofNat 32 (4 * 2 ^ 28 + 8 + j))

/-- The value of DST from T3, A3 or S11. -/
def kwTake (s : State) (k : KwCore) (x : Nat × Nat) : KwCore :=
  match x.1 with
  | 1 => { k with tiles := tIns k.tiles x.2 (tileAt (coreAt s k.u.site) 3) }
  | 2 => { k with scalars := tIns k.scalars x.2 (regOf (threadAt s k.u.site k.u.t) 11) }
  | 7 => { k with accs := tIns k.accs x.2 (accAt (coreAt s k.u.site) 3) }
  | _ => k

/-- A command's effect where it runs to its end; none where it is refused, halts its queue or cannot start. -/
def kwBody (body : Body) (h : Hdr) (u : Issue) (s : State) : Option State :=
  match body h s u with
  | (t, .done) => if queueHalts t u then none else some t
  | _ => none

/-! ### One instruction -/

/-- The vector operation of an opcode and the operands it takes (R147). -/
def kwVector : Nat → Option (Nat × (VecOps → Body))
  | 0x30 => some (2, vaddBody) | 0x31 => some (2, vsubBody) | 0x32 => some (2, vmulBody) | 0x33 => some (3, vfmaBody)
  | 0x34 => some (2, vminBody) | 0x35 => some (2, vmaxBody) | 0x36 => some (1, vabsBody) | 0x37 => some (1, vnegBody)
  | 0x38 => some (3, vselBody) | 0x39 => some (2, vcmpBody) | 0x3A => some (1, vexp2Body) | 0x3B => some (1, vlog2Body)
  | 0x3C => some (1, vrsqrtBody) | 0x3D => some (1, vrecipBody) | 0x3E => some (1, vtanhBody) | 0x40 => some (1, vredBody)
  | 0x41 => some (1, cvtBody) | _ => none

/-- The scalar operation of an opcode (R147). -/
def kwAlu : Nat → Option (ScalarOps → Body)
  | 0x50 => some movBody | 0x51 => some addBody | 0x52 => some subBody | 0x53 => some mulBody | 0x54 => some andBody
  | 0x55 => some orBody | 0x56 => some xorBody | 0x57 => some shlBody | 0x58 => some shrBody | 0x59 => some sraBody
  | 0x5A => some setBody | 0x5B => some faddBody | 0x5C => some fmulBody | 0x5D => some fsetBody | _ => none

/-- A vector instruction. MOD is the format of a tile result, but for VCMP and VRED, where it is the condition and the reduction and the tile is FP32;
of an accumulator's it is FP32. CVT names its slot and key. -/
def kwVectorRun (b : List Byte) (s : State) (k : KwCore) (i : Kw) (n : Nat) (op : VecOps → Body) : Option (State × KwCore) :=
  let p := kwPlace b k 0 i.a s
  let q := if 1 < n then kwPlace b k 1 i.b p.1 else (p.1, 0)
  let r := if 2 < n then kwPlace b k 2 i.c q.1 else (q.1, 0)
  let d := kwPlace b k 3 i.dst r.1
  let isCvt := decide (i.op = 0x41)
  let fmt := if i.dst.1 = 7 && !isCvt || i.op = 0x39 || i.op = 0x40 then 0 else i.mod
  let key := if isCvt then (kwScalar b s k i.c).toNat else 0
  let o : VecOps :=
    { d := d.2, a := p.2, b := q.2, c := r.2, formatOut := BitVec.ofNat 8 fmt, round := BitVec.ofNat 8 i.mod2
      slot := if isCvt && i.b.1 = 4 then BitVec.ofNat 8 i.b.2 else 0, cond := BitVec.ofNat 8 i.mod, rows := 0
      tensorId := BitVec.ofNat 16 (key / 2 ^ 24), tileIndex := BitVec.ofNat 24 key, srcFormat := 0, imm := 0 }
  (kwBody (op o) (kwHdr b k) k.u d.1).map (fun t => (t, kwTake t k i.dst))

/-- A scalar instruction on S8 and S9 into S11; SMOV copies A, MOV's source B. -/
def kwAluRun (b : List Byte) (s : State) (k : KwCore) (i : Kw) (op : ScalarOps → Body) : Option (State × KwCore) :=
  let p := kwPlace b k 0 i.a s
  let q := kwPlace b k 1 (if i.op = 0x50 then i.a else i.b) p.1
  (kwBody (op { dst := 11, srcA := 8, srcB := 9, cond := BitVec.ofNat 8 i.mod, imm := 0 }) (kwHdr b k) k.u q.1).map
    (fun t => (t, kwTake t k i.dst))

/-- MMUL: a product of T0, streamed, and T1 into A3 (R65). A transposed load is a transposed operand of the product (R567). -/
def kwProduct (b : List Byte) (s : State) (k : KwCore) (i : Kw) : Option (State × KwCore) :=
  let x := tGet freshTile k.tiles i.a.2
  let w := tGet freshTile k.tiles i.b.2
  let s := (kwPlace b k 3 i.dst (kwPlace b k 1 i.b (kwPlace b k 0 i.a s).1).1).1
  let o := productOps false 0 1 3 0 x.format w.format 0 (bitOf i.mod 0 != w.orient) (bitOf i.mod 1 != x.orient) (bitOf i.mod 2) 0
  (kwBody (productBody o) (kwHdr b k) k.u s).map (fun t => (t, kwTake t k i.dst))

/-- A tile value as it stands, for storing. -/
def kwEncoded (t : TileReg) : Encoded := { data := t.data, scales := t.scales, sat := 0, zeroed := 0, nonfinite := 0 }

/-- A tile stored in a tensor, with its tile scale where the format has one. -/
def kwStore (s : State) (u : Issue) (t : TRef) (v : TileReg) : Option State :=
  if v.format ≠ t.fmt then none
  else match storeTile s u t t.tile (kwEncoded v) (if tileScaled t.fmt then some v.tileScale else none) with
    | .ok s => some s
    | .error _ => none

/-- A tile read as a core holds it. -/
def kwLoad (s : State) (u : Issue) (t : TRef) : Option TileReg := match readTile s u t t.tile with | .ok v => some v | _ => none

/-- One element of a tensor: its code, widened with zeros or cut to the format's width. -/
def kwLoadElem (s : State) (u : Issue) (t : TRef) (n : Nat) : Option Dword := (kwLoad s u t).map (fun v => BitVec.ofNat 64 (elemCode v n))
def kwStoreElem (s : State) (u : Issue) (t : TRef) (n : Nat) (x : Dword) : Option State :=
  (kwLoad s u t).bind (fun v => kwStore s u t
    { v with data := packedSet v.data (shapeD t.fmt).bits (dataIndex t.fmt n) (x.toNat % 2 ^ (shapeD t.fmt).bits) })

/-- The issuer that stands for another logical core of the layout. -/
def kwPeer (s : State) (u : Issue) (core : Nat) : Option Issue := (siteOf s core).map (fun site => { u with core := core, site := site, home := site })

/-- SLOT: bytes 48 to 55 of a setup from the literal, byte 48 replaced by A, on the engine that OWNER names (R164). -/
def kwSetup (b : List Byte) (k : KwCore) (i : Kw) (s : State) : Option State :=
  let lit := (sectionD b 8).drop (8 * i.b.2)
  let o := spelledSetup (List.replicate 48 0 ++ [BitVec.ofNat 8 i.a.2] ++ (lit.take 8).drop 1 ++ List.replicate 8 0)
  let page := if o.owner = 0 then 0x13 else if o.owner = 1 then 0x16 else 0x15
  kwBody (setupBody o.owner.toNat page o) (kwHdr b k) k.u s

/-- GEMIT: the values of a tile or an accumulator, as an accumulator holds them, into the tree of the tile's port (R370). -/
def kwEmit (b : List Byte) (s : State) (k : KwCore) (i : Kw) : Option State :=
  let g := (kwScalar b s k i.c).toNat
  match (kwTensors b)[i.b.2]?, loadedOf s k.u.ctx with
  | some t, some l =>
    let v := tGet freshTile k.tiles i.a.2
    let cols := max 1 (shapeD v.format).cols
    let vals := if i.a.1 = 7 then tGet [] k.accs i.a.2
      else (tileVals v).foldl (fun m x => tIns m (x.1 / cols * 1024 + x.1 % cols) x.2) []
    let s := modCore s k.u.site (fun c => setRegStain (setAcc c 0 vals) 16 [])
    (tileOf l t.id g).bind (fun y => kwBody (gradEmitBody
      { port := BitVec.ofNat 2 (tilePort s y.1), transpose := false, source := accSpec 0, tensorId := BitVec.ofNat 16 t.id, tileIndex := BitVec.ofNat 24 g })
      (kwHdr b k) k.u s)
  | _, _ => none

/-- The arguments in S0 to S7 and T0 to T15 (R196). -/
def kwArgs (s : State) (k : KwCore) : State :=
  let s := k.argRegs.foldl (fun s x => writeReg s k.u x.1 x.2) s
  modCore s k.u.site (fun c => k.argTiles.foldl (fun c x => setRegStain (setTile c x.1 x.2) x.1 []) c)

/-- The body of a routine's command; none for the collective ones (R204, R209). -/
def kwRoutine : Nat → Option Body
  | 0x0101 => some tileProductBody | 0x0102 => some stripProductBody | 0x0103 => some chainProductBody
  | 0x0301 => some rmsnormFwdBody | 0x0302 => some rmsnormBwdBody | 0x0303 => some layernormFwdBody | 0x0304 => some layernormBwdBody
  | 0x0305 => some softmaxFwdBody | 0x0306 => some softmaxBwdBody | 0x0401 => some quantBody | 0x0402 => some dequantBody
  | 0x0403 => some transcodeBody | 0x0501 => some rowReduceBody | 0x0503 => some tensorNorm2Body | 0x0601 => some sparseRoutineBody
  | 0x0F01 => some (selfCheckBody [] 0) | 0x0F02 => some libInfoBody
  | _ => none

/-- The body of a collective routine's command. -/
def kwCollective (h : Hdr) : Nat → Option Body
  | 0x0201 => some (attnWindowFwdBody h) | 0x0202 => some (attnWindowBwdBody h) | 0x0203 => some (attnGlobalFwdBody h)
  | 0x0204 => some (attnGlobalBwdBody h) | 0x0502 => some (layoutReduceBody (.layoutReduce h))
  | _ => none

/-- The status of an RCALL in DST. -/
def kwStatus (s : State) (k : KwCore) (x : Nat × Nat) : KwCore :=
  if x.1 = 2 then { k with scalars := tIns k.scalars x.2 (regOf (threadAt s k.u.site k.u.t) 0) } else k

/-- An instruction that meets no other core and moves control nowhere: its effect, and the core after it; none where it has no defined result. -/
def kwEffect (b : List Byte) (w : KwWorld) (k : KwCore) (i : Kw) : Option (KwWorld × KwCore) :=
  let s := w.s
  let keep := fun (r : State × KwCore) => ({ w with s := r.1 }, r.2)
  let step := fun (t : State) => ({ w with s := t }, k)
  match kwVector i.op, kwAlu i.op, i.op with
  | some (n, op), _, _ => (kwVectorRun b s k i n op).map keep
  | _, some op, _ => (kwAluRun b s k i op).map keep
  | _, _, 0x01 => some (w, k)
  | _, _, 0x02 => (kwBody (layerBody (BitVec.ofNat 16 (kwScalar b s k i.a).toNat) (BitVec.ofNat 8 i.mod)) (kwHdr b k) k.u s).map step
  | _, _, 0x03 => (kwBody stepBeginBody (kwHdr b k) k.u s).map step
  | _, _, 0x10 => ((kwTileOf b i.a (kwScalar b s k i.b).toNat).bind (kwLoad s k.u)).map (fun v =>
      (w, { k with tiles := tIns k.tiles i.dst.2 { v with orient := bitOf i.mod 0 } }))
  | _, _, 0x11 => (kwTileOf b i.b (kwScalar b s k i.c).toNat).bind (fun t =>
      (kwStore s k.u t (tGet freshTile k.tiles i.a.2)).map (fun s => ({ w with s := s, wrote := w.wrote ++ [(k.u.core, t.id, t.tile)] }, k)))
  | _, _, 0x12 => (kwElemOf b i.a (kwScalar b s k i.b).toNat).bind (fun t => (kwLoadElem s k.u t.1 t.2).map (fun v =>
      (w, { k with scalars := tIns k.scalars i.dst.2 v })))
  | _, _, 0x13 => (kwElemOf b i.c (kwScalar b s k i.b).toNat).bind (fun t =>
      (kwStoreElem s k.u t.1 t.2 (kwScalar b s k i.a)).map (fun s => ({ w with s := s, wrote := w.wrote ++ [(k.u.core, t.1.id, t.1.tile)] }, k)))
  | _, _, 0x14 => (kwTileOf b i.a (kwScalar b s k i.c).toNat).bind (fun t =>
      (kwPeer s k.u (kwScalar b s k i.b).toNat).bind (fun v => (kwLoad w.snap v t).map (fun x =>
        ({ w with peers := w.peers ++ [(v.core, t.id, t.tile)] }, { k with tiles := tIns k.tiles i.dst.2 { x with orient := false } }))))
  | _, _, 0x20 => (kwProduct b s k i).map keep
  | _, _, 0x42 => (kwSetup b k i s).map step
  | _, _, 0x66 => (kwRoutine i.a.2).bind (fun body => (kwBody body (kwHdr b k) k.u (kwArgs s k)).map (fun t =>
      ({ w with s := t }, kwStatus t k i.dst)))
  | _, _, 0x67 => some (w, if i.a.2 ≤ 7 then { k with argRegs := tIns k.argRegs i.a.2 (kwScalar b s k i.b) }
      else { k with argTiles := tIns k.argTiles (i.a.2 - 8) (tGet freshTile k.tiles i.b.2) })
  | _, _, 0x72 => (kwEmit b s k i).map step
  | _, _, _ => none

/-! ### Control -/

/-- The code of the function a core is in, and its nesting. -/
def kwCode (b : List Byte) (k : KwCore) : List Kw := (((functionCode b)[k.fn]?).map (·.2)).getD []
def kwDepth (b : List Byte) (k : KwCore) : List Nat := (nesting (kwCode b k) 0).getD []

/-- A core at another position of its function: the loops whose bodies do not hold it are left (R150). -/
def kwJump (b : List Byte) (k : KwCore) (label : Nat) : KwCore :=
  match labelAt (kwCode b k) label with
  | none => { k with stop := .fails }
  | some t => { k with pc := t, loops := k.loops.filter (fun l => (bodiesAt (kwDepth b k) (kwCode b k) t).contains l.pos) }

/-- DST of the LOOP instruction of a loop reads its index (R147). -/
def kwIndexed (b : List Byte) (k : KwCore) (pos index : Nat) : KwCore :=
  let d := (kwAt (kwCode b k) pos).dst
  if d.1 = 2 then { k with scalars := tIns k.scalars d.2 (BitVec.ofNat 64 index) } else k

/-- LOOP: its body runs A times; ENDLOOP goes back or on. -/
def kwLoopIn (b : List Byte) (k : KwCore) (count : Nat) : KwCore :=
  if count = 0 then { k with pc := closeOf (kwDepth b k) (kwCode b k) k.pc + 1 }
  else { kwIndexed b k k.pc 0 with pc := k.pc + 1, loops := k.loops ++ [⟨k.pc, count, 0⟩] }
def kwLoopEnd (b : List Byte) (k : KwCore) : KwCore :=
  match k.loops.getLast? with
  | none => { k with stop := .fails }
  | some l =>
    if l.index + 1 < l.count then
      { kwIndexed b k l.pos (l.index + 1) with pc := l.pos + 1, loops := k.loops.dropLast ++ [{ l with index := l.index + 1 }] }
    else { k with pc := k.pc + 1, loops := k.loops.dropLast }

/-- CALL and RET (R134, R147). -/
def kwCall (k : KwCore) (fn : Nat) : KwCore := { k with fn := fn, pc := 0, loops := [], calls := k.calls ++ [(k.fn, k.pc + 1, k.loops)] }
def kwRet (k : KwCore) : KwCore :=
  match k.calls.getLast? with
  | none => { k with stop := .fails }
  | some (fn, pc, loops) => { k with fn := fn, pc := pc, loops := loops, calls := k.calls.dropLast }

/-- Whether an instruction meets the other cores of the layout (R147, R204). -/
def kwMeets (i : Kw) : Bool :=
  decide (i.op = 0x63) || decide (i.op = 0x70) || decide (i.op = 0x71) || (i.op = 0x66 && [0x0201, 0x0202, 0x0203, 0x0204, 0x0502].contains i.a.2)

/-- One instruction of one core. -/
def kwStep (b : List Byte) (w : KwWorld) (k : KwCore) : KwWorld × KwCore :=
  match kwHere b k with
  | none => (w, { k with stop := .fails })
  | some i =>
    if kwMeets i then (w, { k with stop := .meets })
    else match i.op with
      | 0x60 => (w, kwLoopIn b k (kwScalar b w.s k i.a).toNat)
      | 0x61 => (w, kwLoopEnd b k)
      | 0x62 => (w, match condScalar (BitVec.ofNat 8 i.mod) (kwScalar b w.s k i.a) (kwScalar b w.s k i.b) with
          | some true => kwJump b k i.c.2
          | some false => { k with pc := k.pc + 1 }
          | none => { k with stop := .fails })
      | 0x64 => (w, kwCall k i.a.2)
      | 0x65 => (w, kwRet k)
      | 0x68 => (w, { k with stop := .ends })
      | _ => match kwEffect b w k i with
        | some (w, k) => (w, { k with pc := k.pc + 1 })
        | none => (w, { k with stop := .fails })

/-- A core runs until it meets the others or ends, at most n instructions; one that has not stopped then has no result yet. -/
def kwUntil (b : List Byte) : Nat → KwWorld → KwCore → KwWorld × KwCore
  | 0, w, k => (w, { k with stop := .fails })
  | n + 1, w, k => match k.stop with
    | .runs => kwUntil b n (kwStep b w k).1 (kwStep b w k).2
    | _ => (w, k)

/-- Every core runs so, in ascending order: between meetings no core's results rest on another's. -/
def kwAll (b : List Byte) (n : Nat) (w : KwWorld) : KwWorld :=
  w.cores.foldl (fun w k => let r := kwUntil b n w k; { r.1 with cores := r.1.cores ++ [r.2] }) { w with cores := [] }

/-! ### Meetings -/

/-- Whether a tile read from a peer was stored by it since the last common BARRIER, or no longer stands as that found it: such a read has no
defined result (R149). -/
def kwPeerLate (w : KwWorld) : Bool :=
  w.peers.any (fun x => w.wrote.contains x || (match w.cores.head? with
    | some k => (match kwPeer w.s k.u x.1, tensorInfo w.s k.u.ctx x.2.1 with
      | some v, some (r, c, f) => let t : TRef := { id := x.2.1, tile := x.2.2, rows := r, cols := c, fmt := f }
        kwLoad w.s v t != kwLoad w.snap v t
      | _, _ => true)
    | none => true))

/-- A core goes on behind a meeting. -/
def kwOn (k : KwCore) : KwCore := { k with pc := k.pc + 1, stop := .runs }

/-- The value that a core brings to BRT: the reduction MOD2 of its tile or accumulator (R175). -/
def kwGrid (k : KwCore) (i : Kw) : F32 :=
  if i.a.1 = 7 then gridReduce i.mod2 1024 1024 (tGet [] k.accs i.a.2)
  else let t := tGet freshTile k.tiles i.a.2; gridReduce i.mod2 (shapeD t.format).rows (shapeD t.format).cols (tileVals t)

/-- BRT on every core: the reduction over all cores, compared with B (R174, R175). -/
def kwBranchAll (b : List Byte) (w : KwWorld) (i : Kw) : KwWorld :=
  let v := treeFold (coreOp i.mod2) 0 7 (w.cores.map (fun k => kwGrid k ((kwHere b k).getD i)))
  { w with cores := w.cores.map (fun k =>
      let j := (kwHere b k).getD i
      match condScalar (BitVec.ofNat 8 j.mod) (v.setWidth 64) (kwScalar b w.s k j.b) with
      | some true => { kwJump b k j.c.2 with stop := .runs }
      | some false => kwOn k
      | none => { k with stop := .fails }) }

/-- SRED on every core (R176). -/
def kwReduceAll (b : List Byte) (w : KwWorld) (i : Kw) : KwWorld :=
  let v := treeFold (reduceOp i.mod) 0 7 (w.cores.map (fun k => kwScalar b w.s k ((kwHere b k).getD i).a))
  { w with cores := w.cores.map (fun k => { kwOn k with scalars := tIns k.scalars ((kwHere b k).getD i).dst.2 v }) }

/-- A collective routine on every core, which the last to come ends for all (R204). -/
def kwRoutineAll (b : List Byte) (w : KwWorld) (i : Kw) : KwWorld :=
  let s := w.cores.foldl (fun s k => kwArgs s k) w.s
  let s := w.cores.foldl (fun s k => match kwCollective (kwHdr b k) i.a.2 with
    | some body => (body (kwHdr b k) s k.u).1
    | none => s) s
  let ok := decide (s.mesh.arrivals = w.s.mesh.arrivals) && w.cores.all (fun k => !queueHalts s k.u)
  { w with s := s, cores := w.cores.map (fun k => if ok then kwStatus s (kwOn k) ((kwHere b k).getD i).dst else { k with stop := .fails }) }

/-- All cores at one meeting: the same operation on each, else there is none and no core goes on. -/
def kwMeet (b : List Byte) (w : KwWorld) : KwWorld :=
  let here := w.cores.map (kwHere b)
  match here.head?.bind id with
  | none => { w with cores := w.cores.map (fun k => { k with stop := .fails }) }
  | some i =>
    let same := here.all (fun x => match x with
      | some j => j.op = i.op && (i.op ≠ 0x71 || j.mod = i.mod) && (i.op ≠ 0x63 || j.mod2 = i.mod2) && (i.op ≠ 0x66 || j.a = i.a)
      | none => false)
    if !same || (i.op = 0x70 && kwPeerLate w) then { w with cores := w.cores.map (fun k => { k with stop := .fails }) }
    else if i.op = 0x70 then { w with snap := w.s, peers := [], wrote := [], cores := w.cores.map kwOn }
    else if i.op = 0x71 then kwReduceAll b w i
    else if i.op = 0x63 then kwBranchAll b w i
    else kwRoutineAll b w i

/-- The run of a function on all cores: they run to a meeting, meet, and so on, until every core has ended; none where a result is not defined or
m meetings of n instructions do not suffice. -/
def kwRunAll (b : List Byte) (n : Nat) : Nat → KwWorld → Option KwWorld
  | 0, _ => none
  | m + 1, w =>
    let w := kwAll b n w
    if w.cores.all (fun k => k.stop = .ends) then (if kwPeerLate w then none else some w)
    else if w.cores.all (fun k => k.stop = .meets) then kwRunAll b n m (kwMeet b w)
    else none

/-! ### The results of a function (R148), and what native code gives (R152) -/

/-- The cores of a context at the start of an entry function, each with a thread and a queue of its own. -/
def kwStart (s : State) (c fn : Nat) : KwWorld :=
  let sites := layoutSites s (layoutWidth s c)
  let queue : QEntry := { base := 0, log2 := 4, state := 2, thread := 0, ctx := c, core := 0, trace := false, head := 0, tail := 0, haltMark := 0
                          haltFault := 0, stopping := none, saved := none }
  let s := { s with
    queues := (List.range sites.length).map (fun k => (k, { queue with core := k }))
    mesh := { s.mesh with arrivals := [] } }
  let s := sites.foldl (fun s site => modCore s site (fun k =>
    { k with threads := [(0, { freshThread with holder := some c })], held := [], started := [], lock := none })) s
  { s := s, snap := s, peers := [], wrote := []
    cores := sites.zipIdx.map (fun x =>
      { u := { q := x.2, ctx := c, core := x.2, site := x.1, t := 0, home := x.1 }, tiles := [], accs := [], scalars := [], argTiles := [], argRegs := []
        fn := fn, pc := 0, loops := [], calls := [], stop := .runs }) }

/-- The results of entry function fn of a module in a context: what R148 defines, where it defines it. -/
def kwResults (b : List Byte) (s : State) (c fn n m : Nat) : Option KwWorld := kwRunAll b n m (kwStart s c fn)

/-- Two states that agree on the results of a context: the bytes of its pages, the gradients on their way, the step. -/
def sameResults (c : Nat) (s t : State) : Prop :=
  (∀ x y, ctxAt s c = some x → ctxAt t c = some y → ∀ a n, mapped x a n = true → memBytes (ctxSlice t y a n) 0 n = memBytes (ctxSlice s x a n) 0 n) ∧
    (∀ p, (portAt t p).nodes = (portAt s p).nodes) ∧ t.step = s.step

/-- What R152 asks of a run of native code that entered function fn in state s and has ended on every core in state t: the results of R148, whenever
they are defined. The native code itself is open (log entry 15), so that this is no law of the model but a condition on it. -/
def GivesResults (b : List Byte) (c fn : Nat) (s t : State) : Prop := ∀ n m w, kwResults b s c fn n m = some w → sameResults c w.s t

end Sys2Proof.Machine
end

