-- ==== Sys2Proof/WellFormed.lean ====
section
/-!
DEFINITION. WellFormed.lean: the commands that a sender can present: places that the module has, requests, messages and lines of the sizes that
their interfaces carry. What a well-formed command asks for that the module does not do is answered by its meaning, never here.
-/
namespace Sys2Proof

/-- A core's site and a reach (R16). -/
def isSite (k : BitVec 7) : Bool := decide (k.toNat < 72)
def isReach (r : BitVec 7) : Bool := decide (r.toNat < 77)
/-- A request of the mailbox area: its payload is no longer than the area (R501). -/
def isReq (r : Req) : Bool := decide (r.payload.length ≤ 65520)
/-- A tow message: a body of 32 bytes and at most 4,096 bytes of payload (R418). -/
def isTow (m : Tow) : Bool := decide (m.body.length = 32) && decide (m.payload.length ≤ 4096)
/-- A temperature in 1/16 °C as a register holds it (R538). -/
def isTemp (t : Int) : Bool := decide (-32768 ≤ t) && decide (t < 32768)

/-- Whether a sender can present a command. -/
def WellFormed (i : Instr) : Bool :=
  match i with
  | .mov _ _ | .add _ _ | .sub _ _ | .mul _ _ | .bitAnd _ _ | .bitOr _ _ | .bitXor _ _ | .shl _ _ | .shr _ _ | .sra _ _ | .setCond _ _ | .fadd _ _
  | .fmul _ _ | .fset _ _ | .scalarLoad _ _ | .scalarStore _ _ | .product _ _ | .sparseProduct _ _ | .sparseEncode _ _ | .sparseCheck _ _
  | .sparseSlotSetup _ _ | .vadd _ _ | .vsub _ _ | .vmul _ _ | .vfma _ _ | .vmin _ _ | .vmax _ _ | .vabs _ _ | .vneg _ _ | .vsel _ _ | .vcmp _ _
  | .vexp2 _ _ | .vlog2 _ _ | .vrsqrt _ _ | .vrecip _ _ | .vtanh _ _ | .vred _ _ | .cvt _ _ | .vectorSlotSetup _ _ | .descLoad _ _ _ | .admitStream _ _ _
  | .nextUnit _ _ | .run _ _ | .retire _ _ | .streamSlotSetup _ _ | .wait _ | .yieldQueue _ | .barrier _ | .barrierRelease _ _ | .layer _ _ _
  | .stepBegin _ | .call _ _ | .returnCmd _ | .enter _ _ _ | .exitCmd _ | .loop _ _ | .branchScalar _ _ _ | .branchTensor _ _ | .scalarReduce _ _ _ _
  | .gradEmit _ _ | .tileProduct _ | .stripProduct _ | .chainProduct _ | .attnWindowFwd _ | .attnWindowBwd _ | .attnGlobalFwd _ | .attnGlobalBwd _
  | .rmsnormFwd _ | .rmsnormBwd _ | .layernormFwd _ | .layernormBwd _ | .softmaxFwd _ | .softmaxBwd _ | .quant _ | .dequant _ | .transcode _
  | .rowReduce _ | .layoutReduce _ | .tensorNorm2 _ | .sparseProductRoutine _ | .libInfo _ | .doorbellWrite _ _ _ _ | .qsCreate _ | .qsRestart _
  | .qsDisable _ | .qsEnable _ | .qsDestroy _ | .qsCmdDone | .qsPeek _ | .registerWrite _ _ _ | .stepArm | .stepDisarm | .resolveCommit
  | .resolveDiscard _ | .prime | .secureStart _ | .secureSent | .secureSeal | .digestSelect _ _ | .fpBarrier _ _ | .fabricPortEnable _ | .hdmEnable
  | .hdmDisable | .pgTrigger | .pegInEdge | .pegLatch | .pgRelease | .autoRelease | .btReset _ | .tlSel _ _ | .tlDataNext | .tallyLoadDone
  | .mailboxStatusClear | .imageWriteDone | .contextReleased _ | .ringAdd _ | .ringCreditWrite _ _ | .refusalRecord _ _ _ _ _ | .peerAbort _ _ _
  | .feederFetch _ | .weightMulticast _ _ | .mangleChunk _ | .pressApply _ | .groupChainEnd _ | .voteTimeout | .replayDone | .pageMoveDone _
  | .faultRecord | .faultAggregate | .riskTick | .routeRebuildStart | .routeDrainDone | .headKeeperTrap _ | .overcurrent | .inputLoss | .coldStart _
  | .imageVerify | .waveUp | .refclkLoss | .refclkReturn | .h0LinkDown | .spdmRequest _ | .getPqCert _ | .getPqSignature | .i3cEntdaa _
  | .pldmFirmwareUpdate _ | .pldmTallyRead _ _ _ _ | .pldmReset | .fabricLinkDown _ => true
  | .streamUnitComplete site _ _ => isSite site
  | .tokenWaitMet site _ => isSite site
  | .engineCommandRetire site _ => isSite site
  | .remoteSignalArrival src dst _ => decide (src.toNat < 72) && decide (dst.toNat < 72)
  | .syncTimeout site _ => isSite site
  | .selfCheck _ failing _ => failing.all (fun a => decide (a < 7))
  | .wtOpen site _ => isSite site
  | .wtClose site _ => isSite site
  | .wtDrain site _ => isSite site
  | .wtAbort site _ => isSite site
  | .windowWrite _ core _ _ data _ _ _ => decide (core.toNat < 72) && decide (data ≠ [])
  | .windowRead _ core _ _ len _ _ => decide (core.toNat < 72) && decide (0 < len)
  | .windowWriteLanded site _ => isSite site
  | .xbarSet site _ => isSite site
  | .xbarWordRead site => isSite site
  | .xbarWordWrite site _ => isSite site
  | .shadowCommit reach _ => isReach reach
  | .shadowCommitEffect reach _ => isReach reach
  | .faultClear reach _ => isReach reach
  | .irqStatusClear reach _ _ => isReach reach
  | .counterReadClear reach _ _ => isReach reach
  | .timestampRead reach => isReach reach
  | .hdmAccess offset _ data => decide (data ≠ []) && decide (offset % 64 + data.length ≤ 64)
  | .backInvalidateResponse _ data => decide (data = []) || decide (data.length = 64)
  | .msixUnmask w => w.vector.all (fun v => decide (v.toNat ≤ 64))
  | .imagePush r => isReq r
  | .identityRead r => isReq r
  | .tallyRead r => isReq r
  | .reset r => isReq r
  | .contextCreate r => isReq r
  | .contextEnd r => isReq r
  | .alloc r => isReq r
  | .free r => isReq r
  | .fabricMap r => isReq r
  | .load r _ => isReq r
  | .jobRecord r => isReq r
  | .shardRecord r => isReq r
  | .restore r _ => isReq r
  | .moduleRing r => isReq r
  | .gradChunk m => isTow m
  | .weightRequest m => isTow m
  | .weightData m => isTow m
  | .commitVote m => isTow m
  | .commit m => isTow m
  | .barrierMessage m => isTow m
  | .pegMessage m => isTow m
  | .mirrorWrite m => isTow m
  | .parityWrite m => isTow m
  | .replayRequest m => isTow m
  | .digest m => isTow m
  | .windowOpen m => isTow m
  | .windowClose m => isTow m
  | .multicastAck _ source _ => isReach source
  | .reductionCombine _ level index => decide (level < 7) && decide (index < 64)
  | .voteCast busy => decide (busy.length ≤ 72)
  | .heatEpoch counts => counts.all (fun n => decide (n.1 < 64) && decide (n.2.1 < 2 ^ 27))
  | .stackOffline site _ => isSite site
  | .lockWindowWrap reach _ => isReach reach
  | .arbiterGrant reach _ a => isReach reach && a.feeds.all (fun f => decide (f.1 < 4) && decide (f.2 < 10))
  | .arbiterWithdrawal reach _ => isReach reach
  | .linkRetry reach _ _ => isReach reach
  | .elasticSlip reach _ => isReach reach
  | .plannedOff reach _ => isReach reach
  | .clockLoss reach _ => isReach reach
  | .supplyTrip reach => isReach reach
  | .pllUnlock reach => isReach reach
  | .reachReturn reach => isReach reach
  | .keeperRestart reach _ => isReach reach
  | .governorDecision g => decide (g.current < 2 ^ 16) && decide (g.flow < 2 ^ 16) && decide (g.power < 2 ^ 16) && isTemp g.inlet && g.temps.all (fun x => decide (x.1 < 77) && isTemp x.2)
  | .heatRecovery reach => isReach reach
  | .junctionCutoff reach => isReach reach
  | .coolant flow inlet => decide (flow < 2 ^ 16) && isTemp inlet
  | .ready failed => failed.all (fun k => decide (k < 72))
  | .fabricLinkTrained _ width _ _ _ _ => decide (width.toNat < 3)
  | .ideFail port => decide (port.toNat < 5)
  | .h0LinkUp width _ _ _ => decide (width.toNat < 3)
  | .pldmSensorRead reach _ => isReach reach
  | .stackScrub stack hits => decide (stack.toNat < 144) && hits.all (fun h => match h.kind.toNat with
      | 0 => decide (h.page < 34332) && decide (h.line < 32768)
      | 1 => decide (h.line < 2 ^ 21)
      | 2 => decide (h.page < 16) && decide (h.line < 1024)
      | 3 => decide (h.page < 4) && decide (h.line < 1024)
      | _ => false)

end Sys2Proof
end

