-- ==== Sys2Proof/Tests/Slice0.lean ====
section
/-!
SUPPORT. Slice0.lean: small tests of the model, the ill-formed terms that WellFormed refuses, and for every statement of Obligations.lean with
hypotheses a state and operands that meet them.
-/
set_option Elab.async false
namespace Sys2Proof.Tests
open Sys2Proof.Machine

/-! ### A small module that runs -/

/-- Every reach up, phase READY, H0 up, 72 cores in service, logical cores 0 to 3 at sites 0 to 3. -/
def up : State :=
  let s := { State.reset with power := { State.reset.power with up := List.range 77 }, hdm := { State.reset.hdm with h0Up := true } }
  setRegWord (setRegWord s 76 0x2D 0x040 0x48000005) headPage 0 0x400 0x03020100

/-- A numeric policy. -/
def policy : Policy :=
  { stCtrl := 0, satLimit := 0, mxCtrl := 0, ratioWarmup := 0, roundAct := 0, beta1 := 0x3F000000, beta1c := 0x3F000000, beta2 := 0x3F000000,
    beta2c := 0x3F000000, eps := 0x3F800000, wd := 0, gradScale := 0x3F800000, clipNorm := 0x7F800000, rhoPrior := 0, rhoFloor := 0,
    rhoSuspect := 0x7F800000, eSecure := 0x7F800000, halfLife := 3600, secureMin := 0, secureMax := 0, lagBand := 0, lagSteps := 1,
    weights := [], bands := [] }

/-- A parameter of one tile of format 0x01 in layer 1 and group 0. -/
def param : Param := { tensorId := 1, layer := 1, key := 0, rows := 512, cols := 512, format := 1, group := 0, frozen := false, migratable := false }

/-- A program for one core. -/
def prog : Loaded :=
  { handle := 7, width := 1, weights := [1], threads := 2, moduleId := [], digest := 0, entries := [(0, 0, 0)], params := [param], tensors := [],
    layers := [1, 2], policy := policy, replay := none, native := [] }

/-- A resident page of stack 0. -/
def pte (page : Nat) : Pte := { stain := false, migratable := false, pinned := false, state := 0, fabric := false, place := 0, page := page, heat := 0 }

/-- A context with the program, 4,096 scratchpad rows and four mapped pages. -/
def ctx : Ctx :=
  { spBase := 0, spRows := 4096, stackPages := 100, fabricPages := 10, windows := 4, seed := 0, faultRing := 0x1000, faultLog2 := 4, faultWritten := 0,
    traceRing := 0, traceLog2 := 0, traceWritten := 0, traceDropped := 0, objects := [{ base := 0x200000, pages := 4, size := 0x800000, tierSet := 0, home := [0], fabricEntry := 0, migratable := false, dropped := 0 }], pt := [(1, pte 16), (2, pte 17), (3, pte 18), (4, pte 19)], freed := [],
    loaded := some prog, ending := none }

/-- A queue of core 0 and thread 0 with two commands, taken up by its thread. -/
def queue : QEntry :=
  { base := 0x800000, log2 := 4, state := 2, thread := 0, ctx := 0, core := 0, trace := false, head := 0, tail := 2, haltMark := 0, haltFault := 0,
    stopping := none, saved := none }

/-- The module with context 0, queue 1 and its thread. -/
def base : State :=
  { up with
    ctxs := [(0, ctx)]
    queues := [(1, queue)]
    cores := [(0, { freshCore with threads := [(0, { freshThread with attached := some 1, holder := some 0 })], passed := true })] }

def u : Issue := { q := 1, ctx := 0, core := 0, site := 0, t := 0, home := 0 }

/-- A header of a thread's command from queue 1. -/
def h : Hdr :=
  { queue := 1, engine := 0, fence := false, trace := false, mark := 5, waitTok := 0, waitCnt := 0, sigTok := 0, sigCnt := 0, sigRemote := false,
    sigCore := 0, targetValid := false, targetCore := 0 }

/-- Its own thread, changed. -/
def withThread (f : Thread → Thread) : State := modThread base 0 0 f

/-- A header for an engine's queue. -/
def he (engine : Byte) : Hdr := { h with engine := engine }
def so : ScalarOps := { dst := 3, srcA := 1, srcB := 2, cond := 0, imm := 0 }
/-- A tile operation into accumulator 0 from accumulator 1. -/
def vo : VecOps :=
  { d := 0x20000000, a := 0x20000001, b := 0x20000001, c := 0x20000001, formatOut := 0, round := 0, slot := 0, cond := 0, rows := 2, tensorId := 0,
    tileIndex := 0, srcFormat := 0, imm := 0 }
def ret (e : Bool) : Ret := { pc := 5, code := none, isEnter := e }

/-! The bytes of commands, from the layouts of R157 to R165, R173, R174, R176, R177, R191, R237, R244, R296 and R370. -/

/-- Bytes 0 to 15 of a command, and its fields by offset, size and value. -/
def cmdBytes (h : Hdr) (op flags : Nat) (fs : List (Nat × Nat × Nat)) : List Byte :=
  fs.foldl (fun b f => b.take f.1 ++ leBytes f.2.1 f.2.2 ++ b.drop (f.1 + f.2.1))
    (leBytes 2 op ++ leBytes 1 (128 * h.fence.toNat + 64 * h.trace.toNat + flags) ++ [h.engine] ++ leBytes 4 h.mark.toNat ++ [h.waitTok, h.waitCnt, h.sigTok, h.sigCnt] ++
      leBytes 1 (128 * h.sigRemote.toNat + h.sigCore.toNat) ++ leBytes 1 (128 * h.targetValid.toNat + h.targetCore.toNat) ++ leBytes 50 0)
def scalarFields (o : ScalarOps) : List (Nat × Nat × Nat) :=
  [(16, 1, o.dst.toNat), (17, 1, o.srcA.toNat), (18, 1, o.srcB.toNat), (19, 1, o.cond.toNat), (24, 8, o.imm.toNat)]
def vectorFields (o : VecOps) : List (Nat × Nat × Nat) :=
  [(16, 4, o.d.toNat), (20, 4, o.a.toNat), (24, 4, o.b.toNat), (28, 4, o.c.toNat), (32, 1, o.formatOut.toNat), (33, 1, o.round.toNat), (34, 1, o.slot.toNat),
   (35, 1, o.cond.toNat), (36, 2, o.rows.toNat), (38, 2, o.tensorId.toNat), (40, 4, o.tileIndex.toNat), (44, 1, o.srcFormat.toNat), (48, 4, o.imm.toNat)]
def productFields (o : ProductOps) : List (Nat × Nat × Nat) :=
  [(16, 1, 128 * o.xFromSp.toNat + o.xReg.toNat), (17, 1, 32 * o.xTranspose.toNat + 16 * o.wTranspose.toNat + o.wReg.toNat),
   (18, 1, 16 * o.accumulate.toNat + 4 * o.quadrant.toNat + o.acc.toNat), (19, 1, o.xFormat.toNat), (20, 1, o.wFormat.toNat), (22, 2, o.rows.toNat),
   (24, 4, o.xRow.toNat), (28, 4, o.xScale.toNat)]
def sparseFields (o : SparseOps) : List (Nat × Nat × Nat) :=
  productFields o.product ++ [(21, 1, o.sparseFormat.toNat), (32, 4, o.metaRow.toNat), (38, 1, o.reg.toNat)]
def encodeFields (o : EncodeOps) : List (Nat × Nat × Nat) :=
  [(16, 4, o.srcRow.toNat), (20, 4, o.metaRow.toNat), (24, 4, o.bodyRow.toNat), (28, 1, o.sparseFormat.toNat), (29, 1, o.valueFormat.toNat), (30, 1, o.srcFormat.toNat),
   (31, 1, o.kspanLog2.toNat), (32, 1, o.slot.toNat), (33, 1, o.round.toNat), (34, 2, o.tensorId.toNat), (36, 4, o.tileIndex.toNat)]
def setupFields (o : SetupOps) : List (Nat × Nat × Nat) :=
  [(48, 1, o.slot.toNat), (49, 1, 16 * o.mode.toNat + 4 * o.target.toNat + o.owner.toNat), (50, 1, 128 * o.hasInit.toNat + o.headroom.toNat), (51, 1, o.initExp.toNat)]
def tensorFields (o : BranchTensorOps) : List (Nat × Nat × Nat) :=
  [(18, 1, o.srcB.toNat), (19, 1, o.cond.toNat), (20, 4, o.offset.toNat), (24, 8, o.imm.toNat), (32, 4, o.spec.toNat), (36, 1, o.redOp.toNat), (37, 1, o.scope.toNat),
   (38, 1, o.reg.toNat)]
def gradFields (o : GradOps) : List (Nat × Nat × Nat) :=
  [(16, 1, o.port.toNat), (17, 1, o.transpose.toNat), (32, 4, o.source.toNat), (38, 2, o.tensorId.toNat), (40, 4, o.tileIndex.toNat)]
/-- The bytes of a command that a test presents. -/
def bytesOf : Instr → List Byte
  | .mov h o => cmdBytes h 0x0001 0 (scalarFields o) | .add h o => cmdBytes h 0x0002 0 (scalarFields o) | .sub h o => cmdBytes h 0x0003 0 (scalarFields o)
  | .mul h o => cmdBytes h 0x0004 0 (scalarFields o) | .bitAnd h o => cmdBytes h 0x0005 0 (scalarFields o) | .bitOr h o => cmdBytes h 0x0006 0 (scalarFields o)
  | .bitXor h o => cmdBytes h 0x0007 0 (scalarFields o) | .shl h o => cmdBytes h 0x0008 0 (scalarFields o) | .shr h o => cmdBytes h 0x0009 0 (scalarFields o)
  | .sra h o => cmdBytes h 0x000A 0 (scalarFields o) | .setCond h o => cmdBytes h 0x000B 0 (scalarFields o) | .fadd h o => cmdBytes h 0x0010 0 (scalarFields o)
  | .fmul h o => cmdBytes h 0x0011 0 (scalarFields o) | .fset h o => cmdBytes h 0x0012 0 (scalarFields o) | .scalarLoad h o => cmdBytes h 0x0020 0 (scalarFields o)
  | .scalarStore h o => cmdBytes h 0x0021 0 (scalarFields o)
  | .product h o => cmdBytes h 0x1001 0 (productFields o) | .sparseProduct h o => cmdBytes h 0x1002 0 (sparseFields o) | .sparseCheck h o => cmdBytes h 0x1002 1 (sparseFields o)
  | .sparseEncode h o => cmdBytes h 0x1002 2 (encodeFields o)
  | .vadd h o => cmdBytes h 0x2000 0 (vectorFields o) | .vfma h o => cmdBytes h 0x2003 0 (vectorFields o) | .vabs h o => cmdBytes h 0x2006 0 (vectorFields o)
  | .vcmp h o => cmdBytes h 0x2009 0 (vectorFields o) | .vred h o => cmdBytes h 0x2010 0 (vectorFields o) | .cvt h o => cmdBytes h 0x2011 0 (vectorFields o)
  | .descLoad h d row => cmdBytes h 0x3001 0 [(16, 1, d.toNat), (20, 4, row.toNat)] | .admitStream h d reg => cmdBytes h 0x3002 0 [(16, 1, d.toNat), (38, 1, reg.toNat)]
  | .nextUnit h d => cmdBytes h 0x3003 0 [(16, 1, d.toNat)] | .run h d => cmdBytes h 0x3004 0 [(16, 1, d.toNat)] | .retire h d => cmdBytes h 0x3005 0 [(16, 1, d.toNat)]
  | .streamSlotSetup h o => cmdBytes h 0x3006 0 (setupFields o)
  | .wait h => cmdBytes h 0x4001 0 [] | .yieldQueue h => cmdBytes h 0x4002 0 [] | .barrier h => cmdBytes h 0x4003 0 []
  | .layer h id direction => cmdBytes h 0x4004 0 [(20, 2, id.toNat), (22, 1, direction.toNat)] | .stepBegin h => cmdBytes h 0x4005 0 []
  | .call h offset => cmdBytes h 0x5001 0 [(20, 4, offset.toNat)] | .returnCmd h => cmdBytes h 0x5002 0 []
  | .enter h entry handle => cmdBytes h 0x5004 0 [(20, 4, entry.toNat), (24, 8, handle.toNat)] | .exitCmd h => cmdBytes h 0x5005 0 []
  | .tileProduct h => cmdBytes h 0x5003 0 [(16, 2, 0x0101)] | .attnWindowFwd h => cmdBytes h 0x5003 0 [(16, 2, 0x0201)] | .attnGlobalBwd h => cmdBytes h 0x5003 0 [(16, 2, 0x0204)]
  | .layoutReduce h => cmdBytes h 0x5003 0 [(16, 2, 0x0502)] | .sparseProductRoutine h => cmdBytes h 0x5003 0 [(16, 2, 0x0601)]
  | .selfCheck h _ _ => cmdBytes h 0x5003 0 [(16, 2, 0x0F01)] | .libInfo h => cmdBytes h 0x5003 0 [(16, 2, 0x0F02)]
  | .loop h o => cmdBytes h 0x6001 0 [(16, 1, o.countSrc.toNat), (20, 4, o.countImm.toNat), (24, 2, o.body.toNat)]
  | .branchScalar h o offset => cmdBytes h 0x7001 0 (scalarFields o ++ [(20, 4, offset.toNat)]) | .branchTensor h o => cmdBytes h 0x7002 0 (tensorFields o)
  | .scalarReduce h dst src op => cmdBytes h 0x8001 0 [(16, 1, dst.toNat), (17, 1, src.toNat), (18, 1, op.toNat)] | .gradEmit h o => cmdBytes h 0x8002 0 (gradFields o)
  | _ => []
/-- A state with a command's bytes at HEAD of queue 1. -/
def ring (s : State) (i : Instr) : State := match ctxAt s 0 with | some x => ctxSplice s 0 x (headAddr s u) 64 (memOf (bytesOf i)) false | none => s
/-- A command of queue 1 stands at HEAD, and its thread can run it. -/
def presents (s : State) (i : Instr) (h : Hdr) : Bool := threadRuns (ring s i) u h && atRingHead (ring s i) u i

theorem witness_IdlePeriod : base.pending = [] ∧ reachUp base 76 = true ∧ base.power.refclk = true := by decide +kernel
theorem witness_StepRunsFront : ({ base with pending := [.wait h, .riskTick] } : State).pending = .wait h :: [.riskTick] := rfl
theorem witness_StepKeepsBounds : Bounded State.reset := by unfold Bounded LogsFit; decide +kernel
theorem witness_ScalarOperations : [Instr.mov h so, .add h so, .sub h so, .mul h so, .bitAnd h so, .bitOr h so, .bitXor h so, .shl h so, .shr h so, .sra h so, .fadd h so,
    .fmul h so].all (fun i => presents base i h) = true := by decide +kernel
theorem witness_ScalarCompares : ∀ c < 10, presents base (.setCond h { so with cond := BitVec.ofNat 8 c }) h = true ∧ presents base (.fset h { so with cond := BitVec.ofNat 8 c }) h = true := by
  decide +kernel
theorem witness_ScalarMemory : ∀ i ∈ [Instr.scalarStore h { so with imm := 0x7FFF8 }, .scalarLoad h { so with imm := 0x7FFF8 }],
    let s := ring base i
    presents base i h = true ∧ spServed s u.site 5 = true ∧ (0x7FF8 : Nat) % 8 = 0 ∧ 0x7FFF8 / 128 < spRows s u.ctx ∧
    rowsStained s u.site (spBase s u.ctx + 0x7FFF8 / 128) 1 = false := by decide +kernel
theorem witness_WaitsAtThread :
    let w := { h with waitTok := 4, waitCnt := 1 }
    let s := ring base (.wait w)
    fetchable s u w = true ∧ w.engine = 0 ∧ unheld s u w = false ∧ atRingHead s u (.wait w) = true ∧ presents base (.wait h) h = true := by decide +kernel
theorem witness_CallsAndCodeObjects :
    presents base (.call h 5) h = true ∧ presents base (.enter h 0 prog.handle) h = true ∧ signalFits base u h = true ∧ (ownThread base u).rets.length < 8 ∧ loadedOf base u.ctx = some prog ∧
    (let s := withThread (fun th => { th with rets := [ret false] })
     presents s (.returnCmd h) h = true ∧ signalFits s u h = true ∧ (ownThread s u).rets.getLast? = some (ret false) ∧ (ownThread s u).loops = [] ∧
       moreAt s u (wrapPos s u ((ret false).pc : Nat)) = true) ∧
    (let s := { withThread (fun th => { th with rets := [ret true] }) with step := { base.step with ctx := 9 } }
     presents s (.exitCmd h) h = true ∧ signalFits s u h = true ∧ (ownThread s u).rets.getLast? = some (ret true) ∧ (ownThread s u).loops = [] ∧ s.step.ctx ≠ u.ctx ∧
       (entryD s u.q).head ≠ (entryD s u.q).tail) := by decide +kernel
theorem witness_LoopsAndBranches :
    presents base (.loop h { countSrc := 0x80, countImm := 0, body := 3 }) h = true ∧ presents base (.loop h { countSrc := 0x80, countImm := 2, body := 3 }) h = true ∧
    presents base (.branchScalar h { so with imm := 0 } 3) h = true ∧ signalFits base u h = true ∧ (3 : BitVec 16) ≠ 0 ∧ bitOf (0x80 : Byte).toNat 7 = true ∧ (ownThread base u).loops.length < 4 ∧
    (ownThread base u).loops = [] ∧ moreAt base u (wrapPos base u ((curPos base u : Nat) + 1 + 3)) = true ∧
    condScalar 0 (srcA base u so) (srcB base u so) = some true ∧ moreAt base u (wrapPos base u ((curPos base u : Nat) + 3)) = true ∧
    condScalar 1 (srcA base u so) (srcB base u so) = some false ∧ moreAt base u (nextPos base u) = true := by decide +kernel
/-- A second queue, 2, of the same thread, ready. -/
def twoQueues : State := { base with queues := [(1, queue), (2, { queue with state := 1 })] }
theorem witness_YieldAttachesNext : presents twoQueues (.yieldQueue h) h = true ∧ signalFits twoQueues u h = true ∧ u.q < 2 ∧ readyFor twoQueues u.core u.t 2 = true ∧
    (∀ p, readyFor twoQueues u.core u.t p = true → u.q < p → p = 2) ∧ (ownThread twoQueues u).loops = [] := by
  refine ⟨by decide +kernel, by decide +kernel, by decide +kernel, by decide +kernel, ?_, by decide +kernel⟩
  intro p hp hq
  by_cases h2 : p = 2
  · exact h2
  · have : queueAt twoQueues p = none := by
      simp only [queueAt, twoQueues, base, tFind]
      have : ¬(1 : Nat) = p := by simp only [u] at hq; omega
      have : ¬(2 : Nat) = p := fun x => h2 x.symm
      simp_all
    simp [readyFor, this] at hp
/-- Context 0 on two cores. -/
def wide : State := { base with ctxs := [(0, { ctx with loaded := some { prog with width := 2, weights := [1, 1] } })] }
def bto (scope : Byte) : BranchTensorOps := { srcB := 0, cond := 0, offset := 0, imm := 0, spec := 0x20000000, redOp := 3, scope := scope, reg := 1 }
/-- Both cores' arrivals at a barrier. -/
def bothAt : State :=
  let a := arrivalOf u 0 0 0 (.barrier h)
  { modThread wide 0 0 (fun th => { th with waits := .collective, held := some (.barrier h) }) with mesh := { wide.mesh with arrivals := [a, { a with core := 1, queue := 9 }] } }
theorem witness_Collectives :
    meetingWith wide (arrivalOf u 1 4 (regOf (ownThread wide u) 2) (.scalarReduce h 1 2 4)) = none ∧
    (tensorOperand (coreAt wide u.site) (bto 1).spec).isSome = true ∧ (bto 1).redOp.toNat ≤ 3 ∧ (bto 1).scope = 1 ∧ condKnown (bto 1).cond = true ∧
    regStained (coreAt wide u.site) 16 1024 = false ∧ meeting wide 0 0 0 0 = none ∧ (meeting bothAt 0 0 0 0).isSome = true ∧
    issueBase bothAt 1 = some u ∧ (ownThread bothAt u).waits = .collective ∧ (ownThread bothAt u).held = some (.barrier h) ∧ (ownThread bothAt u).attached = some u.q ∧
    base.mesh.arrivals.all (fun a => !sameMeeting 1 u.ctx u.t 0 a || decide (a.core ≠ u.core)) = true ∧
    (meetingWith base (arrivalOf u 1 0 (regOf (ownThread base u) 2) (.scalarReduce h 1 2 0))).isSome = true ∧ (bto 0).scope = 0 ∧
    presents wide (.scalarReduce h 1 2 4) h = true ∧ presents wide (.branchTensor h (bto 1)) h = true ∧ presents base (.branchTensor h (bto 0)) h = true ∧
    presents base (.scalarReduce h 1 2 0) h = true ∧ presents wide (.barrier h) h = true ∧ presents base (.barrier h) h = true ∧
    (bto 1).reg.toNat ≤ 31 ∧ u.core < layoutWidth base u.ctx ∧ othersHere base (arrivalOf u 1 0 (regOf (ownThread base u) 2) (.scalarReduce h 1 2 0)) = true := by decide +kernel
theorem witness_CollectivesRoute :
    toRoot wide u.site = .arrives ∧ toRoot base u.site = .arrives ∧
    (let s := setRegWord wide 0 0x03 (0x400 + 4 * 31) 0
     toRoot s u.site = .dropped 0 ∧ presents s (.barrier h) h = true ∧ presents s (.scalarReduce h 1 2 4) h = true) := by decide +kernel
/-- The commit page IDLE with an armed record of a kind, or a step under way in a state. -/
def armedFor (kind : Word) : State := setRegWord (setRegWord (setRegWord base 76 0x29 0x048 1) 76 0x29 0x044 1) 76 0x29 0x404 kind
def rec0 : StepRec := { step := 3, kind := 0, slotMask := 1, tokens := [1024, 0, 0, 0], lr := 0x3F800000, resultAddr := 0x4000 }
def running : State := { setRegWord base 76 0x29 0x048 2 with step := { base.step with record := some rec0 } }
theorem witness_LayersAndSteps :
    presents base (.layer h 1 0) h = true ∧ loadedOf base u.ctx = some prog ∧ (coreAt base u.site).layerPos = none ∧
    layerAt prog (decide (commitState base = 5)) 0 = some (1, 0 % 2) ∧ layerAt prog false 3 = some (1, 3 % 2) ∧
    (let s := modCore base 0 (fun c => { c with layerPos := some 2 }); presents s (.layer h 1 1) h = true ∧ layerAt prog (decide (commitState s = 5)) 3 = some (1, 3 % 2)) ∧
    (∀ k ∈ [0, 1], presents (armedFor (BitVec.ofNat 32 k)) (.stepBegin h) h = true ∧ commitState (armedFor (BitVec.ofNat 32 k)) = 1 ∧ armed (armedFor (BitVec.ofNat 32 k)) = true ∧
      (parseRecord (recordBytes (armedFor (BitVec.ofNat 32 k)))).kind = k) ∧ base.step.markPending = false ∧ base.step.votes = [] ∧ base.step.resolution = none ∧
    rangesWait (armedFor 0) [(genBase (armedFor 0) (activeGen (armedFor 0)), 28, false)] = none ∧
    presents running (.stepBegin h) h = true ∧ commitState running = 2 ∧ running.step.record = some rec0 ∧ running.step.ctx = u.ctx ∧ u.core ∉ running.step.begun := by decide +kernel
theorem witness_VectorResults : specKind vo.d = 2 ∧ vo.round.toNat ≤ 3 ∧ vo.rows.toNat ≤ 1024 ∧
    (∀ i ∈ [Instr.vadd (he 2) vo, .vfma (he 2) vo, .vabs (he 2) vo, .vcmp (he 2) vo, .cvt (he 2) vo, .vred (he 2) vo], engineRuns (ring base i) u (he 2) i .vector 2 = true ∧ sourcesReady (ring base i) u vo 3 (vecRows vo 1024) = true) ∧
    condKnown vo.cond = true ∧ vo.formatOut = 0 ∧ vo.cond.toNat ≤ 3 := by decide +kernel
/-- A conversion into tile 2 in a format. -/
def co (fmt : Byte) : VecOps := { vo with d := 0x10000002, formatOut := fmt }
theorem witness_ConversionsEncode :
    (specKind (co 1).d = 1 ∧ (shapeOf (co 1).formatOut).isSome = true ∧ engineRuns (ring base (.cvt (he 2) (co 1))) u (he 2) (.cvt (he 2) (co 1)) .vector 2 = true ∧
      sourcesReady (ring base (.cvt (he 2) (co 1))) u (co 1) 1 (vecRows (co 1) 512) = true ∧ tileScaled (co 1).formatOut = false) ∧
    (let s := ring (modCore base 0 (fun c => { c with slots := [(0, { target := 2, owner := 0, mode := 0, headroom := 0, hasInit := false, initExp := 0, valid := false, clean := 0, corr := 0, scaleExp := 0, est := 0 })] })) (.cvt (he 2) (co 3))
     engineRuns s u (he 2) (.cvt (he 2) (co 3)) .vector 2 = true ∧ sourcesReady s u (co 3) 1 (vecRows (co 3) 1024) = true ∧ tileScaled (co 3).formatOut = true ∧
       slotFault (slotAt s u.site (co 3).slot.toNat) 0 (co 3).formatOut (some (tileAt (coreAt s u.site) (specTile (co 3).d)).tileScale) = none) := by decide +kernel
theorem witness_SlotsSetUp :
    let o : SetupOps := { slot := 3, target := 1, owner := 1, mode := 2, headroom := 1, hasInit := true, initExp := 0x82, reserved := false }
    o.reserved = false ∧ o.owner.toNat ≠ 3 ∧ -126 ≤ o.initExp.toInt ∧ (o.mode = 2 → o.hasInit = true) ∧
    engineRuns (ring base (.streamSlotSetup (he 3) o)) u (he 3) (.streamSlotSetup (he 3) o) (.stream 0) 3 = true ∧ o.owner.toNat = 1 := by decide +kernel

/-! Engines -/

def tile (fmt : Byte) : TileReg := { tileAt freshCore 0 with format := fmt }
/-- Tiles 0 and 1 of core 0 in a format. -/
def tiles (fmt : Byte) : State := modCore base 0 (fun c => { c with tiles := [(0, tile fmt), (1, tile fmt)] })
def po : ProductOps :=
  { xFromSp := false, xReg := 1, xTranspose := false, wTranspose := false, wReg := 0, accumulate := true, quadrant := 0, acc := 3, xFormat := 1, wFormat := 1
    rows := 512, xRow := 0, xScale := 0x3F800000, upsets := [] }
/-- The metadata of a BLOCKLIST image of format 0x01 and span 512 without a block. -/
def emptyList : Mem :=
  memOf (leBytes 4 0x4D50534C ++ leBytes 1 4 ++ leBytes 1 1 ++ leBytes 2 512 ++ leBytes 4 512 ++ leBytes 4 0 ++ leBytes 8 0 ++ leBytes 4 64)
def sparse : State := { tiles 1 with store := { base.store with scratch := emptyList } }
def spo : SparseOps := { product := po, sparseFormat := 4, metaRow := 0, reg := 7 }
def isOk (x : MetaRead) : Bool := match x with | .ok _ => true | _ => false
def metaOf (x : MetaRead) : Mem := match x with | .ok m => m | _ => []

theorem witness_ExactSumsAreWhole : pathOf (tile 5).format = .exact ∧ pathOf (tile 7).format = .exact ∧ Memory.wf (tile 5).data = true ∧ Memory.wf (tile 7).data = true ∧
    (1023 : Nat) < 1024 := by decide +kernel
theorem witness_ProductsAccumulate :
    let s := ring (tiles 1) (.product (he 1) po)
    engineRuns s u (he 1) (.product (he 1) po) .matrix 1 = true ∧ productFault s u po 1 = none ∧ spServed s u.site 0 = true ∧ productStained s u po 1 = false := by decide +kernel
theorem witness_SparseCommands :
    let m := metaOf (readMeta sparse u 0 4 1)
    let bad := metaOf (readMeta sparse u 0 4 2)
    engineRuns (ring sparse (.sparseProduct (he 4) spo)) u (he 4) (.sparseProduct (he 4) spo) .sparse 4 = true ∧ sparseKnown 4 = true ∧ isOk (readMeta sparse u 0 4 1) = true ∧ metaCheck 4 1 m = none ∧
      (spo.product.xReg.toNat % ((sparseHead m).span / denseWidth 1) = 0) ∧ productFault sparse u po ((sparseHead m).span / denseWidth 1) = none ∧
      productStained sparse u po ((sparseHead m).span / denseWidth 1) = false ∧ engineRuns (ring sparse (.sparseCheck (he 4) spo)) u (he 4) (.sparseCheck (he 4) spo) .sparse 4 = true ∧
      isOk (readMeta sparse u 0 4 2) = true ∧ metaCheck 4 2 bad = some (0x0801, 5) ∧ spServed sparse u.site 0 = true ∧
      checkVerdict sparse u spo = some none ∧ checkVerdict sparse u { spo with product := { po with wFormat := 2 } } = some (some (0x0801, 5)) ∧
      checkVerdict sparse u { spo with sparseFormat := 5 } = some (some (0x0114, 0)) ∧ checkVerdict sparse u { spo with metaRow := 4096 } = some (some (0x0308, 0)) := by decide +kernel

theorem encKept_empty (fmt : Byte) (n w r k : Nat) (hf : encScaled { fmt := fmt, span := n, rows := w, m := [] } = false)
    (h : (match scaleNum fmt 0 with
      | none => true
      | some (n, _) => n ≠ 0 && (match elemNum fmt (0 % 2 ^ encWidth { fmt := fmt, span := n, rows := w, m := [] }) with | .fin _ v _ => v ≠ 0 | _ => true)) = false) :
    encKept { fmt := fmt, span := n, rows := w, m := [] } r k = false := by
  have h0 : ∀ (b i : Nat), packedGet [] b i = 0 % 2 ^ b := by
    intro b i
    have : ∀ l : List Nat, leNat (l.map (fun j => memByte [] j)) = 0 := by
      intro l; induction l with
      | nil => rfl
      | cons a l ih => simp [leNat, ih]; rfl
    have e : memBytes [] (b * i / 8) ((b + 15) / 8) = ((List.range ((b + 15) / 8)).map (fun j => b * i / 8 + j)).map (fun j => memByte [] j) := by
      simp [memBytes, List.map_map, Function.comp_def]
    simp only [packedGet, e, this, Nat.zero_div]
  have hs : encScale { fmt := fmt, span := n, rows := w, m := [] } r k = 0 := by simp [encScale, hf]
  simp only [encKept, hs, encCode, h0, hf, Bool.false_and, Bool.not_false, Bool.true_and]
  exact h

def enc : EncodeOps :=
  { srcRow := 0, metaRow := 0, bodyRow := 1, sparseFormat := 4, valueFormat := 1, srcFormat := 1, kspanLog2 := 9, slot := 0, round := 0, tensorId := 0, tileIndex := 0 }
/-- The context with the whole scratchpad. -/
def roomy : State := { base with ctxs := [(0, { ctx with spRows := 131072 })] }
theorem witness_EncodesImages :
    let e0 : EncSource := { fmt := 1, span := 512, rows := sparseRows 1, m := [] }
    let bytes := encData e0 + encScaleBytes e0
    let e : EncSource := { e0 with m := rowsSlice roomy 0 0 bytes }
    let b := buildList e { sf := 4, fmt := 1, span := 512 }
    engineRuns (ring roomy (.sparseEncode (he 4) enc)) u (he 4) (.sparseEncode (he 4) enc) .sparse 4 = true ∧ spServed roomy u.site 0 = true ∧ valueAccepted 4 1 = true ∧ spanOk 4 1 512 = true ∧
      enc.srcRow.toNat + (bytes + 127) / 128 ≤ spRows roomy u.ctx ∧ rowsStained roomy 0 0 bytes = false ∧ b.units ≤ perPass 1 ∧ builtFits roomy u enc b = true ∧
      rowKey 0 0 + 64 + b.tailBytes ≤ rowKey 0 1 := by
  have hm : ∀ n, rowsSlice roomy 0 0 n = [] := by intro n; rfl
  have hb : buildList { fmt := 1, span := 512, rows := sparseRows 1, m := [] } { sf := 4, fmt := 1, span := 512 } =
      { units := 0, tail := [], tailBytes := 0, values := [], valueBytes := 0, scales := [], scaleBytes := 0, denseBlocks := 0 } := by
    unfold buildList
    have hk : ∀ r k, encKept { fmt := 1, span := 512, rows := sparseRows 1, m := [] } r k = false :=
      fun r k => encKept_empty 1 512 (sparseRows 1) r k rfl (by decide +kernel)
    simp only [hk]
    generalize List.range (blockCount _) = l
    have : ∀ (l : List Nat) (s : Built), l.foldl (fun t _ => t) s = s := by intro l s; induction l with | nil => rfl | cons a l ih => exact ih
    have hz : (List.range 4096).any (fun _ => false) = false := by simp
    simp only [hz, Bool.not_false, ↓reduceIte]
    exact this l _
  simp only [hm, hb]
  decide +kernel

/-! Streams -/

/-- An image of row units from context memory into the scratchpad: n units of 128 bytes. -/
def rowImage (kind n : Nat) : DescImage :=
  { kind := kind, out := false, nearKind := 0, farKind := 0, format := 0xFF, unit := 2, tileRows := 1, tileCols := 0, farBase := 0x200000, nearBase := 16
    bufStride := 1, bufCount := 2, dims := 1, srcFormat := 0xFF, round := 0, scaleTable := 0, rate := if kind = 1 then 1024 else 0, cvt := 0
    dim := [(0, n, 128), (0, 0, 0), (0, 0, 0), (0, 0, 0), (0, 0, 0)] }
/-- Its bytes (R289). -/
def rowBytes (n : Nat) : List Byte :=
  [0, 0, 0xFF, 2] ++ leBytes 2 1 ++ leBytes 2 0 ++ leBytes 8 0x200000 ++ leBytes 8 16 ++ leBytes 4 1 ++ leBytes 1 2 ++ leBytes 1 1 ++ [0xFF, 0] ++ leBytes 8 0 ++
    leBytes 4 0 ++ leBytes 4 0 ++ leBytes 4 0 ++ leBytes 4 n ++ leBytes 8 128 ++ leBytes 64 0
/-- Descriptor 3 in a state with an image. -/
def withDesc (s : State) (state next : Nat) (d : DescImage) (flight : List (Nat × Hdr × Bool × Nat)) : State :=
  modCore s 0 (fun c => { c with descs := [(3, { freshDesc with state := state, image := some d, nextUnit := next, flight := flight })] })
def imaged : State := { base with store := { base.store with scratch := memStore [] (rowKey 0 4095) (rowBytes 4) } }

theorem witness_DescriptorsLoadAndRetire :
    (engineRuns (ring imaged (.descLoad (he 3) 3 4095)) u (he 3) (.descLoad (he 3) 3 4095) (.stream 3) 3 = true ∧ (descAt imaged u.site 3).state ≤ 1 ∧ (descAt imaged u.site 3).flight = [] ∧ (descAt imaged u.site 3).running = none ∧ spServed imaged u.site 1 = true ∧ (4095 : Nat) < spRows imaged u.ctx ∧
      rowsStained imaged u.site (spBase imaged u.ctx + 4095) 128 = false ∧
      descOk (parseDesc (memBytes imaged.store.scratch (rowKey u.site (spBase imaged u.ctx + 4095)) 128)) = true) ∧
    (∀ k ∈ [1, 2], engineRuns (ring (withDesc base k 0 (rowImage 0 4) []) (.retire (he 3) 3)) u (he 3) (.retire (he 3) 3) (.stream 3) 3 = true ∧
      (descAt (withDesc base k 0 (rowImage 0 4) []) u.site 3).state = k ∧ (descAt (withDesc base k 0 (rowImage 0 4) []) u.site 3).running = none) := by decide +kernel
theorem witness_AdmissionsDecide :
    let far := fun (s : State) (d : DescImage) => (List.range (unitTotal d)).findSome? (fun n => (unitPieces d n).findSome? (fun p => farFault s u d (farOf d n + (p.1 : Int)) p.2.2))
    let d := rowImage 1 4
    let s := ring (withDesc base 1 0 d []) (.admitStream (he 3) 3 7)
    let tight : DescImage := { d with rate := 0xFFFFFFFF }
    engineRuns s u (he 3) (.admitStream (he 3) 3 7) (.stream 3) 3 = true ∧ (descAt s u.site 3).state = 1 ∧ d.kind = 1 ∧ peerFault s u d = none ∧ far s d = none ∧
      tight.kind = 1 ∧ far (withDesc base 1 0 tight []) tight = none ∧ admitWord (withDesc base 1 0 tight []) u 3 tight ≠ 0 := by decide +kernel
theorem witness_AdmissionsPass : let d := { rowImage 1 4 with bufCount := 4 }
    let s := ring (withDesc base 1 0 d []) (.admitStream (he 3) 3 7)
    engineRuns s u (he 3) (.admitStream (he 3) 3 7) (.stream 3) 3 = true ∧ (descAt s u.site 3).image = some d ∧ (descAt s u.site 3).state = 1 ∧ peerFault s u d = none ∧
      admitWord s u 3 d = 0 := by decide +kernel
theorem witness_UnitsStart :
    let d := rowImage 0 4
    (∀ n ∈ [0, 3], let s := ring (withDesc base 1 n d []) (.nextUnit (he 3) 3)
      engineRuns s u (he 3) (.nextUnit (he 3) 3) (.stream 3) 3 = true ∧ (descAt s u.site 3).running = none ∧ n < unitTotal d ∧ peerFault s u d = none ∧ unitComesIn s u d n = true) ∧
    (∀ n ∈ [0, 3], let s := ring (withDesc base 1 n d []) (.run (he 3) 3)
      engineRuns s u (he 3) (.run (he 3) 3) (.stream 3) 3 = true ∧ (descAt s u.site 3).running = none ∧ 0 < unitTotal d - n ∧ peerFault s u d = none ∧
        ((List.range (unitTotal d - n)).all (fun i => unitComesIn s u d (n + i))) = true) := by decide +kernel
theorem witness_UnitsComplete :
    let s := withDesc base 2 1 (rowImage 1 4) [(0, he 3, true, 0)]
    let x := descAt s 0 3
    x.flight = [(0, he 3, true, 0)] ∧ x.running = none ∧ x.state ≠ 3 ∧ x.revoked = false ∧ (x.image.map (·.kind)) = some 1 ∧ (issueBase s (he 3).queue.toNat).isSome = true ∧
      (ctxAt s x.ctx).map (·.ending) = some none ∧
      (descAt (withDesc base 2 1 (rowImage 1 4) [(0, he 3, true, 1)]) 0 3).flight = [(0, he 3, true, 1)] := by decide +kernel
def go : GradOps := { port := 0, transpose := false, source := 0x20000003, tensorId := 1, tileIndex := 0 }
theorem witness_GradientsEnterTheTree :
    engineRuns (ring base (.gradEmit (he 3) go)) u (he 3) (.gradEmit (he 3) go) (.stream 0) 3 = true ∧ portPresent base go.port.toNat = true ∧ commitState base ≠ 5 ∧ loadedOf base u.ctx = some prog ∧
      tileOf prog go.tensorId.toNat go.tileIndex.toNat = some (0, param) ∧ specKind go.source = 2 ∧ tilePort base 0 = go.port.toNat ∧ packetHeld base u.site 72 = false ∧ dropAt base u.site 72 = none := by decide +kernel

/-! Waits and signals -/

def hw : Hdr := { h with waitTok := 4, waitCnt := 1 }
/-- Thread 0 holds a WAIT whose token has come. -/
def waiting (n : BitVec 16) : State :=
  modCore (withThread (fun th => { th with waits := .token, held := some (.wait hw) })) 0 (fun c => { c with tokens := [(4, n)] })
def setup : SetupOps := { slot := 0, mode := 1, target := 0, owner := 0, hasInit := false, headroom := 0, initExp := 0, reserved := false }
theorem witness_WaitsAreMet :
    (issueBase (waiting 1) 1 = some u ∧ threadHead (waiting 1) 0 0 = some (.wait hw, 1) ∧ hw.fence = false ∧ served (waiting 1) 0 (.thread 0) hw = true ∧
      reachUp (waiting 1) 0 = true ∧ (waiting 1).step.votes = []) ∧
    (let i := Instr.vectorSlotSetup { he 2 with waitTok := 4, waitCnt := 1 } setup
     let s := modCore base 0 (fun c => { c with tokens := [(4, 1)], held := [(.vector, i)] })
     issueBase s 1 = some u ∧ placeHead (coreAt s 0) .vector = some (i, 0) ∧ served s 0 .vector { he 2 with waitTok := 4, waitCnt := 1 } = true ∧ s.step.votes = []) := by
  decide +kernel
theorem witness_SignalsAreGiven :
    (let s := modCore base 0 (fun c => { c with started := [(.matrix, he 1)] })
     reachUp s 0 = true ∧ (coreAt s 0).started.findIdx? (fun y => y.1 = .matrix) = some 0 ∧ (coreAt s 0).started[0]? = some (.matrix, he 1) ∧
       issueBase s (he 1).queue.toNat = some u ∧ (ctxAt s u.ctx).map (·.ending) = some none) ∧
    (let x : Signal := { src := 1, dst := 0, ctx := 0, token := 255, count := 255, queue := 1, mark := 0 }
     let s := { base with mesh := { base.mesh with signals := [x] } }
     s.mesh.signals.find? (fun y => y.src = (1#7).toNat && y.dst = (0#7).toNat && y.ctx = (0#6).toNat) = some x ∧ siteOf s 0 = some 0 ∧ (ctxAt s 0).isSome = true ∧ routeEnd s 0 160 ((siteOf s 1).getD 76) = .arrives) := by
  decide +kernel
/-- A NEXT at the head of the stream queue whose page is offline. -/
def offlined : State :=
  let d := withDesc { base with ctxs := [(0, { ctx with pt := [(1, { pte 16 with state := 3 }), (2, pte 17), (3, pte 18), (4, pte 19)] })] } 1 0 (rowImage 0 4) []
  setRegWord (modCore d 0 (fun c => { c with held := [(.stream 3, .nextUnit (he 3) 3)] })) 0 0x11 0x040 1
theorem witness_WaitLimitsStopQueues :
    (let s := setRegWord (waiting 0) 0 0x11 0x044 1
     reachUp s 0 = true ∧ limited s 0 = true ∧ queueAt s u.q = some queue ∧ queue.state ≠ 3 ∧ queue.stopping = none ∧ timedWait s 0 (.thread 0) = some (hw, u)) ∧
    (limited offlined 0 = true ∧ queueAt offlined u.q = some queue ∧ offlineAt offlined 0 (.stream 3) = some (he 3, u)) := by decide +kernel

/-! ### Routines -/

/-- Thread 0 with scalar registers. -/
def args (s : State) (rs : List (Nat × Dword)) : State := modThread s 0 0 (fun th => { th with regs := rs })
def okCheck {α : Type} (x : Except (Nat × Nat) α) : Bool := match x with | .ok _ => true | .error _ => false
def errCheck {α : Type} (x : Except (Nat × Nat) α) : Option (Nat × Nat) := match x with | .ok _ => none | .error e => some e

theorem witness_RoutinesCheckArguments :
    (presents (args base [(0, 4)]) (.tileProduct h) h = true ∧ 4 ≤ argOf (args base [(0, 4)]) u 0) ∧
    (let s := ring (args (tiles 1) [(0, 1), (1, 4)]) (.tileProduct h); threadRuns s u h = true ∧ atRingHead s u (.tileProduct h) = true ∧ argOf s u 0 < 4 ∧ errCheck (tileProductCheck (begun s u h) u) = some (0x0100, 1)) ∧
    (let s := ring (args (tiles 1) [(0, 1), (1, 3)]) (.tileProduct h); threadRuns s u h = true ∧ atRingHead s u (.tileProduct h) = true ∧ okCheck (tileProductCheck (begun s u h) u) = true ∧ bitOf (argOf s u 0) 0 = true) ∧
    (ownThread (args base [(0, 4)]) u).rets.length < 8 ∧ (Instr.tileProduct h, tileProductCheck) ∈ localRoutines h := by
  refine ⟨by decide +kernel, by decide +kernel, by decide +kernel, by decide +kernel, by simp [localRoutines]⟩
def isDone (r : Ran) : Bool := match r with | .done => true | _ => false
/-- A plan's engines idle, its lock free where it takes it, and its inner commands running to their end. -/
def planRuns (s : State) (c : Check) : Bool :=
  match c with
  | .ok p => !enginesWait (coreAt s u.site) (p.inner.map (·.1)) && (!p.locks || lockFree (begun s u h) u) &&
      isDone (runInner (tracedHdr s u h) u p.inner (if p.locks then takeLock (begun s u h) u else begun s u h)).2
  | .error _ => false
def reduceOk (s : State) : Bool :=
  match layoutReduceCheck s u with
  | .ok (a, d, op, rows) => decide (specKind d = 2 ∧ rows = 1 ∧ op = 2) && !sourceStained s u (vecOps d a 0 1 0 0 rows 0) rows a
  | .error _ => false
theorem witness_LocalRoutinesRun :
    let s := ring (args (tiles 1) [(0, 2), (1, 3)]) (.tileProduct h)
    threadRuns s u h = true ∧ (ownThread s u).rets.length < 8 ∧ argOf s u 0 < 4 ∧ bitOf (argOf s u 0) 0 = false ∧ atRingHead s u (.tileProduct h) = true ∧
      planRuns s (tileProductCheck (begun s u h) u) = true := by decide +kernel
theorem witness_InformationRoutines :
    presents base (.libInfo h) h = true ∧ (ownThread base u).rets.length < 8 ∧ argOf base u 0 < 4 ∧ bitOf (argOf base u 0) 0 = false ∧
    (∀ n ∈ [0, 127], let s := args base [(1, BitVec.ofNat 64 n)]; presents s (.selfCheck h [6] 7) h = true ∧ argOf s u 1 < 128 ∧ contextBusy s u = false) ∧
    ([6].filter (fun a => decide (a < 7) && (decide (argOf (args base [(1, 64)]) u 1 = 0) || bitOf (argOf (args base [(1, 64)]) u 1) a)) = [6]) := by decide +kernel
theorem witness_SparseRoutineRuns :
    let s := ring (args sparse [(2, 4), (3, 3)]) (.sparseProductRoutine h)
    let b := begun s u h
    let o := sparseRoutineOps b u
    let m := metaOf (readMeta b u 0 4 1)
    let d := (sparseHead m).span / denseWidth o.product.wFormat
    let inner : SparseOps := { o with product := { o.product with xReg := if d = 1 then 1 else 0 } }
    threadRuns s u h = true ∧ argOf s u 1 < spRows b u.ctx ∧ argOf s u 2 = 4 ∧ argOf s u 3 = 3 ∧ argOf s u 4 = 0 ∧ o.product.wFormat = 1 ∧
      isOk (readMeta b u (argOf s u 1) (argOf s u 2) o.product.wFormat) = true ∧ metaCheck 4 1 m = none ∧ d = 1 ∧ o.product.wTranspose = false ∧ o.product.xFromSp = false ∧
      pairGroup o.product.wFormat ≠ 0 ∧ pairOk o.product.wFormat o.product.xFormat = true ∧ o.product.xTranspose = false ∧
      spServed s u.site 0 = true ∧ enginesWait (coreAt s u.site) [4] = false ∧ atRingHead s u (.sparseProductRoutine h) = true ∧
      isDone (runInner (tracedHdr s u h) u [(4, sparseProductBody inner)] (checkTraced b u h)).2 = true := by decide +kernel
theorem witness_CollectiveRoutinesEnd :
    (let s := ring (args base [(1, 0x20000001), (2, 0x20000000), (3, 2), (4, 1)]) (.layoutReduce h)
     threadRuns s u h = true ∧ (ownThread s u).rets.length < 8 ∧ loneCore s u = true ∧ bitOf (argOf s u 0) 0 = false ∧ atRingHead s u (.layoutReduce h) = true ∧ holdSet s u.site = false ∧ toRoot s u.site = .arrives ∧ spServed s u.site 3 = true ∧ reduceOk s = true) ∧
    (presents wide (.attnGlobalBwd h) h = true ∧ layoutWidth wide u.ctx ≠ 1 ∧ wide.mesh.arrivals = [] ∧ lockFree (begun wide u h) u = true) ∧
    (loneCore base u = true ∧ errCheck (attnCheck false false (begun base u h) u) = some (0x0100, 1) ∧ errCheck (layoutReduceCheck base u) = some (0x0100, 1)) := by
  decide +kernel
/-! ### Registers -/

/-- The arguments of a QS_CREATE in the shadows of the scheduler page. -/
def qsArgs (s : State) (log2 core thread : Nat) : State :=
  setRegWord (setRegWord (setRegWord s 76 0x28 0x044 0x00200000) 76 0x28 0x048 0) 76 0x28 0x04C (BitVec.ofNat 32 (log2 * 2 ^ 26 + core * 2 ^ 13 + thread * 2 ^ 9))
theorem witness_QueueOperations :
    hostCan base 76 0x28 = true ∧ base.head.stopped = false ∧ (let s := { base with head := { base.head with stopped := true } }; hostCan s 76 0x28 = true ∧ s.head.stopped = true) ∧
    (∀ k ∈ [4, 20], let s := qsArgs base k 0 1
      qsBusy s = 0 ∧ ctxAt s (qsCtx s) = some ctx ∧ ctx.ending = none ∧ siteOf s (qsCore s) = some 0 ∧ queueAt s 0xFFFFF = none ∧ qsLog2 s = k ∧ qsBase s % 4096 = 0 ∧
        qsCore s < coreCount s ∧ qsCore s < layoutWidth s (qsCtx s) ∧ (threadAt s 0 (qsThread s)).holder = none ∧ hostCan s 76 0x28 = true) ∧
    (let s := setRegWord { base with queues := [(1, { queue with state := 3 })] } 76 0x28 0x050 15
     qsBusy s = 0 ∧ (queueAt s 1).map (·.state) = some 3 ∧ qsHead s < 2 ^ queue.log2 ∧ hostCan s 76 0x28 = true) ∧
    (qsBusy base = 0 ∧ queueAt base 1 = some queue ∧ issueBase base 1 = some u ∧ queue.state ≤ 2 ∧ queue.stopping = none) ∧
    (let s := { base with queues := [(1, { queue with state := 4 })] }; issueBase s 1 = some u ∧ (queueAt s 1).map (·.state) = some 4) ∧
    (let s := { base with queues := [(1, { queue with state := 0 })] }; (queueAt s 1).map (·.state) = some 0) ∧ queueAt base 2 = none ∧
    (let s := setFld base 76 0x28 ⟨0x054, 31, 31⟩ 1; qsBusy s = 1 ∧ hostCan s 76 0x28 = true) := by decide +kernel
theorem witness_Doorbells : base.hdm.h0Up = true ∧ romWaits base = false ∧ base.head.stopped = false ∧ romWaits (setRegWord base 76 0x2D 0x040 2) = true ∧ (15 : Nat) < 2 ^ 20 ∧
    queueAt base 1 = some queue ∧ queueAt base 2 = none ∧ (15 + 2 ^ queue.log2 - queue.head) % 2 ^ queue.log2 = 15 ∧
    (queue.tail + 2 ^ queue.log2 - queue.head) % 2 ^ queue.log2 = 2 ∧ ((0xFFFFFFFF00000001 : Dword).setWidth 32 ≠ 0#32) ∧ ((0xFFFFFFFF00000000 : Dword).setWidth 32 = 0#32) := by
  decide +kernel
theorem witness_DoorbellValues : base.hdm.h0Up = true ∧ romWaits base = false ∧ base.head.stopped = false ∧ queueAt base 1 = some queue ∧ 2 ^ queue.log2 ≤ (16 : Nat) ∧ (1 : Nat) < 2 ^ queue.log2 ∧
    (1 + 2 ^ queue.log2 - queue.head) % 2 ^ queue.log2 < (queue.tail + 2 ^ queue.log2 - queue.head) % 2 ^ queue.log2 := by decide +kernel
/-- A captured set of one word. -/
def captured (r p o : Nat) (w : Word) : State := { base with pages := { base.pages with captured := [(r * 64 + p, [(pageKey r p o, w)])] } }
theorem witness_RegisterWrites :
    (hostCan base 0 0x11 = true ∧ (∀ b, blockOf 0 0x11 = some b → plainBlock b = true) ∧ (0x040 : Nat) ∉ [0x010, 0x014, 0x018, 0x024]) ∧
    ((24 : BitVec 26).toNat % 8 = 0 ∧ (∃ t, exec (.registerWrite 24 4 0) base = .next t ∧ t.hdm.h0Up = true)) ∧
    (blockOf 76 0x03 = some .mh ∧ hostCan base 76 0x03 = true ∧ blockOf 0 0x11 ≠ some .mh) ∧
    (blockOf 0 0x17 = some .sp ∧ capturedSet (captured 0 0x17 0x044 0xFFFFFFFF) (0 * 64 + 0x17) = some [(pageKey 0 0x17 0x044, 0xFFFFFFFF)] ∧ onPage 0 0x17 (pageKey 0 0x17 0x044) = true ∧
      slotMapRefused base 0 0xFFFFFFFF = true ∧ slotMapRefused base 0 0x54302010 = false) ∧
    (blockOf 0 0x04 = some .ab ∧ capturedSet (captured 0 0x04 0x040 7) (0 * 64 + 4) = some [(pageKey 0 4 0x040, 7)] ∧ onPage 0 4 (pageKey 0 4 0x040) = true) := by
  refine ⟨⟨by decide +kernel, by intro b hb; cases hb; decide, by decide⟩, ⟨by decide, ?_⟩, by decide +kernel, by decide +kernel, by decide +kernel⟩
  cases hx : exec (.registerWrite 24 4 0) base with
  | next t => refine ⟨t, rfl, ?_⟩; have : (match exec (.registerWrite 24 4 0) base with | .next t => t.hdm.h0Up | _ => false) = true := by decide +kernel
              rw [hx] at this; exact this
  | _ => have : (match exec (.registerWrite 24 4 0) base with | .next t => t.hdm.h0Up | _ => false) = true := by decide +kernel
         rw [hx] at this; simp at this
theorem witness_HeadersAndReads : hostCan base 0 0x11 = true ∧ hostCan base 77 0 = true ∧ accMask (rowsAt 0 2 0x04C) .rc = accMask (rowsAt 0 2 0x04C) .rc ∧ answers base 76 = true ∧
    (let s := { base with power := { base.power with up := [76] } }; s.hdm.h0Up = true ∧ answers s 75 = false) ∧
    ((List.range 77).any (fun r => (List.range 64).any (fun p => (List.range 32).any (fun o => accMask (rowsAt r p (0x040 + 4 * o)) .rc ≠ 0))) = true) := by decide +kernel
theorem witness_CrossbarWords : hostCan base 0 0x17 = true ∧ (coreAt base 0).threads.any (fun t => t.2.holder.isSome) = true ∧
    (coreAt base 1).threads.any (fun t => t.2.holder.isSome) = false ∧ hostCan base 1 0x17 = true ∧
    (let s := setRegWord base 71 0x17 0x040 1; xbarOn s 71 = true ∧ hostCan (setRegWord base 3 0x17 0x040 1) 3 0x17 = true) := by decide +kernel
theorem witness_ReturnStackIsEightDeep :
    (let s := withThread (fun th => { th with rets := List.replicate 8 (ret false) })
     threadRuns s u h = true ∧ queueAt s u.q = some queue ∧ queue.state ≠ 3 ∧ queue.stopping = none ∧ 8 ≤ (ownThread s u).rets.length ∧ loadedOf s u.ctx = some prog) ∧
    (threadRuns base u h = true ∧ (ownThread base u).rets = []) ∧ (let s := withThread (fun th => { th with rets := [ret false] }); (ownThread s u).rets.getLast? = some (ret false)) := by
  decide +kernel
/-- Where tensor 2 of the program starts, as a page. -/
def tensorPage : Nat := Config.tensorBase 0 0 2 / 2 ^ 21
/-- The context of an attention over tensor 2, one tile of format 0x0B, which stands on two pages from there on. -/
def attnCtxAt (b : Nat) : Ctx :=
  { ctx with
    loaded := some { prog with tensors := [{ id := 2, kind := 0, rows := 1024, cols := 512, format := 0x0B, slotMask := 0 }] }
    objects := [{ base := 0x800000, pages := 1, size := 0x200000, tierSet := 0, home := [0], fabricEntry := 0, migratable := false, dropped := 0 },
      { base := b * 2097152, pages := 2, size := 0x400000, tierSet := 0, home := [0], fabricEntry := 0, migratable := false, dropped := 0 }]
    pt := [(4, pte 16), (b, pte 17), (b + 1, pte 18)] }
def attnCtx : Ctx := attnCtxAt tensorPage
def attnBlock : List Byte :=
  let ref : Nat := 2 * 2 ^ 24
  leBytes 8 ref ++ leBytes 8 ref ++ leBytes 8 ref ++ leBytes 8 ref ++ leBytes 24 0 ++ leBytes 4 2048 ++ leBytes 4 0 ++ leBytes 2 0 ++ leBytes 2 1 ++ leBytes 2 64 ++
    leBytes 1 0 ++ leBytes 1 0 ++ leBytes 56 0
def attnState : State := { modCore base 0 (fun c => { c with nonfiniteRaised := true }) with ctxs := [(0, attnCtx)], store := { base.store with scratch := memOf attnBlock, stack := memStore [] (16 * 2 ^ 21) (bytesOf (.attnWindowFwd h)) } }
def tref : TRef := { id := 2, tile := 0, rows := 1024, cols := 512, fmt := 0x0B }
def isRefs (x : Except (Nat × Nat) (List TRef × List TRef)) : Bool := match x with | .ok y => decide (y = ([tref, tref, tref], [tref])) | _ => false

theorem attn_translate (b a : Nat) (h : a / 2097152 = b ∨ a / 2097152 = b + 1) : (Sys2Proof.Machine.translate (attnCtxAt b) a).isSome = true := by
  have ho : (objectAt (attnCtxAt b) a).isSome = true := by
    have : (attnCtxAt b).objects.find? (fun o => decide (o.base ≤ a ∧ a < o.base + o.size)) ≠ none := by
      intro hn
      have := List.find?_eq_none.1 hn { base := b * 2097152, pages := 2, size := 0x400000, tierSet := 0, home := [0], fabricEntry := 0, migratable := false, dropped := 0 }
        (List.mem_cons_of_mem _ List.mem_cons_self)
      simp only [decide_eq_true_eq] at this; omega
    exact Option.isSome_iff_ne_none.2 this
  have hp : (2 : Nat) ^ 21 = 2097152 := by decide
  unfold Sys2Proof.Machine.translate; rw [if_pos ho, hp]
  clear ho hp
  generalize a / 2097152 = k at h
  simp only [attnCtxAt, tFind]
  rcases h with h | h <;> subst h <;> (repeat' split) <;> first | rfl | omega
theorem attn_mapped (b a : Nat) (h : a / 2097152 = b) : mapped (attnCtxAt b) a 540672 = true := by
  have hp : (2 : Nat) ^ 21 = 2097152 := by decide
  simp only [mapped, hp, List.all_eq_true, List.mem_range, Bool.or_eq_true, Bool.and_eq_true]
  right; intro i hi
  constructor <;> (apply attn_translate; omega)
theorem attn_pte (b k : Nat) (e : Pte) : tFind (attnCtxAt b).pt k = some e → e.stain = false ∧ e.state = 0 ∧ e.fabric = false := by
  simp only [attnCtxAt, tFind]; (repeat' split) <;> intro he <;> first | (cases he; exact ⟨rfl, rfl, rfl⟩) | cases he
theorem attn_online (s : State) (b a n : Nat) : offline s (attnCtxAt b) a n = false := by
  simp only [offline, Bool.and_eq_false_iff]
  right
  rw [List.any_eq_false]
  intro i _
  split
  · rename_i e he; simp [pageAway, (attn_pte b _ e he).2.1, (attn_pte b _ e he).2.2]
  · simp
theorem attn_clean (s : State) (b a n : Nat) (hs : s.store.stainStack = []) (hf : s.store.stainFabric = []) : ctxStained s (attnCtxAt b) a n = false := by
  simp only [ctxStained, hs, hf, ite_self, List.any_nil, Bool.or_false, List.any_eq_false]
  intro y hy
  unfold pieces at hy
  split at hy
  · cases hy
  · obtain ⟨i, -, hi⟩ := List.mem_filterMap.1 hy
    obtain ⟨e, he, rfl⟩ := Option.map_eq_some_iff.1 hi
    simp [(attn_pte b _ e he).1]
theorem attn_addr (s : State) (hx : ctxAt s 0 = some attnCtx) : tensorAddr s 0 0 tref.id 0 tref.fmt = Config.tensorBase 0 0 2 := by
  simp [tensorAddr, hx, attnCtx, attnCtxAt, prog, tref]
theorem attn_lines (s : State) (g : Nat) (w : Bool) (hl : s.hdm.filter = []) : tileLines s u tref g w = [] := by
  have hz : tileScaled tref.fmt = false := by decide
  simp only [tileLines, hostLines, hl, hz, List.filter_nil, List.map_nil, ite_self, List.append_nil, Bool.false_eq_true]
theorem attn_read (s : State) (hx : ctxAt s 0 = some attnCtx) (hs : s.store.stainStack = []) (hf : s.store.stainFabric = []) (hl : s.hdm.filter = []) :
    ∃ r, readTile s u tref 0 = .ok r := by
  have hn : imageBytes tref.fmt = 540672 := by decide
  have hz : tileScaled tref.fmt = false := by decide
  have hm : mapped attnCtx (Config.tensorBase 0 0 2) 540672 = true := attn_mapped _ _ rfl
  have ho : offline s attnCtx (Config.tensorBase 0 0 2) 540672 = false := attn_online _ _ _ _
  have hc : ctxStained s attnCtx (Config.tensorBase 0 0 2) 540672 = false := attn_clean s _ _ _ hs hf
  refine ⟨tileOfImage tref.fmt (ctxSlice s attnCtx (Config.tensorBase 0 0 2) 540672) 0x3F800000, ?_⟩
  unfold readTile
  rw [attn_lines s 0 false hl]
  simp only [u, hx, attn_addr s hx, hn, hm, ho, hc, hz]; rfl
/-- A call of one core over one token tile, in one slot. -/
structure OneTile (a : Attn) : Prop where
  cores : a.cores = [(u, [tref, tref, tref])]
  starts : a.starts = [0, 1]
  slots : a.slots = [0, 1]
  window : a.window = 2048
  stride : a.stride = 0
/-- The keys of a call over one tile. -/
def oneTileKeys (i : Nat) : List Nat :=
  attnKeys { id := 0, cores := [], starts := [], slots := [0, 1], window := 2048, stride := 0, headFirst := 0, headCount := 0, headWidth := 0, base := 0, round := 0, scale := 0 } i
theorem one_tile_keys : ((oneTileKeys 0).map (fun j => j / 1024) ++ (oneTileKeys 1).map (fun j => j / 1024)).eraseDups = [0] := by decide +kernel
theorem OneTile_keys (a : Attn) (ha : OneTile a) : ((attnKeys a 0).map (fun j => j / 1024) ++ (attnKeys a 1).map (fun j => j / 1024)).eraseDups = [0] := by
  have h : ∀ i, attnKeys a i = oneTileKeys i := by intro i; simp only [oneTileKeys, attnKeys, ha.slots, ha.window, ha.stride]
  rw [h, h]; exact one_tile_keys
theorem attn_unread (s : State) (a : Attn) (ha : OneTile a) (hx : ctxAt s 0 = some attnCtx) (hs : s.store.stainStack = []) (hf : s.store.stainFabric = [])
    (hl : s.hdm.filter = []) : attnUnread s a 0 = none := by
  obtain ⟨r, hr⟩ := attn_read s hx hs hf hl
  have ht : ∀ k < 3, attnTile s a k 0 0 = .ok r := by
    intro k hk
    have hp : partOf a.starts 0 = (0, 0, 1) := by rw [ha.starts]; decide
    have hk : [tref, tref, tref][k]? = some tref := by
      match k, hk with
      | 0, _ => rfl
      | 1, _ => rfl
      | 2, _ => rfl
    simp only [attnTile, hp, ha.cores, List.getElem?_cons_zero, hk]
    exact hr
  have h1 : tilesAcross tref.cols tref.fmt = 1 := by decide
  have h2 : (shapeD tref.fmt).rows = 1024 := by decide
  have h3 : List.range 1 = [0] := by decide
  have h4 : 1024 / max 1 1024 * 1 = 1 := by decide
  have h5 : ([0] ++ [0] : List Nat).eraseDups = [0] := by decide
  unfold attnUnread
  simp only [ha.starts, ha.cores, List.getD_cons_zero, List.getD_cons_succ, Nat.sub_zero, h3, List.map_cons, List.map_nil, List.head?_cons, Option.elim_some,
    List.flatten_cons, List.flatten_nil, List.append_nil, Nat.zero_add, Nat.zero_mul, OneTile_keys a ha, h5, List.zipIdx_cons, List.zipIdx_nil, List.findSome?_cons,
    List.findSome?_nil, h1, h2, h4, ht 0 (by decide), ht 1 (by decide), ht 2 (by decide), ite_self]
/-- A core's state that a write of the tile leaves: the context, its queue, its note of a non-finite value, and no line at the host. -/
structure WriteReady (s : State) : Prop where
  ctx : ctxAt s 0 = some attnCtx
  goes : queueHalts s u = false
  noted : (coreAt s 0).nonfiniteRaised = true
  here : s.hdm.filter = []
theorem attn_counted (s : State) (g : Hdr) (n : Nat) (hw : WriteReady s) : WriteReady (addNonfinite s u g n) := by
  unfold addNonfinite
  by_cases hn : n = 0
  · rw [if_pos hn]; exact hw
  · rw [if_neg hn, if_pos (by exact hw.noted)]; exact ⟨hw.ctx, hw.goes, hw.noted, hw.here⟩
theorem attn_bumped (s : State) (p : Nat) (f : Fld) (n : Nat) (hw : WriteReady s) : WriteReady (bump s 0 p f n) := ⟨hw.ctx, hw.goes, hw.noted, hw.here⟩
theorem attn_slots (s : State) (f : Tab Slot → Tab Slot) (hw : WriteReady s) : WriteReady (modCore s 0 (fun c => { c with slots := f c.slots })) := by
  refine ⟨hw.ctx, hw.goes, ?_, hw.here⟩
  rw [coreAt_modCore, if_pos rfl]; exact hw.noted
theorem attn_store (s : State) (e : Encoded) (hx : ctxAt s 0 = some attnCtx) :
    storeTile s u tref 0 e none = .ok (ctxSplice s 0 attnCtx (Config.tensorBase 0 0 2) 540672
      (memSplice e.data (shapeD tref.fmt).dataBytes (shapeD tref.fmt).scaleBytes e.scales) false) := by
  have hn : imageBytes tref.fmt = 540672 := by decide
  have hm : mapped attnCtx (Config.tensorBase 0 0 2) 540672 = true := attn_mapped _ _ rfl
  have ho : offline s attnCtx (Config.tensorBase 0 0 2) 540672 = false := attn_online _ _ _ _
  unfold storeTile
  simp only [u, hx, attn_addr s hx, hn, hm, ho]; rfl
theorem attn_convert (s : State) (g : Hdr) (k n : Nat) (rnd : Nat → Rnd) (vals : Tab F32) (rec : Option F32) (hw : WriteReady s) :
    ∃ t e, convertTile s u g 0 k tref.fmt rnd vals rec n = .ok (t, e, none) ∧ WriteReady t := by
  have hz : tileScaled tref.fmt = false := by decide
  have hf : ¬ (tref.fmt = 0) := by decide
  unfold convertTile
  simp only [hz]
  refine ⟨_, _, rfl, ?_⟩
  rw [if_neg hf]
  exact attn_counted _ _ _ (attn_bumped _ _ _ _ (attn_bumped _ _ _ _ hw))
theorem attn_recorded (s : State) (k : Option Nat) : recordedScale s u tref k 0 = .ok none := by
  have hz : tileScaled tref.fmt = false := by decide
  unfold recordedScale
  rw [if_neg (by rw [hz, Bool.false_and]; exact Bool.false_ne_true)]
theorem attn_halts (s : State) (x : Ctx) (a n : Nat) (m : Mem) (hs : queueHalts s u = false) : queueHalts (ctxSplice s 0 x a n m false) u = false := by
  unfold queueHalts at hs ⊢
  unfold queueAt at hs ⊢
  rw [ctxSplice_queues]; exact hs
theorem attn_writeTile (s : State) (g : Hdr) (k round fresh : Nat) (vals : Tab F32) (hw : WriteReady s) :
    ∃ t, writeTile g u tref (some k) round fresh vals 0 s = .ok t ∧ queueHalts t u = false := by
  unfold writeTile
  rw [attn_lines s 0 true hw.here, if_neg (by simp)]
  have hr : recordedScale s u tref (some k) 0 = .ok none := attn_recorded s (some k)
  generalize rounding s u round (BitVec.ofNat 16 tref.id) (BitVec.ofNat 24 0) = rnd
  dsimp only
  generalize nanCount _ = nans
  obtain ⟨t, e, h1, h2⟩ := attn_convert s g k nans rnd vals none hw
  rw [hr]
  dsimp only
  rw [h1]
  dsimp only
  rw [attn_store t e h2.ctx]
  dsimp only
  have hq := attn_halts t attnCtx (Config.tensorBase 0 0 2) 540672 (memSplice e.data (shapeD tref.fmt).dataBytes (shapeD tref.fmt).scaleBytes e.scales) h2.goes
  rw [hq]
  exact ⟨_, rfl, hq⟩
theorem attn_run (s from' : State) (g : Hdr) (a : Attn) (ha : OneTile a) (hw : WriteReady s) (hx : ctxAt from' 0 = some attnCtx)
    (hs : from'.store.stainStack = []) (hf : from'.store.stainFabric = []) (hl : from'.hdm.filter = []) :
    ∃ t, attnRun a false 0 [tref] from' g s u = (t, .done) ∧ queueHalts t u = false := by
  unfold attnRun
  rw [attn_unread from' a ha hx hs hf hl]
  dsimp only
  generalize attnNonfinite from' a false 0 = bad
  have h1 : tilesAcross tref.cols tref.fmt = 1 := by decide
  have h2 : sliceTiles a 0 = 1 := by unfold sliceTiles; rw [ha.starts]; rfl
  have h3 : 1 * (1024 / max 1 (shapeD tref.fmt).rows) = 1 := by decide
  rw [h2, if_neg (by decide)]
  have hn : WriteReady (attnSlotHistory (addNonfinite (bump s u.site 0x12 (wordFld 0x05C) bad) u g bad) u from' a (a.starts.getD 0 0)) :=
    attn_slots _ (fun l => tIns l (a.base + 3) (openHistory (tGet freshSlot l (a.base + 3)) _ _)) (attn_counted _ _ _ (attn_bumped s _ _ _ hw))
  generalize attnSlotHistory _ u from' a _ = m at hn ⊢
  simp only [List.zipIdx_cons, List.zipIdx_nil, List.foldlM_cons, List.foldlM_nil, h3, attnWrite, h1, writeRowTiles, Nat.zero_mul, Nat.add_zero]
  generalize tileOfRow _ _ 0 = vals
  generalize a.base = k
  obtain ⟨t, ht, hq⟩ := attn_writeTile m g k a.round allFresh vals hn
  refine ⟨t, ?_, hq⟩
  show endWrite u g s ((writeTile g u tref (some k) a.round allFresh vals 0 m).bind Except.ok) = (t, .done)
  rw [ht]; rfl
theorem attn_waits (m : State) (a : Attn) (ha : OneTile a) (hx : ctxAt m 0 = some attnCtx) (hs : m.store.stainStack = []) (hf : m.store.stainFabric = [])
    (hl : m.hdm.filter = []) : attnWaits m a [(u, [tref])] = false := by
  have hn : attnUnread m a 0 = none := attn_unread m a ha hx hs hf hl
  have ho : ∀ b n, offline m attnCtx b n = false := fun b n => attn_online m _ b n
  have hz : tileScaled tref.fmt = false := by decide
  have ht : (attnTiles a [(u, [tref])]).any (fun x => tileAway m x.1 x.2.1 x.2.2 || tileLines m x.1 x.2.1 x.2.2 true ≠ []) = false := by
    rw [List.any_eq_false]
    intro x hx'
    simp only [attnTiles, List.zipIdx_cons, List.zipIdx_nil, List.flatMap_cons, List.flatMap_nil, List.append_nil, List.mem_map] at hx'
    obtain ⟨n, -, rfl⟩ := hx'
    simp only [attn_lines m _ true hl, tileAway, show u.ctx = 0 from rfl, hx, ho, hz]
    decide
  unfold attnWaits
  rw [ht]
  simp only [ha.cores, List.length_singleton, List.range_one, List.any_cons, List.any_nil, hn, Bool.or_self]
theorem attn_untraced (x : State) (e : Byte) (k : Nat) (hx : ctxAt x 0 = some attnCtx) (hq : (entryD x u.q).trace = false) : traceRec x u { h with engine := e } k = x := by
  have hu : ctxAt x u.ctx = some attnCtx := hx
  unfold traceRec; rw [hu]; simp [hq, h]
theorem attn_inner (m from' : State) (a : Attn) (ha : OneTile a) (hw : WriteReady m) (hq : (entryD m u.q).trace = false) (hx : ctxAt from' 0 = some attnCtx)
    (hs : from'.store.stainStack = []) (hf : from'.store.stainFabric = []) (hl : from'.hdm.filter = []) :
    ∃ e, runInner h u [(2, attnRun a false 0 [tref] from')] m = (e, .done) := by
  obtain ⟨t, hr, hk⟩ := attn_run m from' { h with engine := 2 } a ha hw hx hs hf hl
  unfold runInner
  dsimp only
  rw [attn_untraced m 2 0 hw.ctx hq, hr]
  dsimp only
  rw [hk]
  exact ⟨_, rfl⟩
theorem attn_call : OneTile (attentionCall attnState u h (.attnWindowFwd h, 0x0201, false, false)).2 :=
  ⟨by decide +kernel, by decide +kernel, by decide +kernel, by decide +kernel, by decide +kernel⟩
theorem attn_alone : WriteReady (metAlone attnState u h (.attnWindowFwd h)) := ⟨rfl, by decide +kernel, by decide +kernel, rfl⟩
theorem attn_begun : OneTile (attnOf (begun attnState u h) 0x0201 false false [u] u) :=
  ⟨by decide +kernel, by decide +kernel, by decide +kernel, by decide +kernel, by decide +kernel⟩
theorem witness_AttentionRuns :
    threadRuns attnState u h = true ∧ atRingHead attnState u (.attnWindowFwd h) = true ∧ lockFree (begun attnState u h) u = true ∧ loneCore attnState u = true ∧
    isRefs (attnCheck false false (begun attnState u h) u) = true ∧ bitOf (argOf attnState u 0) 0 = false ∧
    isRefs (attnCheck false false (begun (args attnState [(0, 1)]) u h) u) = true ∧
    attnWaits (begun attnState u h) (attnOf (begun attnState u h) 0x0201 false false [u] u) [(u, [tref])] = false ∧
    ∃ e, attentionRun attnState u h (.attnWindowFwd h, 0x0201, false, false) [tref] = (e, .done) := by
  refine ⟨by decide +kernel, by decide +kernel, by decide +kernel, by decide +kernel, by decide +kernel, by decide +kernel, by decide +kernel, ?_, ?_⟩
  · exact attn_waits _ _ attn_begun rfl rfl rfl rfl
  · have hh : tracedHdr attnState u h = h := by decide +kernel
    unfold attentionRun
    rw [hh]
    exact attn_inner _ _ _ attn_call attn_alone (by decide +kernel) rfl rfl rfl rfl

/-! ### A job of two modules -/

/-- A job of n modules with index i, training context 0, whose module m has PBR ID 16 + m and a base on every port. -/
def job (n i : Nat) : Job :=
  { tag := 5, modules := n, index := i, ringMode := 0, trainCtx := 0
    map := ((List.range 4).map (fun p => (List.range n).map (fun m => (p * 4096 + m, (16 + m, 0x100000000000#64))))).flatten }
/-- A state with a job, and port 0 in service. -/
def jobbed (s : State) (n i : Nat) : State := setFld { s with head := { s.head with job := some (job n i) } } 72 0x20 ⟨0x044, 29, 29⟩ 1
/-- A message of module src at port 0 of module dst. -/
def tow (typ : Byte) (src dst : BitVec 16) (slot : BitVec 16) (step : Word) (key : Dword) (body payload : List Byte) : Tow :=
  { port := 0, typ := typ, flags := 0, length := BitVec.ofNat 16 payload.length, jobTag := 5, src := src, dst := dst, slot := slot, step := step, mark := 0, seq := 0, key := key
    body := body ++ leBytes (32 - body.length) 0, payload := payload, pbr := BitVec.ofNat 12 (16 + src.toNat), tag := 9, twice := false, poison := false }

/-! ### Windows -/

/-- Window 63 of core 0: one row of the scratchpad at its start, all senders, write and read, in a state, with n accesses in flight. -/
def win (s : State) (state n : Nat) : State :=
  setRegWord (setRegWord (setRegWord s 0 0x18 (windowOff 63 + 0x08) 1) 0 0x18 (windowOff 63 + 0x0C) (BitVec.ofNat 32 (state * 2 ^ 24 + 3 * 2 ^ 22 + 2 ^ 15))) 0 0x18
    (windowOff 63 + 0x10) (BitVec.ofNat 32 n)
theorem witness_WindowOperations :
    (let s := win base 0 0
     hostCan s 0 0x18 = true ∧ windowState s 0 63 = 0 ∧ windowTargetOk s 0 63 = true ∧ ctxAt s (windowCtx s 0 63) = some ctx ∧
       ((List.range 64).filter (fun v => windowState s 0 v ≠ 0 ∧ windowCtx s 0 v = windowCtx s 0 63)).length < ctx.windows) ∧
    (∀ k ∈ [1, 2, 3], hostCan (win base k 0) 0 0x18 = true ∧ windowState (win base k 0) 0 63 = k ∧ windowInflight (win base k 0) 0 63 = 0 ∧
      windowInflight (win base k 1) 0 63 = 1 ∧ windowState (win base k 1) 0 63 = k) := by decide +kernel
theorem witness_WindowAccesses :
    (∀ k ∈ [1, 2], let s := jobbed (win base k 0) 2 0
      inService s 0 = true ∧ s.head.stopped = false ∧ siteOf s 0 = some 0 ∧ windowTakes s 0 63 64 64 (moduleOf s 0 17) true = true ∧ windowTakes s 0 63 127 1 (moduleOf s 0 17) false = true ∧
        windowTakes s 0 63 65 64 (moduleOf s 0 17) true = false ∧ windowTakes s 0 63 0 64 (moduleOf s 0 99) false = false ∧
        dropAt s 72 0 = none ∧ windowWaits s 0 63 127 1 = false ∧ packetHeld s 72 0 = false ∧ packetHeld s 0 72 = false ∧ windowLines s 0 63 127 1 false = []) ∧
    (windowTakes (jobbed (win base 3 0) 2 0) 0 63 0 1 (some 1) true = false) ∧
    (let l : Landing := { port := 0, site := 0, window := 63, offset := 64, data := leBytes 64 1, poison := false, parity := false, signal := none, tag := none }
     let s := { win base 3 1 with mesh := { base.mesh with landings := [l] } }
     s.mesh.landings.find? (fun l => l.site = 0 ∧ l.window = 63) = some l ∧ ctxAt s (windowCtx s 0 63) = some ctx ∧ windowIsCtx s 0 63 = false ∧ 0 < windowInflight s 0 63 ∧ landsNow s 0 63 l = true) ∧
    (let l : Landing := { port := 0, site := 0, window := 63, offset := 0, data := [], poison := false, parity := false, signal := some (255, 255), tag := none }
     let s := { win { base with ctxs := [] } 2 1 with mesh := { base.mesh with landings := [l] } }
     s.mesh.landings.find? (fun l => l.site = 0 ∧ l.window = 63) = some l ∧ ctxAt s (windowCtx s 0 63) = none ∧ (tokenOf (coreAt s 0) 255).toNat + 255 ≤ 65535 ∧ landsNow s 0 63 l = true) := by decide +kernel

/-! ### The commit page -/

/-- A TRAIN record of step 7 with 1,024 tokens in data slot 0, armed or not. -/
def recorded (s : State) (kind : Nat) : State :=
  setRegWord (setRegWord (setRegWord (setRegWord s 76 0x29 0x400 7) 76 0x29 0x404 (BitVec.ofNat 32 (kind + 256))) 76 0x29 0x408 1024) 76 0x29 0x418 0x3F800000
/-- A generation header at the start of page 1, and shard parts on pages 1 to 4. -/
def sharded : State :=
  let hdr := leBytes 4 7 ++ leBytes 4 1 ++ leBytes 4 0x3F800000 ++ leBytes 4 0x3F800000 ++ leBytes 4 0x3F800000 ++ leBytes 4 0 ++ leBytes 4 1 ++ leBytes 100 0
  { base with
    store := { base.store with stack := memStore [] (16 * 2 ^ 21) hdr }
    head := { base.head with shard := some { genA := 0x200000, genB := 0x400000, serveA := 0x600000, serveB := 0x800000, sums := 0x3FF000, modules := 1, index := 0 } }
    ctxs := [(0, { ctx with stackPages := 1000, loaded := some { prog with params := [] } })] }
/-- A step withheld. -/
def withheldStep : State := { setFld sharded 76 0x29 ⟨0x048, 2, 0⟩ 4 with withheld := some { sharded.step with record := some rec0 } }
theorem witness_CommitPageCommands :
    (let s := recorded base 0
     hostCan s 76 0x29 = true ∧ armed s = false ∧ s.head.stopped = false ∧ recordOk (recordBytes s) = true ∧
       emptySlice (match loadedOf s (recordCtx s (parseRecord (recordBytes s)).kind) with | some l => l.weights.take l.width | none => []) (tokenTiles (parseRecord (recordBytes s))) = false) ∧
    (hostCan base 76 0x29 = true ∧ armed base = false ∧ recordOk (recordBytes (recorded base 3)) = false) ∧
    (myIndex (jobbed base 2 1) ≠ 0 ∧ commitState base ≠ 4 ∧ commitState base ≠ 3) ∧
    (myIndex withheldStep = 0 ∧ jobModules withheldStep = 1 ∧ commitState withheldStep = 4 ∧ (withheldStep.withheld.bind (·.record)).isSome = true ∧ hostCan withheldStep 76 0x29 = true) ∧
    (commitState base = 0 ∧ base.head.shard = none ∧ base.head.stopped = false ∧ withheldStep.head.stopped = false) ∧
    (let s := { base with head := { base.head with stopped := true } }; hostCan s 76 0x29 = true ∧ s.head.stopped = true) := by decide +kernel
theorem witness_Prime :
    hostCan sharded 76 0x29 = true ∧ commitState sharded = 0 ∧ (loadedOf sharded (trainCtx sharded)).isSome = true ∧ (ctxAt sharded (trainCtx sharded)).map (·.ending) = some none ∧
    sharded.head.shard.isSome = true ∧ (ctxAt sharded 0).map (fun x => ctxStained sharded x (genBase sharded 0) 4096) = some false ∧
    (loadedOf sharded 0).map (fun l => (ownedTiles sharded l).length) = some 0 ∧ headerOk (trainBytes sharded (genBase sharded 0) 4096) = true ∧
    (loadedOf sharded 0).map (fun l => (setUpSecure sharded l).isSome) = some true ∧ sharded.head.stopped = false ∧
    (loadedOf sharded 0).map (fun l => (rangesWait sharded (primeRanges sharded l)).isNone) = some true ∧
    (let s := { sharded with ctxs := [(0, { ctx with pt := [(1, { pte 16 with state := 3 })], loaded := some { prog with params := [] } })] }
     commitState s = 0 ∧ (loadedOf s (trainCtx s)).isSome = true ∧ (loadedOf s 0).map (fun l => (rangesWait s (primeRanges s l)).isSome) = some true) := by decide +kernel

/-! ### Securing, ports, the host port, pegs -/

/-- The sharded module in a job of n, with its securing slots planned; slot 0 is sealed. -/
def secured (n : Nat) : State :=
  let y : SecureSlot := { genStep := 7, round := 1, isSealed := true, restorable := true, verify := 3, snap := 0, mirror := 0, parity := 0, keptSnap := [], keptMirror := [], keptParity := [], keptStains := [] }
  let s := jobbed sharded n 0
  { setFld (setRegWord s 76 0x29 0x060 7) 76 0x29 ⟨0x048, 2, 0⟩ 1 with secure := { s.secure with slots := [y, { y with isSealed := false, round := 0 }], planned := true, rounds := 1 } }
/-- A round under way on slot 1 in a phase. -/
def round (phase sent : Nat) : State :=
  let s := setFld (secured 2) 76 0x29 ⟨0x06C, 2, 0⟩ phase
  { s with secure := { s.secure with active := some (1, true), sent := sent } }
/-- A group of slots 768 to 775 of port 0 for window 63 of core 0, from module 1. -/
def grouped : State := modPort (jobbed (win base 1 0) 2 0) 0 (fun p => { p with groups := [(0, (0, 63, 1))] })
theorem witness_Securing :
    (secured 1).head.stopped = false ∧ (secured 2).head.stopped = false ∧ (round 1 3).head.stopped = false ∧ (round 2 3).head.stopped = false ∧ grouped.head.stopped = false ∧
    (hostCan (secured 1) 76 0x29 = true ∧ (loadedOf (secured 1) (trainCtx (secured 1))).isSome = true ∧ jobModules (secured 1) = 1) ∧
    (jobModules (round 1 0) ≠ 1 ∧ (round 1 0).secure.active.isSome = true ∧ hostCan (round 1 0) 76 0x29 = true ∧ (loadedOf (round 1 0) (trainCtx (round 1 0))).isSome = true) ∧
    (let s := secured 2
     hostCan s 76 0x29 = true ∧ (loadedOf s (trainCtx s)).isSome = true ∧ jobModules s ≠ 1 ∧ s.secure.planned = true ∧ commitState s ≠ 0 ∧ fld s 76 0x29 (wordFld 0x060) = genStep s ∧
       s.secure.active = none ∧ newestSealed s = some 0 ∧ (secSlot s 1).isSealed = false) ∧
    (securePhase (round 1 3) = 1 ∧ (round 1 3).secure.sent = 3 ∧ securePhase (round 2 3) = 2 ∧ hostCan (round 2 3) 76 0x29 = true ∧ (round 2 3).secure.active = some (1, true)) ∧
    (let m := tow 0x08 1 0 775 0 (63 * 256) [] (leBytes 64 1)
     towArrives grouped 0x08 m = true ∧ slotGroup grouped m = some (0, 63, 1) ∧ siteOf grouped (m.key.toNat % 128) = some 0 ∧ m.key.toNat / 256 % 64 = 63 ∧ m.src.toNat = 1 ∧
       windowTakes grouped 0 63 (m.key.toNat / 65536 % 2 ^ 32 * 128) m.payload.length (some 1) true = true ∧ dropAt grouped 72 0 = none) ∧
    (let m := tow 0x09 1 0 776 0 (63 * 256) [] (leBytes 64 1); towArrives grouped 0x09 m = true ∧ slotGroup grouped m = none) := by decide +kernel
/-- Port 0 enabled, in a job of two, its link down. -/
def enabled : State := setFld { base with head := { base.head with job := some (job 2 0) } } 72 0x20 ⟨0x040, 0, 0⟩ 1
/-- Port 0 in service with its link up, and its barrier 4 begun. -/
def barrier (rounds : List Nat) (id : Option Word) : State := modPort (jobbed base 2 0) 0 (fun p => { p with barrierId := id, barrierRounds := rounds })
theorem witness_FabricPorts :
    (let s := jobbed base 2 0
     inService base 0 = false ∧ inService s 0 = true ∧ s.head.stopped = false ∧ base.head.stopped = false ∧ towFormatOk 0x04 (tow 0x04 1 0 0 0 0 [] []) = false ∧ towFormatOk 0x04 (tow 0x04 2 0 0xFFFF 0 0 [] []) = true ∧
       towSourceOk s (tow 0x04 2 0 0xFFFF 0 0 [] []) = false) ∧
    (hostCan enabled 72 0x20 = true ∧ portPresent enabled 0 = true ∧ reachUp enabled 72 = true ∧ reachUp enabled (attachSite 72) = true ∧ fld enabled 72 0x20 ⟨0x040, 0, 0⟩ = 1 ∧
      fld enabled 72 0x20 ⟨0x040, 3, 2⟩ ≤ 2 ∧ (jobPbr enabled 0 (myIndex enabled)).isSome = true ∧ inService enabled 0 = false ∧
      enabled.hdm.waiting = [] ∧ enabled.mesh.reads = [] ∧ (∀ k < 4, (portAt enabled k).heldRequests = [])) ∧
    (let s := setFld (jobbed base 2 0) 72 0x20 ⟨0x044, 31, 30⟩ 3; inService s 0 = true ∧ fld s 72 0x20 ⟨0x044, 31, 30⟩ = 3) ∧
    (hostCan base 72 0x20 = true ∧ jobModules base ≤ 1) ∧
    (let s := jobbed base 2 0; hostCan s 72 0x20 = true ∧ 1 < jobModules s ∧ jobModules s ≤ 4096 ∧ s.head.job.isSome = true ∧ (portAt s 0).barrierRounds.contains ((4 : Word).toNat * 256) = false) ∧
    (let m := tow 0x06 1 0 0xFFFF 0 4 [] []
     towArrives (barrier [1024] none) 0x06 m = true ∧ (portAt (barrier [1024] none) 0).barrierRounds.contains 1024 = true ∧ towArrives (barrier [] none) 0x06 m = true ∧
       (portAt (barrier [] none) 0).barrierId ≠ some (4 : Word) ∧ (portAt (barrier [] none) 0).barrierPast = [] ∧ (portAt (barrier [] (some 4)) 0).barrierPast = [] ∧ (portAt (barrier [] (some 4)) 0).barrierRounds = [] ∧ towArrives (barrier [] (some 4)) 0x06 m = true ∧ barrierAt (barrier [] (some 4)) 0 4 = 0 ∧ 0 + 1 = roundsOf (jobModules (barrier [] (some 4)))) ∧
    (let m := tow 0x0C 1 0 0xFFFF 0 0x3F00 [] []; let s := jobbed base 2 0
     let t := { s with secure := { s.secure with noticed := [(1, 0x3F00, leAt m.body 5 4)] } }
     towArrives s 0x0C m = true ∧ s.secure.noticed.contains (1, 0x3F00, leAt m.body 5 4) = false ∧ towArrives t 0x0C m = true ∧ t.secure.noticed.contains (1, 0x3F00, leAt m.body 5 4) = true ∧
       (let w := tow 0x0D 1 0 0xFFFF 0 0x3F00 [] []; towArrives s 0x0D w = true ∧ towArrives t 0x0D w = true ∧ t.secure.noticed.any (fun y => decide (y.1 = 1 ∧ y.2.1 = 0x3F00)) = true)) ∧
    (portPresent base 2 = true ∧
      (let f : Fetch := { pos := 0, tile := 0, first := 0, parts := 1, landed := [], image := [], tensorId := 1, tileIndex := 0, format := 1, tileScale := 0, stained := [], ready := false }
       let s := modPort base 2 (fun p => { p with fetches := [f] })
       feederPort s 2 = 2 ∧ (portAt s 2).fetches.any (fun f => !f.ready && decide (f.parts ≠ 0)) = true)) := by decide +kernel
/-- The HDM window over page 1 of context 0. -/
def hdmOn : State :=
  setRegWord (setRegWord (setFld (setFld base 76 0x20 ⟨0x040, 6, 6⟩ 1) 76 0x20 ⟨0x050, 0, 0⟩ 1) 76 0x20 0x044 0x00200000) 76 0x20 0x04C 1
def tracking (l : List (Nat × Bool)) (asked : List (Nat × Bool)) : State := { hdmOn with hdm := { hdmOn.hdm with filter := l, asked := asked } }
theorem witness_HostPort :
    (let s := setFld hdmOn 76 0x20 ⟨0x040, 6, 6⟩ 0; hostCan s 76 0x20 = true ∧ hdmEnabled s = false ∧ (hdmFields s).2.2 ≠ 0 ∧ s.head.stopped = false ∧ s.hdm.draining = false) ∧
    (hostCan hdmOn 76 0x20 = true ∧ hdmEnabled hdmOn = true ∧ hdmOn.hdm.filter = [] ∧ hdmEnabled (tracking [(0, true)] []) = true ∧ (tracking [(0, true)] []).hdm.filter ≠ []) ∧
    (hdmOn.hdm.h0Up = true ∧ hdmAbsent hdmOn (2 ^ 21) 64 = true ∧ hdmReady hdmOn (2 ^ 21 - 64) false 64 = true ∧ hdmReady hdmOn (2 ^ 21 - 1) true 1 = true ∧ (hdmLine hdmOn 32767).2 = false ∧
      (let t := { hdmOn with ctxs := [(0, { ctx with pt := [(1, { pte 16 with stain := true })] })] }; hdmReady t 0 false 64 = true ∧ (hdmLine t 0).2 = true) ∧
      ctxAt hdmOn (hdmCtx hdmOn) = some ctx ∧ tFind ctx.pt ((hdmBase hdmOn + (2 ^ 21 - 1)) / 2 ^ 21) = some (pte 16) ∧ (pte 16).state ≠ 2) := by decide +kernel
theorem witness_HostPortReturns :
    (∀ b ∈ [true, false], let s := tracking [(5, true)] [(5, b)]
      s.hdm.asked.find? (fun x => x.1 = 5) = some (5, b) ∧ s.hdm.waiting = [] ∧ s.mesh.reads = [] ∧ s.step.primeWaits = false ∧ s.secure.active = none ∧ s.hdm.draining = false ∧ tFind ctx.pt ((hdmBase s + 5 * 64) / 2 ^ 21) = some (pte 16)) ∧
    (let s := setFld { tracking [(5, true)] [(5, true)] with hdm := { (tracking [(5, true)] [(5, true)]).hdm with draining := true } } 76 0x20 ⟨0x040, 6, 6⟩ 0
     s.hdm.asked.find? (fun x => x.1 = 5) = some (5, true) ∧ s.hdm.waiting = [] ∧ s.mesh.reads = [] ∧ s.step.primeWaits = false ∧ s.secure.active = none ∧ s.hdm.draining = true ∧ hdmEnabled s = false ∧ s.hdm.filter.all (fun x => decide (x.1 = 5)) = true) ∧
    (base.hdm.h0Up = true ∧ romWaits base = false ∧ (64 : BitVec 7).toNat ≤ 64) ∧
    (let s := { base with hdm := { base.hdm with h0Up := false } }; s.hdm.h0Up = false ∧ reachUp s 76 = true ∧ 2 ≤ bootPhase s) := by decide +kernel
/-- The peg page with sources enabled. -/
def pegged (mask : Word) (held : Bool) : State := setFld (setRegWord (jobbed base 2 0) 76 0x2B 0x040 mask) 76 0x2B ⟨0x050, 31, 31⟩ (if held then 1 else 0)
theorem witness_Pegs :
    (hostCan (pegged 2 false) 76 0x2B = true ∧ pegEnabled (pegged 2 false) 1 = true ∧ pegEnabled (pegged 1 false) 1 = false ∧ hostCan (pegged 1 false) 76 0x2B = true ∧ pegEnabled (pegged 1 false) 0 = true ∧ reachUp base 76 = true) ∧
    (pegHeld (pegged 0x10000 true) = true ∧ fld (pegged 0x10000 true) 76 0x2B ⟨0x040, 31, 16⟩ ≠ 0 ∧ pegHeld (pegged 0 true) = true ∧ fld (pegged 0 true) 76 0x2B ⟨0x040, 31, 16⟩ = 0) ∧
    (let r : PegReq := { sources := 2, remote := none }
     let q : PegReq := { sources := 8, remote := some (1, 4294967295, 9, 3) }
     pegHeld { pegged 2 false with pegs := [r] } = false ∧ { pegged 2 false with pegs := [r] }.pegs = [r] ∧ { pegged 8 false with pegs := [q, r] }.pegs = [q, r] ∧
       inService (pegged 2 false) (controlPort (pegged 2 false)) = true ∧ (pegged 2 false).head.job.isSome = true) ∧
    (let m := tow 0x07 1 0 0xFFFF 0 (1 * 2 ^ 32 + 4294967295) (leBytes 12 9) []
     towArrives (pegged 8 false) 0x07 m = true ∧ pegEnabled (pegged 8 false) 3 = true ∧ pegHeld (pegged 8 false) = false) := by decide +kernel

/-! ### Start-up, management, contexts, programs -/

/-- A mailbox request with a payload. -/
def req (payload : List Byte) : Req := { status := 0, length := BitVec.ofNat 32 payload.length, tag := 0x1234, payload := payload }
/-- The module in a start-up phase. -/
def phase (s : State) (p : Nat) : State := setRegWord s 76 0x2D 0x040 (BitVec.ofNat 32 p)
def withHead (s : State) (f : Head → Head) : State := { s with head := f s.head }
/-- I3C with its address. -/
def overI3c (s : State) : State := { s with mgmt := { s.mgmt with i3c := some 9 } }
theorem witness_StartUp :
    (reachUp State.reset 76 = false ∧ State.reset.power.refclk = true) ∧
    (hostCan base 76 0x2D = true ∧ (1 : Word) ≠ 0x54455352 ∧ base.head.pushing = false ∧ hostCan (withHead base (fun x => { x with pushing := true })) 76 0x2D = true) ∧
    (mbTakes base 0x04 (req []) = true ∧ mbTakes (withHead base (fun x => { x with pushing := true })) 0x04 (req []) = true) ∧
    (managed (overI3c base) = true ∧ bootPhase base ≠ 2 ∧ bootPhase base ≠ 6) ∧
    (reachUp (phase base 1) 76 = true ∧ bootPhase (phase base 1) = 1 ∧ imageFault (phase base 1) (phase base 1).head.flash = some (0x0703, 0)) ∧
    (∀ w ∈ [0, 9], bootPhase (phase base (w * 65536 + 3)) = 3 ∧ fld (phase base (w * 65536 + 3)) 76 0x2D ⟨0x040, 23, 16⟩ = w) ∧
    (bootPhase (phase base 4) = 4) ∧
    (let r := req (leBytes 8 1 ++ [7])
     mbTakes base 0x01 r = true ∧ 8 ≤ (mbBody r).length ∧ leAt (mbBody r) 0 8 < 2 ^ 63 ∧ ((mbBody r).drop 8).length ≤ 65504 ∧ leAt (mbBody r) 0 8 + 1 ≤ imageLimit) ∧
    (let r := req (leBytes 8 (2 ^ 63 + 1) ++ [7])
     let whole := memStore base.head.pushed 1 [7]
     mbTakes base 0x01 r = true ∧ 2 ^ 63 ≤ leAt (mbBody r) 0 8 ∧ mbTakes (phase base 2) 0x01 r = true ∧ bootPhase (phase base 2) = 2 ∧
       imageFault { base with head := { base.head with pushed := whole } } whole = some (0x0703, 0) ∧ bootPhase base = 5) ∧
    (managed (overI3c (phase base 2)) = true ∧ bootPhase (phase base 2) = 2 ∧ ([] : List Byte).length ≤ imageLimit) := by decide +kernel
theorem witness_TallyAndManagement :
    hostCan base 76 0x2A = true ∧ answers base 76 = true ∧ base.hdm.h0Up = true ∧
    (let r := req (leBytes 1 0 ++ leBytes 1 0 ++ leBytes 2 0 ++ leBytes 4 0 ++ leBytes 4 1)
     mbTakes base 0x03 r = true ∧ 12 ≤ (mbBody r).length ∧ leAt (mbBody r) 2 2 = 0 ∧ (tallyBytes base 0 0 0 1).isSome = true ∧ tallyBytes base 9 0 0 1 = none) ∧
    managed (overI3c base) = true ∧ (withHead base (fun x => { x with mbStatus := 2 })).head.mbStatus = 2 ∧
    (let r := req (leBytes 4 0xAFF ++ leBytes 4 1)
     mbTakes base 0x02 r = true ∧ 8 ≤ (mbBody r).length ∧ 0 < leAt (mbBody r) 4 4 ∧ leAt (mbBody r) 4 4 ≤ 65520 ∧ leAt (mbBody r) 0 4 + leAt (mbBody r) 4 4 ≤ 0xB00) ∧
    reachUp base 76 = true ∧ base.mgmt.signed = none ∧ ({ base with mgmt := { base.mgmt with signed := some [1] } } : State).mgmt.signed = some [1] ∧
    bootPhase base = 5 ∧ reachUp base 71 = true ∧
    (let s := setFld base 72 0x20 ⟨0x044, 31, 31⟩ 1
     portPresent s 0 = true ∧ reachUp s 72 = true ∧ fld s 72 0x20 ⟨0x044, 31, 31⟩ = 1 ∧ romWaits s = false ∧ asksMeasurements [0x13, 0xE0] = true ∧ asksMeasurements [0x13, 0x84] = false ∧
       (portAt s 0).untrusted = false) ∧
    (let s := { base with tally := { base.tally with loading := some (7, 2 ^ 20 - 1) } }; s.tally.loading = some (7, 2 ^ 20 - 1)) := by decide +kernel
def create (rows : Nat) : List Byte :=
  leBytes 4 4096 ++ leBytes 4 rows ++ leBytes 4 100 ++ leBytes 4 10 ++ leBytes 1 4 ++ leBytes 15 0 ++ leBytes 8 77 ++ leBytes 8 0x4000 ++ leBytes 1 6 ++ leBytes 1 0 ++ leBytes 6 0 ++ leBytes 8 0
def allocRec (size : Nat) : List Byte := leBytes 8 0 ++ leBytes 8 size ++ [0, 0, 0, 0, 0, 0, 0, 0] ++ leBytes 24 0
def okAlloc (x : Except Nat (State × Nat)) : Bool := match x with | .ok _ => true | .error _ => false
theorem witness_ContextsAndMemory :
    (mbServes (withHead base (fun x => { x with mbStatus := 1 })) 0x10 = false ∧ mbServes base 0x10 = true ∧ (req [1]).payload.length < ({ req [1] with length := 2 } : Req).length.toNat) ∧
    (createOk (create 0) = false ∧ mbTakes base 0x10 (req (create 0)) = true) ∧
    (createOk (create 2097152) = true ∧ overcommits base 4096 2097152 100 4 = true) ∧
    (createOk (create 64) = true ∧ overcommits base 4096 64 100 4 = false ∧ (1 : Nat) < 64 ∧ ctxAt base 1 = none ∧ (∀ d < 1, (ctxAt base d).isSome = true)) ∧
    (let r := req (leBytes 8 0); mbTakes base 0x11 r = true ∧ 8 ≤ (mbBody r).length ∧ zeros (mbBody r) 1 7 = true ∧ ctxAt base (leAt (mbBody r) 0 1) = some ctx ∧ ctx.ending = none) ∧
    (let s := { withHead base (fun x => { x with ending := [(0, 5)] }) with ctxs := [(0, { ctx with ending := some (0, 0) })] }
     (ctxAt s 0).map (·.ending.isSome) = some true ∧ ctxWindows s 0 = [] ∧ s.head.ending.find? (fun e => e.1 = 0) = some (0, 5) ∧ s.moves.any (fun m => m.ctx = 0) = false) ∧
    (let r := req (allocRec (2 ^ 21 + 1))
     mbTakes base 0x12 r = true ∧ 48 ≤ (mbBody r).length ∧ zeros (mbBody r) 1 7 = true ∧ zeros (mbBody r) 22 2 = true ∧ liveCtx base 0 = some ctx ∧
       okAlloc (allocate base 0 (parseAlloc ((mbBody r).drop 8))) = true ∧ okAlloc (allocate base 0 (parseAlloc ((mbBody (req (allocRec 0))).drop 8))) = false ∧ mbTakes base 0x12 (req (allocRec 0)) = true) ∧
    (let r := req (leBytes 8 0 ++ leBytes 8 0x200000)
     mbTakes base 0x13 r = true ∧ 16 ≤ (mbBody r).length ∧ zeros (mbBody r) 1 7 = true ∧ (ctx.objects.find? (fun o => o.base = leAt (mbBody r) 8 8)).isSome = true ∧
       ctx.objects.find? (fun o => o.base = 0x400000) = none) ∧
    (∀ state ∈ [0, 1, 255], let r := req (leBytes 1 255 ++ leBytes 1 state ++ leBytes 2 4095 ++ leBytes 4 0 ++ leBytes 8 0)
     mbTakes base 0x14 r = true ∧ 16 ≤ (mbBody r).length ∧ leAt (mbBody r) 2 2 < 2 ^ 12 ∧ leAt (mbBody r) 8 8 % 2 ^ 21 = 0 ∧ entryInUse base 255 = false ∧ leAt (mbBody r) 1 1 = state) := by
  decide +kernel
def jobBytes (tag : Nat) : List Byte := leBytes 2 tag ++ leBytes 2 1 ++ leBytes 2 0 ++ leBytes 2 0 ++ leBytes 56 0
theorem witness_JobRecords :
    (let r := req (leBytes 4 0 ++ leBytes 4 0 ++ jobBytes 5); mbTakes base 0x16 r = true ∧ leAt (mbBody r) 4 4 = 0 ∧ leAt (mbBody r) 0 4 < 2 ^ 31) ∧
    (let r := req (leBytes 4 (2 ^ 31) ++ leBytes 4 0 ++ jobBytes 5)
     let whole := memStore base.head.jobPart 0 ((mbBody r).drop 8)
     mbTakes base 0x16 r = true ∧ 2 ^ 31 ≤ leAt (mbBody r) 0 4 ∧ jobForm whole (parseJob whole) = true ∧ jobOk base (parseJob whole) = true) ∧
    (let whole := memStore base.head.jobPart 0 (jobBytes 0); jobForm whole (parseJob whole) = true ∧ jobOk base (parseJob whole) = false) ∧
    (let whole := memStore base.head.jobPart 0 (leBytes 64 0); jobForm whole (parseJob whole) = false) := by decide +kernel
theorem witness_ShardsRingsAndRestore :
    (let r := req (leBytes 40 0 ++ leBytes 2 4096 ++ leBytes 2 4095 ++ leBytes 4 0)
     mbTakes base 0x17 r = true ∧ 48 ≤ (mbBody r).length ∧ leAt (mbBody r) 0x28 2 = 4096 ∧ leAt (mbBody r) 0x2A 2 = 4095 ∧ leAt (mbBody r) 0x2C 4 = 0) ∧
    (∀ k ∈ [6, 16], let r := req (leBytes 8 64 ++ leBytes 1 k ++ leBytes 7 0)
     mbTakes base 0x19 r = true ∧ leAt (mbBody r) 0 8 % 64 = 0 ∧ leAt (mbBody r) 8 1 = k ∧ zeros (mbBody r) 9 7 = true) ∧
    (∀ step ∈ [7, 0xFFFFFFFF], let r := req (leBytes 8 0 ++ leBytes 4 step ++ leBytes 4 0); let s := secured 1
     mbTakes s 0x18 r = true ∧ 16 ≤ (mbBody r).length ∧ leAt (mbBody r) 0 1 = trainCtx s ∧ (liveCtx s 0).isSome = true ∧ s.head.shard.isSome = true ∧ (loadedOf s 0).isSome = true ∧
       leAt (mbBody r) 4 2 = myIndex s ∧ mayRestore (secSlot s (leAt (mbBody r) 1 1)) = true ∧ (secSlot s 0).genStep = 7 ∧ leAt (mbBody r) 8 4 = step) := by decide +kernel

/-! ### A loadable module -/

def f32 (x : Nat) : List Byte := leBytes 4 x
/-- A policy: optimizer 1, halves, no bands. -/
def policyHead : List Byte :=
  leBytes 64 0 ++ f32 1 ++ f32 0x3F000000 ++ f32 0x3F000000 ++ f32 0x3F000000 ++ f32 0x3F000000 ++ f32 0x3F800000 ++ f32 0 ++ f32 0x3F800000 ++ f32 0x7F800000 ++ leBytes 28 0 ++
    f32 0 ++ f32 0 ++ f32 0x3F800000 ++ f32 0x3F800000 ++ leBytes 4 3600 ++ leBytes 4 1 ++ leBytes 4 0 ++ leBytes 2 1 ++ leBytes 2 1 ++ leBytes 40 0 ++ leBytes 56 0
def policyBytes : List Byte := policyHead ++ List.replicate 2048 0
/-- What follows the header of a module without functions, parameters and tensors, and one layer. -/
def moduleRest : List Byte :=
  let sec := fun (t n o : Nat) => leBytes 4 t ++ leBytes 4 n ++ leBytes 8 o
  sec 2 0 192 ++ sec 3 0 192 ++ sec 4 0 192 ++ sec 5 2 192 ++ sec 7 2304 256 ++ leBytes 48 0 ++ leBytes 2 1 ++ leBytes 62 0 ++ policyBytes
def moduleHead : List Byte := leBytes 4 0x5545574B ++ leBytes 2 3 ++ leBytes 2 0 ++ leBytes 4 5 ++ leBytes 4 0 ++ leBytes 16 0
def moduleFile : List Byte := moduleHead ++ (digestBytes (sha256 moduleRest) ++ moduleRest)
def loadBytes (width : Nat) : List Byte :=
  leBytes 1 0 ++ leBytes 1 2 ++ leBytes 1 width ++ leBytes 1 0 ++ leBytes 4 0 ++ leBytes 8 0 ++ leBytes 8 moduleFile.length ++ leBytes 8 0x8000 ++ leBytes 4 0 ++ leBytes 1 0 ++ leBytes 3 0 ++
    leBytes 4 0 ++ leBytes 16 0 ++ leBytes 4 0 ++ (List.replicate width 1) ++ leBytes (72 - width) 0
theorem leNat_leBytes (n v : Nat) : leNat (leBytes n v) = v % 2 ^ (8 * n) := by
  induction n generalizing v with
  | zero => simp [leBytes, leNat, Nat.mod_one]
  | succ n ih =>
    simp only [leBytes, leNat, ih]
    have : (2 : Nat) ^ (8 * (n + 1)) = 256 * 2 ^ (8 * n) := by rw [Nat.mul_succ, Nat.pow_add, Nat.mul_comm]
    rw [this, Nat.mod_mul]; simp
theorem leBytes_len (n v : Nat) : (leBytes n v).length = n := by
  induction n generalizing v with
  | zero => rfl
  | succ n ih => simp [leBytes, ih]
theorem digest_round (d : BitVec 256) (r : List Byte) : digestOf (digestBytes d ++ r) = d := by
  have : (digestBytes d).length = 32 := by simp [digestBytes, leBytes_len]
  unfold digestOf
  rw [List.take_append_of_le_length (by omega), List.take_of_length_le (by omega)]
  simp only [digestBytes, List.reverse_reverse, leNat_leBytes]
  apply BitVec.eq_of_toNat_eq
  rw [BitVec.toNat_ofNat]
  have := d.isLt
  omega
theorem file_digest : moduleFile.drop 32 = digestBytes (sha256 moduleRest) ++ moduleRest := List.drop_left' (by decide)
theorem file_body : moduleFile.drop 64 = moduleRest := by
  rw [show moduleFile = (moduleHead ++ digestBytes (sha256 moduleRest)) ++ moduleRest from (List.append_assoc ..).symm]
  exact List.drop_left' (by rw [List.length_append, show moduleHead.length = 32 by decide]; simp [digestBytes, leBytes_len])
theorem header_ok : checkHeader moduleFile = none := by
  have h1 : (decide (64 ≤ moduleFile.length) && leAt moduleFile 0 4 = 0x5545574B && decide (1 ≤ leAt moduleFile 8 4) && decide (leAt moduleFile 8 4 ≤ 64) && leAt moduleFile 12 4 = 0 &&
    decide (64 + 16 * leAt moduleFile 8 4 ≤ moduleFile.length)) = true := by decide +kernel
  have h2 : decide (digestOf (moduleFile.drop 32) = sha256 (moduleFile.drop 64)) = true := by rw [file_body, file_digest, digest_round]; exact decide_eq_true rfl
  unfold checkHeader
  rw [h1, h2]; rfl
/-- Bytes of a list behind its first 256, where the rest is zeros, are zeros. -/
theorem leAt_zeros (a : List Byte) (n o : Nat) (h : a.length ≤ o) : leAt (a ++ List.replicate n 0) o 4 = 0 := by
  have hz : ∀ m : Nat, leNat (List.replicate m (0 : Byte)) = 0 := by
    intro m; induction m with
    | zero => rfl
    | succ m ih => rw [List.replicate_succ, leNat, ih]; rfl
  unfold leAt
  rw [List.drop_append, List.drop_of_length_le h, List.nil_append, List.drop_replicate, List.take_replicate, hz]
theorem policy_section : sectionD moduleFile 7 = policyHead ++ List.replicate 2048 0 := by decide +kernel
theorem no_fault (l : List (Nat × Bool)) (h : ∀ x ∈ l, x.2 = true) : firstFault (l.map (fun (x : Nat × Bool) => need x.2 0x010A x.1)) = none := by
  unfold firstFault
  rw [List.findSome?_eq_none_iff]
  intro y hy
  obtain ⟨x, hx, rfl⟩ := List.mem_map.1 hy
  simp [need, h x hx]
theorem policy_head :
    let p := policyHead ++ List.replicate 2048 0
    let mask := fun (v : Nat) (fs : List FieldRow) => decide (BitVec.ofNat 32 v &&& ~~~(fs.foldl (fun (m : Word) f => m ||| rowMask f) 0) = 0)
    ([(0x00, mask (leAt p 0 4) ((blockRows .st).filter (fun f => f.off = 0x040))), (0x08, mask (leAt p 8 4) ((blockRows .mx).filter (fun f => f.off = 0x040))),
      (0x0E, decide (leAt p 0x0E 1 ≤ 1)), (0x0F, zeros p 0x0F 49)] ++ optimizerRanges p ++ riskRanges p).all (fun x => x.2) = true := by decide +kernel
theorem policy_ok : checkPolicy moduleFile = none := by
  have hb : ∀ o, 256 ≤ o → policyF (policyHead ++ List.replicate 2048 0) o = 0 := by
    intro o h; unfold policyF; rw [leAt_zeros _ _ _ (Nat.le_trans (by decide +kernel) h)]; rfl
  unfold checkPolicy
  rw [policy_section]
  apply no_fault
  intro x hx
  rcases List.mem_append.1 hx with hx | hx
  · exact List.all_eq_true.1 policy_head x hx
  · obtain ⟨g, -, rfl⟩ := List.mem_map.1 hx
    show bandOk _ _ = true
    rw [hb _ (by omega), hb _ (by omega)]; decide
/-- The context of a load, with a scratchpad region of just what the module's translation spills. -/
def loadCtx : Ctx := { ctx with loaded := none, objects := [], pt := [], spRows := (translation (parseLoad (loadBytes 1)) moduleFile).1 }
def loading : State := { up with ctxs := [(0, loadCtx)], cores := [(0, { freshCore with passed := true })] }
theorem module_checks : checkModule moduleFile = none := by
  have h1 : checkVersion moduleFile = none := by decide +kernel
  have h2 : checkSections moduleFile = none := by decide +kernel
  have h3 : checkTables moduleFile = none := by decide +kernel
  have h4 : checkLayers moduleFile = none := by decide +kernel
  have h5 : checkImports moduleFile = none := by decide +kernel
  have h6 : checkCode moduleFile = none := by decide +kernel
  unfold checkModule
  rw [header_ok, h1, h2, h3, h4, policy_ok, h5, h6]; rfl
theorem witness_Loads :
    mbTakes loading 0x15 (req (loadBytes 1)) = true ∧ liveCtx loading (parseLoad (mbBody (req (loadBytes 1)))).ctx = some loadCtx ∧ loadForm (mbBody (req (loadBytes 1))) = true ∧
    loadFault (numberCores loading) (parseLoad (loadBytes 1)) loadCtx moduleFile = none ∧ loadFault (numberCores loading) (parseLoad (loadBytes 72)) loadCtx moduleFile = some (0x0108, 0) := by
  have h1 : decide ((parseLoad (loadBytes 1)).width ≤ coreCount (numberCores loading)) = true := by decide +kernel
  have h2 : decide (2 ≤ (parseLoad (loadBytes 1)).threads) = true := by decide +kernel
  have h3 : decide ((translation (parseLoad (loadBytes 1)) moduleFile).1 ≤ loadCtx.spRows * 128) = true := by
    show decide ((translation (parseLoad (loadBytes 1)) moduleFile).1 ≤ (translation (parseLoad (loadBytes 1)) moduleFile).1 * 128) = true
    generalize (translation (parseLoad (loadBytes 1)) moduleFile).1 = n
    simp only [decide_eq_true_eq]; omega
  have h4 : ((layoutSites (numberCores loading) (parseLoad (loadBytes 1)).width).all (fun site =>
      decide ((parseLoad (loadBytes 1)).threads ≤ (openThreads (numberCores loading) (parseLoad (loadBytes 1)).ctx site).length))) = true := by decide +kernel
  have h5 : decide ((parseLoad (loadBytes 72)).width ≤ coreCount (numberCores loading)) = false := by decide +kernel
  refine ⟨by decide +kernel, ?_, by decide +kernel, ?_, ?_⟩
  · have : (parseLoad (mbBody (req (loadBytes 1)))).ctx = 0 := by decide +kernel
    rw [this]; rfl
  · unfold loadFault; rw [module_checks, h1, h2, h3, h4]; rfl
  · unfold loadFault; rw [module_checks, h5]; rfl

/-! ### Training -/

/-- A training step under way on module i of n: a shard, a record of step 3 and a state of the commit page. -/
def train (n i state : Nat) : State :=
  let s := jobbed { base with
    head := { base.head with shard := some { genA := 0x200000, genB := 0x400000, serveA := 0x200000, serveB := 0x400000, sums := 0x600000, modules := n, index := i } }
    step := { base.step with record := some { rec0 with step := 1 } } } n i
  setFld (setRegWord s 76 0x29 0x050 1) 76 0x29 ⟨0x048, 2, 0⟩ state
def chunk (number : Nat) : Chunk :=
  { tensorId := 1, tileIndex := 0, number := number, step := 1, mark := 5, exps := List.replicate 32 0, mants := List.replicate 2048 0 }
def node (level index : Nat) : Node := { level := level, index := index, chunk := chunk 127 }
/-- The key of a gradient chunk of tile 0 of tensor 1. -/
def chunkKey (number : Nat) : Dword := BitVec.ofNat 64 (number * 2 ^ 40 + 1)
def gradTow (src dst : BitVec 16) (number : Nat) (step : Word) : Tow := tow 0x01 src dst 0 step (chunkKey number) (leBytes 32 0) (leBytes 4096 0)
def laidOut (width : Nat) : State :=
  { base with ctxs := [(0, { ctx with loaded := some { prog with width := width, weights := List.replicate width 1 } })] }
theorem witness_GradientsFlow :
    (let s := train 3 0 2; towArrives s 0x01 (gradTow 1 0 0 1) = true ∧ (1 : Nat) ≠ ringPred s) ∧
    (let s := train 2 0 2
     chunkArrives s (gradTow 1 0 127 1) = true ∧ chunkUnexpected s 0 (towChunk (gradTow 1 0 127 1)) = false ∧ chunkArrives s (gradTow 1 0 128 1) = true ∧
       chunkUnexpected s 0 (towChunk (gradTow 1 0 128 1)) = true) ∧
    (inService (train 2 0 2) 0 = true) ∧
    (let s := modPort (laidOut 3) 0 (fun p => { p with nodes := [node 0 0, node 0 1] })
     0 + 1 < roundsOf (layoutWidth s s.step.ctx) ∧ findPair (portAt s 0).nodes 0 0 = some (node 0 0, node 0 1) ∧
       operandsHeld s (layoutWidth s s.step.ctx) [node 0 0, node 0 1] (combineSite s 0 0) = false ∧ (operandsLost s 0 (layoutWidth s s.step.ctx) [node 0 0, node 0 1] (combineSite s 0 0)).isNone = true) ∧
    (let s := modPort (train 2 0 2) 0 (fun p => { p with nodes := [node 0 0] })
     commitState s = 2 ∧ s.step.lost = false ∧ jobModules s ≠ 1 ∧ (portAt s 0).own.length < 64 ∧ topChunk (layoutWidth s s.step.ctx) [] (portAt s 0).nodes = some (node 0 0, none) ∧
       loadedOf s s.step.ctx = some prog ∧ tileOf prog 1 0 = some (0, param) ∧ (s.step.record.map (·.kind)) = some 0 ∧
       operandsHeld s (layoutWidth s s.step.ctx) [node 0 0] 72 = false ∧ (operandsLost s 0 (layoutWidth s s.step.ctx) [node 0 0] 72).isNone = true) ∧
    topChunk 2 [] [node 0 0, node 0 1] = some (node 0 0, some (node 0 1)) := by decide +kernel
theorem witness_RingsAdd :
    (let s := modPort (train 2 1 2) 0 (fun p => { p with own := [chunk 127] })
     ringsRun s = true ∧ s.head.job.isSome = true ∧ (portAt s 0).arrival = [] ∧ (portAt s 0).own.find? (ringReady s 0) = some (chunk 127) ∧ chunkTile s (chunk 127) = some (prog, 0, param) ∧
       tileOwner s prog 0 = ringPred s) ∧
    (let s := modPort (train 2 0 3) 0 (fun p => { p with own := [chunk 127], arrival := [(0, some (chunk 127))] })
     ringsRun s = true ∧ s.head.job.isSome = true ∧
       (portAt s 0).arrival.all (fun a => match a.2 with | some a => decide (some a.step.toNat = latchedStep s) | none => true) = true ∧
       (portAt s 0).own.find? (ringReady s 0) = some (chunk 127) ∧ chunkTile s (chunk 127) = some (prog, 0, param) ∧ tileOwner s prog 0 ≠ ringPred s ∧ tileOwner s prog 0 = myIndex s ∧
       (portAt s 0).arrival.find? (fun a => a.1 = (portAt s 0).nextSeq) = some (0, some (chunk 127))) ∧
    (let s := modPort (train 3 2 2) 0 (fun p => { p with own := [chunk 127], arrival := [(0, some (chunk 127))] })
     (portAt s 0).own.find? (ringReady s 0) = some (chunk 127) ∧ tileOwner s prog 0 ≠ ringPred s ∧ tileOwner s prog 0 ≠ myIndex s) := by decide +kernel
theorem witness_GroupsEnd :
    let s := { train 2 0 2 with step := { (train 2 0 2).step with tilesDone := [0] } }
    loadedOf s (trainCtx s) = some prog ∧ ringsRun s = true ∧ commitState s = 2 ∧ groupTiles s prog 0 ≠ [] ∧ s.step.groupsDone.contains 0 = false ∧
      (groupTiles s prog 0).all (fun x => s.step.tilesDone.contains x.1) = true := by decide +kernel
/-- The ring of core 0: two slots from row 1,024 of its region on. -/
def ringed (s : State) : State := setRegWord s 0 0x16 0x06C 2
def fetch0 (tile : Nat) (ready : Bool) : Fetch :=
  { pos := 0, tile := tile, first := 256, parts := 128, landed := [], image := [], tensorId := 1, tileIndex := 0, format := 1, tileScale := 0x3F800000, stained := [], ready := ready }
/-- The masks of group 0 on the way from F0 to site 0: south from the port, west along row 7, south along column 0. -/
def masked (s : State) : State :=
  [(72, 8), (67, 16), (66, 16), (65, 16), (64, 16), (63, 8), (54, 8), (45, 8), (36, 8), (27, 8), (18, 8), (9, 8), (0, 1)].foldl
    (fun s (x : Nat × Nat) => setFld s x.1 0x03 ⟨0x600, 4, 0⟩ x.2) s
theorem witness_WeightsFlow :
    (let m := tow 0x02 1 0 0xFFFF 7 0 (leBytes 4 0) []
     let s := train 2 0 2
     let hdr := leBytes 4 7 ++ leBytes 24 0
     let t := { s with store := { s.store with stack := memStore [] (16 * 2 ^ 21) hdr } }
     towArrives s 0x02 m = true ∧ (portAt s 0).heldRequests.any (fun r => decide ({ r with tag := m.tag } = m)) = false ∧
       (portAt (modPort s 0 (fun p => { p with heldRequests := [{ m with tag := 10 }] })) 0).heldRequests.any (fun r => decide ({ r with tag := m.tag } = m)) = true ∧
       loadedOf s (trainCtx s) = some prog ∧ globalTile prog 0 = some (param, 0) ∧ tileOwner s prog 0 = myIndex s ∧ commitState t ≠ 0 ∧ genStep t = m.step.toNat ∧ genStep s < m.step.toNat ∧
       globalTile prog 1 = none ∧ serveAway t prog 0 param = false) ∧
    (let m := tow 0x03 1 0 383 0 (BitVec.ofNat 64 (127 * 2 ^ 24 + 128 * 2 ^ 32)) (leBytes 11 0) (leBytes 4096 0)
     let s := modPort (train 2 0 2) 0 (fun p => { p with fetches := [fetch0 0 false] })
     towArrives s 0x03 m = true ∧ (portFeeders s 0).find? (fun k => (portAt s k).fetches.any (fetchTakes m)) = some 0 ∧
       (portFeeders (train 2 0 2) 0).find? (fun k => (portAt (train 2 0 2) k).fetches.any (fetchTakes m)) = none) ∧
    (let s := ringed (train 2 0 2)
     mayFeed s 0 = true ∧ loadedOf s (feedCtx s) = some prog ∧ loadedOf s (trainCtx s) = some prog ∧ nextPosition s prog 0 (portAt s 0).feedPos = some 0 ∧ (portAt s 0).fetches = [] ∧
       scheduleTile prog 0 = some (param, 0) ∧ (globalBase prog.params 0 1).map (fun b => b.1 + 0) = some 0 ∧ tileOwner s prog 0 = myIndex s ∧ (portAt s 0).fetches.length < ringTiles s) ∧
    (let s := ringed (train 2 1 2)
     tileOwner s prog 0 ≠ myIndex s ∧ mayFeed s 0 = true ∧ s.head.job.isSome = true ∧ inService s (feederPort s 0) = true ∧ serveAway (ringed (train 2 0 2)) prog 0 param = false ∧ freeLanding s 0 ((imageBytes 1 + 4095) / 4096) = some 256) ∧
    (let s := modPort (ringed (train 2 0 2)) 0 (fun p => { p with fetches := [fetch0 0 true] })
     mayFeed s 0 = true ∧ s.mesh.mcasts.any (fun m => m.group = 0) = false ∧ ((List.range 1).filterMap (siteOf s)) = [0] ∧ slotFree s prog 0 0 = true ∧ spServed s 0 4 = true ∧ holdSet s 72 = false ∧ groupCopies s 0 72 = [] ∧ groupCopies (masked s) 0 72 = [0] ∧
       (spBase s (feedCtx s) + wwRow s (feedCtx s) 0 0) * 128 + 128 + imageBytes 1 ≤ 2 ^ 28) ∧
    (let m : Mcast := { group := 0, source := 72, targets := [0] }
     ({ base with mesh := { base.mesh with mcasts := [m] } } : State).mesh.mcasts.find? (fun m => m.group = 0 ∧ m.source = 72) = some m) := by decide +kernel
/-- A chunk of module 0's own tile that stands at the Press. -/
def pressed : State := modPort (train 2 0 2) 0 (fun p => { p with press := [chunk 127] })
theorem flat_length {α : Type} (f : α → List Byte) (n : Nat) (l : List α) (h : ∀ x ∈ l, (f x).length = n) : ((l.map f).flatten).length = n * l.length := by
  induction l with
  | nil => simp
  | cons a l ih =>
    simp only [List.map_cons, List.flatten_cons, List.length_append, List.length_cons]
    rw [h a List.mem_cons_self, ih (fun x hx => h x (List.mem_cons_of_mem _ hx)), Nat.mul_succ, Nat.add_comm]
theorem bytes16_length (l : List (BitVec 16)) : (bytes16 l).length = 2 * l.length := flat_length _ 2 l (fun _x _ => leBytes_len 2 _)
theorem moments_length (limit : Nat) (rnd : Nat → Nat) (live : Nat → Bool) (xs : List F32) (h : xs.length = 128) : (encodeMoments limit rnd live xs).2.1.length = 128 := by
  unfold encodeMoments
  split
  · simp
  · unfold stateEncode; dsimp only; split <;> simp [h]
theorem words16_length (l : List Byte) (n : Nat) (h : l.length = 2 * n) : (words16 l).length = n := by
  induction n generalizing l with
  | zero => cases l with | nil => rfl | cons a l => simp at h
  | succ n ih =>
    match l, h with
    | a :: b :: r, h => rw [words16, List.length_cons, ih r (by simp at h; omega)]
theorem block_length (o : Policy) (t : StepState) (lr : F32) (rnd : Nat → Nat) (live : Nat → Bool) (gs : List F32) (block : List Byte) (hg : gs.length = 2048)
    (hb : block.length = 8256) : (updateBlock o t lr rnd live gs block).bytes.length = 8256 := by
  unfold updateBlock
  dsimp only
  have hw : (words16 (block.take 4096)).length = 2048 := words16_length _ _ (by simp [hb])
  have flat : ∀ l : List (BitVec 16 × List Byte × Nat), (∀ x ∈ l, x.2.1.length = 128) → ((l.map (fun a => a.2.1)).flatten).length = 128 * l.length :=
    fun l h => flat_length (fun a => a.2.1) 128 l h
  simp only [List.length_append, bytes16_length, List.length_map]
  rw [flat, flat]
  · simp [hg, hb, hw]
  all_goals
    intro x hx
    obtain ⟨b, hb', rfl⟩ := List.mem_map.1 hx
    apply moments_length
    have := List.mem_range.1 hb'
    simp only [List.length_take, List.length_drop, List.length_map, List.length_zipIdx, List.length_zip, hg, hw, hb]
    omega
theorem witness_PressApplies :
    ringsRun pressed = true ∧ (portAt pressed 0).press.find? (chunkReady pressed) = some (chunk 127) ∧
    ((pressRanges pressed (chunk 127)).flatMap (fun y => hostLines pressed (trainCtx pressed) y.1 y.2.1 y.2.2)) = [] ∧ (pressed.step.record.isSome = true) ∧
    ctxAt pressed (trainCtx pressed) = some ctx ∧ ctx.ending = none ∧ chunkTile pressed (chunk 127) = some (prog, 0, param) ∧ pressed.step.applied.contains (0, 127) = false ∧
    appliedOf pressed 0 + 1 < tileChunks param.format ∧
    (let a := blockAddr pressed prog (activeGen pressed) 0 127 false
     let d := blockAddr pressed prog (1 - activeGen pressed) 0 127 false
     let z := sumBase pressed + 12 * (blocksBefore pressed prog 0 + 127)
     ctxStained pressed ctx a 8256 = false ∧ tFind ctx.pt (d / 2 ^ 21) = some (pte 17) ∧ d % 2 ^ 21 + 8256 ≤ 2 ^ 21 ∧ tFind ctx.pt (z / 2 ^ 21) = some (pte 18) ∧ z % 2 ^ 21 + 12 ≤ 2 ^ 21 ∧
       pteKey (pte 17) (d % 2 ^ 21) + 8256 ≤ pteKey (pte 18) (z % 2 ^ 21) ∧ (decodeChunk (chunk 127)).length = 2048 ∧ (trainBytes pressed a 8256).length = 8256) := by decide +kernel
/-- The job's module 0 voting: every core of the layout has ended, its own tile is done. -/
def voting (n : Nat) : State :=
  let s := train n 0 2
  { s with step := { s.step with ended := [0], emitted := [(0, 128)], tilesDone := [0], groupsDone := [0] }, withheld := none }
theorem witness_VotesAndReplays :
    (mayVote (voting 1) = true ∧ jobModules (voting 1) ≤ 1 ∧ myIndex (voting 1) = 0 ∧ (voting 1).step.resolution = none ∧ (voting 1).step.record.isSome = true ∧ (voting 1).step.timedOut = false ∧ (voting 1).step.foul = false ∧
      suspectAtVote (voting 1) = false ∧ suspectAtVote { voting 1 with step := { (voting 1).step with suspect := true } } = true) ∧
    (commitState (train 2 0 3) = 3 ∧ (train 2 0 3).step.timedOut = false) := by decide +kernel
theorem witness_VotesSpread :
    (mayVote (voting 2) = true ∧ 1 < jobModules (voting 2) ∧ (voting 2).head.job.isSome = true ∧ inService (voting 2) (controlPort (voting 2)) = true ∧
      voteSource (jobModules (voting 2)) (myIndex (voting 2)) 0 = some 1 ∧ tFind (voting 2).step.votes (voteKey (currentStep (voting 2)).toNat 0 1) = none) ∧
    (let m := tow 0x04 1 0 0xFFFF 1 0 (leBytes 8 4) []; let s := train 2 0 2
     towArrives s 0x04 m = true ∧ votePassed s m.step.toNat = false ∧ tFind s.step.votes (voteKey 1 0 1) = none ∧ commitState s = 2 ∧ s.step.lost = false ∧ m.step = currentStep s ∧
       bitOf (leAt m.body 0 1 % 8) 2 = true ∧ votePassed (train 2 0 1) 1 = true ∧ votePassed (train 2 0 1) 2 = false ∧ commitState (train 2 0 1) = 1 ∧
       queueAt s 1 = some queue ∧ queue.ctx = s.step.ctx) := by decide +kernel
theorem witness_Resolutions :
    (let m := tow 0x05 1 0 0xFFFF 1 1 (leBytes 2 0) []
     let s := { train 2 0 4 with withheld := some (train 2 0 4).step }
     towArrives s 0x05 m = true ∧ m.key.toNat % 256 = 1 ∧ m.step = currentStep s ∧ commitState s = 4 ∧ (s.withheld.bind (·.record)).isSome = true ∧ resolvable (train 2 0 1) true = false ∧
       s.step.resolution = none ∧ (train 2 0 1).step.resolution = none ∧ inService (train 2 0 1) (controlPort (train 2 0 1)) = true ∧
       (let v := { train 2 0 3 with step := { (train 2 0 3).step with timedOut := true } }
        towArrives v 0x05 { m with key := 0 } = true ∧ v.step.resolution = none ∧ m.step = currentStep v ∧ commitState v = 3 ∧ v.step.record.isSome = true) ∧
       (let v := { train 2 0 1 with step := { (train 2 0 1).step with resolution := some (1, 0, false) } }; towArrives v 0x05 m = true ∧ v.step.resolution.map (·.1) = some m.step) ∧
       towArrives (train 2 0 1) 0x05 m = true ∧ towArrives s 0x05 { m with key := 2 } = true) ∧
    (let m := tow 0x0A 1 0 0xFFFF 1 1 [] []; towArrives (train 2 0 1) 0x0A m = true ∧ (train 2 0 1).step.replayReq ≠ some (m.step, m.key.toNat % 2 ^ 12)) ∧
    (let s := { voting 2 with step := { (voting 2).step with back := 4 } }
     let t := setFld s 76 0x29 ⟨0x048, 2, 0⟩ 6
     (t.step.record.isSome = true) ∧ commitState t = 6 ∧ layoutEnded t = true ∧ manglesDone t = true ∧ t.step.back < 8) ∧
    (let m := tow 0x0B 1 0 0xFFFF 1 (1 * 2 ^ 16) (leBytes 32 3) []; let s := train 2 0 1
     towArrives s 0x0B m = true ∧ m.key.toNat % 256 = 0 ∧ myIndex s = 0 ∧ tFind s.step.digests 1 ≠ some (digestOf m.body) ∧ s.step.verifyStep = none ∧
       towArrives s 0x0B { m with key := 2 } = true ∧
       (let d := tow 0x0B 0 1 0xFFFF 1 (1 * 2 ^ 16 + 1) (leBytes 32 3) []
        let t := { train 2 1 1 with step := { (train 2 1 1).step with verifyStep := some 1 } }
        towArrives t 0x0B d = true ∧ d.key.toNat % 256 = 1 ∧ myIndex t ≠ 0 ∧ d.key.toNat / 2 ^ 16 % 2 ^ 12 = myIndex t ∧ t.step.verifyStep = some d.step)) := by decide +kernel

/-! ### Upkeep, arbiters, the mesh, reaches -/

def fabricPte (heat : Nat) : Pte := { stain := false, migratable := true, pinned := false, state := 0, fabric := true, place := 3, page := 7, heat := heat }
def warm (heat : Nat) : State := { base with ctxs := [(0, { ctx with pt := [(1, fabricPte heat)] })] }
theorem hot_none : hotPages (foldHeat base []) = [] := by decide +kernel
theorem hot_one : hotPages (foldHeat (warm 65534) [(0, 1, 65535)]) = [(0, 1)] := by decide +kernel
def move1 (fabric : Bool) : Move := { ctx := 0, page := 1, fabric := fabric, place := 5, dest := 9, retire := false, follow := none }
def fault1 (effect : Nat) : FaultRec :=
  { code := 0x0304, effect := effect, context := none, mark := 0, queue := none, core := none, site := none, reach := 0, block := 0, timestamp := 0, fine := 0, count := 1, step := 0,
    detail := 0, seq := 0 }
theorem witness_UpkeepAndRecords :
    hotPages (foldHeat base []) = [] ∧ hotPages (foldHeat (warm 65534) [(0, 1, 65535)]) = [(0, 1)] ∧
    (∃ x, ctxAt (warm 65534) 0 = some x ∧ tFind x.pt 1 = some (fabricPte 65534) ∧ (pageObject x 1).isSome = true ∧ stackUsed (warm 65534) 0 x < x.stackPages ∧
      ((pageObject x 1).bind (fun o => homePage (warm 65534) o.home (1 - o.base / 2 ^ 21))).isSome = true) ∧
    (warm 65534).store.due = [] ∧ follows (warm 65534) 0 1 = false ∧
    (∀ b ∈ [true, false], let s := { base with moves := [move1 b] }
      s.moves.find? (mayEnd s) = some (move1 b) ∧ (b = false → moveFails s (pte 16) (move1 b) = false) ∧
      pageOf s 0 1 = some (pte 16) ∧ hostLines s 0 (1 * 2 ^ 21) (2 ^ 21) false = [] ∧ (b = false → moveHeld s (pte 16) (move1 b) = false) ∧
      ((pte 16).fabric ≠ (movedPte s (pte 16) (move1 b)).fabric ∨ pteKey (pte 16) 0 + 2 ^ 21 ≤ pteKey (movedPte s (pte 16) (move1 b)) 0)) ∧
    (let s := setFld { base with moves := [move1 false] } 0 0x03 ⟨0x040, 0, 0⟩ 1
     s.moves.find? (mayEnd s) = some (move1 false) ∧ pageOf s 0 1 = some (pte 16) ∧ moveHeld s (pte 16) (move1 false) = true) ∧
    (siteGood base 71 = true ∧ siteGood (setFld base 76 0x2C ⟨0x100 + 4 * 71, 7, 7⟩ 0) 71 = false ∧ (2097151 : Nat) < 2 ^ 21) ∧
    (∀ k ∈ [2, 3], let s := { base with ctxs := [(0, { ctx with pt := [(1, { pte 16 with state := k })] })], moves := [move1 false] }
      (pageOf s 0 1).map (·.state) = some k ∧ (k = 2 → s.moves.find? (mayEnd s) = some (move1 false)) ∧ (k = 3 → s.moves.find? (mayEnd s) = none)) ∧
    (stackPresent base 143 = true ∧ reachUp base 71 = true ∧ stackPages - 1 < stackPages ∧ (32767 : Nat) < 32768) ∧
    (∀ x ∈ base.ctxs, ∀ e ∈ x.2.pt, ¬(e.2.fabric = false ∧ e.2.place = 143 ∧ e.2.page = 0)) ∧
    (base.head.inbox = []) ∧
    (let s := withHead base (fun x => { x with inbox := [fault1 0], ringAddr := some (64, 6) })
     s.head.inbox = [fault1 0] ∧ tGet 0 s.head.secondCount (secondKey (fault1 0)) < keptPerSecond ∧ s.head.ringAddr = some (64, 6) ∧ s.hdm.h0Up = true) ∧
    (let s := withHead base (fun x => { x with inbox := [fault1 0], secondCount := [(secondKey (fault1 0), 16)] })
     (fault1 0).effect = 0 ∧ keptPerSecond ≤ tGet 0 s.head.secondCount (secondKey (fault1 0))) ∧
    (loadedOf running (trainCtx running) = some prog ∧ commitState running ≠ 0) := by
  refine ⟨hot_none, hot_one, ⟨{ ctx with pt := [(1, fabricPte 65534)] }, by decide +kernel⟩, by decide +kernel, by decide +kernel, by decide +kernel, by decide +kernel, by decide +kernel,
    by decide +kernel, by decide +kernel, by decide +kernel, by decide +kernel, by decide +kernel⟩
theorem witness_ArbitersAndRoutes :
    (∀ x ∈ [(0, 0x04), (75, 0x21)], arbThere base x.1 x.2 = true ∧ askers base x.1 x.2 0 = [] ∧ askers base x.1 x.2 1 = [0]) ∧
    (capturedSet base (windowKey 0 4) = none ∧ (let s := { base with pages := { base.pages with captured := [(windowKey 0 4, [(pageKey 0 4 0x040, 9)])] } }; capturedSet s (windowKey 0 4) = some [(pageKey 0 4 0x040, 9)] ∧
      onPage 0 4 (pageKey 0 4 0x040) = true)) ∧
    (let s := setFld base 1 0x03 ⟨0x044, 2, 0⟩ 1
     reachUp s 1 = true ∧ linkState s 1 1 = 1 ∧ tFind s.mesh.retries (1 * 8 + 1) = none) ∧
    (let s := setFld base (attachSite 75) 0x03 ⟨0x044, 14, 0⟩ 0x1249; attachSite 75 < 77 ∧ linkState s (attachSite 75) (attachPort 75) = 1 ∧ reachUp s (attachSite 75) = true) ∧
    (let s := { setFld base 1 0x03 ⟨0x044, 2, 0⟩ 1 with mesh := { base.mesh with retries := [(9, (255, 8))] } }; tFind s.mesh.retries (1 * 8 + 1) = some (255, 8) ∧ linkState s 1 1 = 1) ∧
    (let s := { base with mesh := { base.mesh with dirty := true } }; s.mesh.rebuilding = false ∧ s.mesh.dirty = true) ∧
    (let s := { base with mesh := { base.mesh with rebuilding := true, hostCommits := [4] }, pages := { base.pages with captured := [(4 * 64 + 3, [(pageKey 4 3 0x400, 2)])] } }
     s.mesh.rebuilding = true ∧ s.mesh.dirty = false ∧ capturedSet s (4 * 64 + 3) = some [(pageKey 4 3 0x400, 2)] ∧ onPage 4 0x03 (pageKey 4 3 0x400) = true) := by decide +kernel
/-- Every link of the mesh up. -/
def linked : State := (List.range 77).foldl (fun s r => (linksOf r).foldl (fun s l => setLink s r l.1 1) s) base
theorem witness_RoutesRebuilt :
    (let s := { linked with mesh := { linked.mesh with rebuilding := true, dirty := true } }
     s.mesh.rebuilding = true ∧ s.mesh.dirty = true ∧ s.mesh.hostCommits = [] ∧ meshWhole s = true ∧ reachUp s 75 = true ∧ reachUp s (attachSite 75) = true ∧
       linkState s (attachSite 75) (attachPort 75) = 1) ∧
    (base.hdm.waiting = [] ∧ base.mesh.reads = [] ∧ base.mesh.hostCommits = []) := by decide +kernel
theorem witness_ReachesGo :
    (reachUp base 75 = true ∧ reachUp base 0 = true ∧ tFind base.power.off 0 = none ∧ tGet 0 base.head.keeperFails 0 = 0 ∧ tGet 0 (withHead base (fun x => { x with keeperFails := [(0, 1)] })).head.keeperFails 0 ≠ 0) ∧
    (tFind base.power.off 76 = none ∧ reachUp base 76 = true) ∧
    (∀ k ∈ [1, 2], linkState (setFld base 1 0x03 ⟨0x044, 2, 0⟩ k) 1 1 = k) ∧
    (base.head.mbStatus ≠ 1 ∧ (let s := withHead base (fun x => { x with mbStatus := 1, ending := [(0, 5)] }); s.head.mbStatus = 1 ∧ s.head.resetWaits = false ∧ s.head.ending = [(0, 5)] ∧ reachUp s 76 = true)) := by decide +kernel
theorem witness_ReachesReturn :
    (base.hdm.waiting = [] ∧ base.mesh.reads = [] ∧ base.step.primeWaits = false ∧ base.secure.active = none ∧ ∀ k < 4, (portAt base k).heldRequests = []) ∧
    (∀ c ∈ [1, 2, 3, 4], let s := { base with power := { base.power with up := List.range 71 ++ [72, 73, 74, 75, 76], off := [(71, c)] } }
      tFind s.power.off 71 = some c ∧ s.power.refclk = true) ∧
    (let s := { base with power := { base.power with up := [76], off := [(3, 5)] } }; reachUp s 76 = true ∧ tFind s.power.off 3 = some 5) ∧
    (3 ≤ bootPhase base ∧ bootPhase base ≤ 5 ∧ (let g : List (Nat × Int) := [(0, -32768), (71, 1600)]; g.filter (fun y => y.1 = 71) = [(71, 1600)])) ∧
    (base.power.coolantFault = false ∧ coolantBad base 0 100000 = true ∧ coolantBad base 100000 0 = false) := by decide +kernel
theorem witness_StickyRecords :
    (let s := withHead base (fun x => { x with inbox := [fault1 4] }); s.head.inbox = [fault1 4] ∧ (fault1 4).effect ≠ 0 ∧ s.tally.sticky.length < stickySize) ∧
    (let s := { withHead base (fun x => { x with inbox := [fault1 8] }) with tally := { base.tally with sticky := List.replicate stickySize (fault1 8) } }
     stickySize ≤ s.tally.sticky.length) := by decide +kernel

/-! ### Ill-formed commands -/

def badReq : Req := { status := 0, length := 0, tag := 0, payload := List.replicate 65521 0 }
def badTow : Tow := { tow 0x04 1 0 0xFFFF 0 0 [] [] with body := [] }
def longTow : Tow := tow 0x01 1 0 0 0 0 [] (List.replicate 4097 0)
def gov (temps : List (Nat × Int)) (current : Nat) : GovIn := { temps := temps, power := 0, current := current, bladeA := 0, bladeB := 0, flow := 0, inlet := 0 }

theorem test_wf_site : [Instr.streamUnitComplete 72 0 0, .tokenWaitMet 72 .matrix, .engineCommandRetire 72 .vector, .syncTimeout 72 .sparse, .wtOpen 72 0, .wtClose 72 0, .wtDrain 72 0,
    .wtAbort 72 0, .windowWriteLanded 72 0, .xbarSet 72 true, .xbarWordRead 72, .xbarWordWrite 72 0, .stackOffline 72 .matrix, .remoteSignalArrival 72 0 0, .remoteSignalArrival 0 72 0].all
    (fun i => !WellFormed i) = true := by decide
theorem test_wf_reach : [Instr.shadowCommit 77 0, .shadowCommitEffect 77 0, .faultClear 77 0, .irqStatusClear 77 0 0, .counterReadClear 77 0 0, .timestampRead 77, .multicastAck 0 77 0,
    .lockWindowWrap 77 4, .arbiterGrant 77 4 { requests := 0 }, .arbiterGrant 76 4 { requests := 1, feeds := [(4, 0)] }, .arbiterWithdrawal 77 4, .linkRetry 77 0 0, .elasticSlip 77 0, .plannedOff 77 .heat, .clockLoss 77 0, .supplyTrip 77, .pllUnlock 77,
    .reachReturn 77, .keeperRestart 77 true, .heatRecovery 77, .junctionCutoff 77, .pldmSensorRead 77 0].all (fun i => !WellFormed i) = true := by decide
theorem test_wf_request : [Instr.imagePush badReq, .identityRead badReq, .tallyRead badReq, .reset badReq, .contextCreate badReq, .contextEnd badReq, .alloc badReq, .free badReq, .fabricMap badReq,
    .load badReq [], .jobRecord badReq, .shardRecord badReq, .restore badReq [], .moduleRing badReq].all (fun i => !WellFormed i) = true := by decide +kernel
theorem test_wf_tow : [badTow, longTow].all (fun m => [Instr.gradChunk m, .weightRequest m, .weightData m, .commitVote m, .commit m, .barrierMessage m, .pegMessage m, .mirrorWrite m, .parityWrite m,
    .replayRequest m, .digest m, .windowOpen m, .windowClose m].all (fun i => !WellFormed i)) = true := by decide +kernel
theorem test_wf_ranges : [Instr.selfCheck h [7] 0, .windowWrite 0 72 0 0 [1] 0 0 false, .windowWrite 0 0 0 0 [] 0 0 false, .windowRead 0 72 0 0 1 0 0, .windowRead 0 0 0 0 0 0 0, .hdmAccess 0 true [],
    .hdmAccess 63 true [1, 2], .backInvalidateResponse 0 [1], .msixUnmask { vector := some 65 }, .reductionCombine 0 7 0, .reductionCombine 0 0 64, .voteCast (List.range 73), .heatEpoch [(64, 0, 0)],
    .heatEpoch [(0, 2 ^ 27, 0)], .governorDecision (gov [(77, 0)] 0), .governorDecision (gov [(0, 32768)] 0), .governorDecision (gov [] 65536), .coolant 65536 0, .coolant 0 (-32769), .ready [72],
    .fabricLinkTrained 0 3 true true 0 0, .ideFail 5, .h0LinkUp 3 true true true, .stackScrub 144 [], .stackScrub 0 [{ page := 34332, line := 0, uncorrectable := false }],
    .stackScrub 0 [{ page := 0, line := 32768, uncorrectable := false }]].all (fun i => !WellFormed i) = true := by decide +kernel
theorem test_wf_accepts : [Instr.mov h so, .wtOpen 71 63, .faultClear 76 0, .windowWrite 0 71 0 0 [1] 0 0 false, .hdmAccess 63 true [1], .backInvalidateResponse 0 [], .msixUnmask { vector := some 64 }, .msixUnmask { vector := none, mask := true }, .coolant 65535 (-32768),
    .stackScrub 143 [{ page := 34331, line := 32767, uncorrectable := true }]].all WellFormed = true := by decide +kernel

/-! ### Single commands -/

/-- The state after a command. -/
def after (i : Instr) (s : State) : State := match exec i s with | .next t => t | _ => s
/-- The state after a native command that stands at HEAD. -/
def ran (i : Instr) (s : State) : State := after i (ring s i)
/-- Thread 0 with S1 and S2. -/
def two (a b : Dword) : State := args base [(1, a), (2, b)]
def reg3 (i : Instr) (s : State) : Dword := regOf (ownThread (ran i s) u) 3

-- Expected values worked out by hand from R165 and R570.
theorem test_add_wraps : reg3 (.add h so) (two 0xFFFFFFFFFFFFFFFF 2) = 1 := by decide +kernel
theorem test_sub_wraps : reg3 (.sub h so) (two 1 2) = 0xFFFFFFFFFFFFFFFF := by decide +kernel
theorem test_mul_low : reg3 (.mul h so) (two 0x8000000000000001 2) = 2 := by decide +kernel
theorem test_shl_by_65 : reg3 (.shl h so) (two 3 65) = 6 := by decide +kernel
theorem test_sra_sign : reg3 (.sra h so) (two 0x8000000000000000 63) = 0xFFFFFFFFFFFFFFFF := by decide +kernel
theorem test_shr_zero : reg3 (.shr h so) (two 0x8000000000000000 63) = 1 := by decide +kernel
theorem test_fadd_one : reg3 (.fadd h so) (two 0xFFFFFFFF3F800000 0x3F800000) = 0x40000000 := by decide +kernel
theorem test_fset_nan : reg3 (.fset h { so with cond := 6 }) (two 0x7FC00000 0x3F800000) = 0 := by decide +kernel
theorem test_set_signed : reg3 (.setCond h { so with cond := 2 }) (two 0xFFFFFFFFFFFFFFFF 0) = 1 := by decide +kernel
theorem test_set_unsigned : reg3 (.setCond h { so with cond := 4 }) (two 0xFFFFFFFFFFFFFFFF 0) = 0 := by decide +kernel
theorem test_fetch_moves_head : curPos (ran (.add h so) base) u = 1 ∧ regWord (ran (.add h so) base) 0 0x10 0x040 = 1 := by decide +kernel
-- R158: opcode 0x0000 is not defined.
theorem test_zero_ring_refused : inboxCodes (after (.add h so) base) = [0x0113] := by decide +kernel
/-- Thread 0 inside function 2 of the code object, whose one command is an ADD. -/
def inside : State :=
  { withThread (fun th => { th with code := some prog.handle, pc := 2 * 2 ^ 32 }) with
    ctxs := [(0, { ctx with loaded := some { prog with native := [(2, 0, bytesOf (.add h so))] } })] }
theorem test_code_object_runs : threadRuns inside u h = true ∧ atRingHead inside u (.add h so) = true ∧ atRingHead inside u (.sub h so) = false := by decide +kernel
theorem test_store_little_endian : memBytes (ran (.scalarStore h { so with imm := 8 }) (two 0x0102030405060708 0)).store.scratch 8 8 = [8, 7, 6, 5, 4, 3, 2, 1] := by decide +kernel
theorem test_load_misaligned : inboxCodes (ran (.scalarLoad h { so with imm := 4 }) base) = [0x0114] := by decide +kernel
theorem test_loop_zero : (ownThread (ran (.loop h { countSrc := 0x80, countImm := 0, body := 3 }) base) u).loops = [] ∧
    curPos (ran (.loop h { countSrc := 0x80, countImm := 0, body := 3 }) base) u = 4 := by decide +kernel
theorem test_call_keeps_next : (ownThread (ran (.call h 5) base) u).rets = [{ pc := 1, code := none, isEnter := false }] ∧ curPos (ran (.call h 5) base) u = 5 := by decide +kernel
theorem test_barrier_waits : (ownThread (ran (.barrier h) wide) u).waits = .collective := by decide +kernel
theorem test_release_frees : (ownThread (after (.barrierRelease 0 0) bothAt) u).waits = .none := by decide +kernel
theorem test_vadd : tGet 0 (accAt (coreAt (ran (.vadd (he 2) vo) (modCore base 0 (fun c => { c with accs := [(1, [(0, 0x3F800000)])] }))) 0) 0) 0 = 0x40000000 := by decide +kernel
theorem test_next_moves : memByte (ran (.nextUnit (he 3) 3) (withDesc { base with store := { base.store with stack := [(16 * 2 ^ 21 + 5, 9)] } } 1 0 (rowImage 0 4) [])).store.scratch (rowKey 0 16 + 5) = 9 := by
  decide +kernel
theorem test_doorbell_range : inboxCodes (after (.doorbellWrite 1 4 false 16) base) = [0x0104] ∧ (queueAt (after (.doorbellWrite 1 4 false 16) base) 1).map (·.tail) = some 2 := by decide +kernel
theorem test_doorbell_moves_tail : (queueAt (after (.doorbellWrite 1 4 false 15) base) 1).map (·.tail) = some 15 := by decide +kernel
theorem test_create : (queueAt (after (.qsCreate 9) (qsArgs base 4 0 1)) 9).map (·.thread) = some 1 := by decide +kernel
theorem test_destroy_unknown : qsResult (after (.qsDestroy 9) base) = 0x0114 := by decide +kernel
theorem test_window_opens : windowState (after (.wtOpen 0 63) (win base 0 0)) 0 63 = 1 := by decide +kernel
theorem test_window_refuses : windowStatus (after (.wtOpen 0 63) (win base 1 0)) 0 = 0x0506 := by decide +kernel
theorem test_irq_clears : regWord (after (.irqStatusClear 0 0x11 5) (setRegWord base 0 0x11 0x010 7)) 0 0x11 0x010 = 2 := by decide +kernel
theorem test_xbar_word : leNat (memBytes (after (.xbarWordWrite 3 0x11223344) (setRegWord base 3 0x17 0x040 1)).store.scratch (3 * 2 ^ 28) 4) = 0x11223344 := by decide +kernel
theorem test_hdm_reads : (after (.hdmAccess 0 false [0]) { hdmOn with store := { base.store with stack := [(16 * 2 ^ 21, 9)] } }).outbox = [.hostData (some (9 :: List.replicate 63 0))] := by decide +kernel
theorem test_pgtrigger : (after .pgTrigger (pegged 2 false)).pegs = [{ sources := 2, remote := none }] := by decide +kernel
theorem test_crc32_check : crc32 [0x31, 0x32, 0x33, 0x34, 0x35, 0x36, 0x37, 0x38, 0x39] = 0xCBF43926 := by decide +kernel
/-- The fold of CRC-32 with every intermediate value a numeral. -/
def crcForced : List Byte → Nat → Nat
  | [], c => c
  | b :: r, c => match (crcByte (BitVec.ofNat 32 c) b).toNat with
    | 0 => crcForced r 0
    | k + 1 => crcForced r (k + 1)
theorem crc_forced (bs : List Byte) (c : Nat) (h : c < 2 ^ 32) : bs.foldl crcByte (BitVec.ofNat 32 c) = BitVec.ofNat 32 (crcForced bs c) := by
  induction bs generalizing c with
  | nil => rfl
  | cons b r ih =>
    rw [List.foldl_cons]
    unfold crcForced
    have hb := (crcByte (BitVec.ofNat 32 c) b).isLt
    have hn : crcByte (BitVec.ofNat 32 c) b = BitVec.ofNat 32 (crcByte (BitVec.ofNat 32 c) b).toNat := BitVec.eq_of_toNat_eq (by rw [BitVec.toNat_ofNat, Nat.mod_eq_of_lt hb])
    split
    · rename_i h0; rw [h0] at hn; rw [hn]; exact ih 0 (by decide)
    · rename_i k hk; rw [hk] at hn; rw [hn]; exact ih (k + 1) (by omega)
/-- The module whose fuses the ROM reads after COLD_START from reset. -/
def fused : State :=
  let s := lostAll { State.reset with mgmt := { State.reset.mgmt with straps := 0 } }
  let s := bringUp { s with tally := { s.tally with powerOns := s.tally.powerOns + 1, writes := tAdd s.tally.writes 0 1 } } 76
  { s with tally := { s.tally with
    identity := ((List.range 8).map (fun i => leBytes 4 (fuseWord s (0x040 + 4 * i)).toNat)).flatten
    writes := tAdd s.tally.writes 0 1 } }
theorem test_fuse_crc : crc32 (fusedBytes fused) = fused.head.fuseCrc := by
  have h : (fusedBytes fused).foldl crcByte (BitVec.ofNat 32 0xFFFFFFFF) = BitVec.ofNat 32 (crcForced (fusedBytes fused) 0xFFFFFFFF) := crc_forced _ _ (by decide)
  have hf : crcForced (fusedBytes fused) 0xFFFFFFFF = 0xFFFFFFFF - 0xC4E7BE4B := by decide +kernel
  unfold crc32
  rw [show (0xFFFFFFFF : Word) = BitVec.ofNat 32 0xFFFFFFFF from rfl, h, hf]
  decide +kernel
theorem fused_good : fusesOk fused = true := by
  unfold fusesOk
  rw [test_fuse_crc]
  decide +kernel
/-- The ROM at work. -/
def started : State := setPhase (setFld fused 76 0x2C ⟨0x060, 0, 0⟩ 1) 1
theorem started_after : after (.coldStart 0) State.reset = started := by
  have h : exec (.coldStart 0) State.reset = .next (coldStart State.reset 0) := rfl
  unfold after
  rw [h]
  unfold coldStart
  rw [if_neg (by decide +kernel)]
  unfold startRom
  exact if_pos fused_good
theorem test_cold_start : bootPhase (after (.coldStart 0) State.reset) = 1 ∧ (after (.coldStart 0) State.reset).power.up = [76] := by rw [started_after]; decide +kernel
theorem test_image_refused : bootPhase (after .imageVerify (after (.coldStart 0) State.reset)) = 2 ∧ inboxCodes (after .imageVerify (after (.coldStart 0) State.reset)) = [0x0703] := by
  rw [started_after]; decide +kernel
theorem test_context_id : (after (.contextCreate (req (create 64))) base).head.response.drop 16 = leBytes 8 1 := by decide +kernel
theorem test_credit_keeps_largest : (portAt (after (.ringCreditWrite 0 3) (modPort (train 2 0 2) 0 (fun p => { p with credit := 5 }))) 0).credit = 5 := by decide +kernel
theorem test_votes_alone : commitState (after (.voteCast []) (voting 1)) = 1 ∧ activeGen (after (.voteCast []) (voting 1)) = 1 := by decide +kernel
theorem test_grant_highest : regWord (after (.arbiterGrant 0 4 { requests := 6 }) (setFld base 0 4 ⟨0x420, 1, 0⟩ 3)) 0 4 0x048 = 0x80000002 := by decide +kernel
theorem test_retry_eighth :
    let t := after (.linkRetry 1 0 255) { setFld base 1 0x03 ⟨0x044, 2, 0⟩ 1 with mesh := { base.mesh with retries := [(9, (255, 7))] } }
    linkState t 1 1 = 1 ∧ t.mesh.retries = [(9, (255, 8))] ∧ inboxCodes t = [0x0401] := by decide +kernel
theorem test_slip_trains : linkState (after (.elasticSlip 1 0) (setFld base 1 0x03 ⟨0x044, 2, 0⟩ 1)) 1 1 = 2 := by decide +kernel
theorem test_overcurrent : fld (after .overcurrent (setFld base 5 0x01 ⟨0x044, 4, 0⟩ 16)) 5 0x01 ⟨0x044, 4, 0⟩ = 8 := by decide +kernel
theorem test_record_numbered : (after .faultRecord (withHead base (fun x => { x with inbox := [{ fault1 4 with reach := 76 }], seq := 6 }))).tally.sticky.map (·.seq) = [7] := by decide +kernel
theorem test_idle_tick : (match step { base with pending := [] } with | .next t => decide (t.now = base.now + 1) | _ => false) = true := by decide +kernel
theorem test_front_runs : (match step { base with pending := [.overcurrent, .riskTick] } with | .next t => decide (t.pending = [.riskTick]) | _ => false) = true := by decide +kernel
/-- A module with one function: vs5 = −1 + 4, vs6 = the sum of vs5 over the cores, vs7 = vs6 · vs5, END. -/
def kwFile : List Byte :=
  let kw := fun (op dst a b : Nat) => leBytes 8 op ++ leBytes 2 dst ++ leBytes 2 a ++ leBytes 2 b ++ leBytes 2 0
  let code := kw 0x51 (0x4005) (0x9FFF) (0x8004) ++ kw 0x71 (0x4006) (0x4005) 0 ++ kw 0x53 (0x4007) (0x4006) (0x4005) ++ kw 0x68 0 0 0
  leBytes 8 0 ++ leBytes 4 2 ++ leBytes 52 0 ++ leBytes 4 2 ++ leBytes 4 16 ++ leBytes 8 96 ++ leBytes 4 1 ++ leBytes 4 64 ++ leBytes 8 112 ++
    (leBytes 4 0 ++ leBytes 4 4 ++ leBytes 8 0) ++ code
theorem test_kweus_runs : ((kwResults kwFile base 0 0 9 3).map (fun w => w.cores.map (fun k => (tGet 0 k.scalars 5, tGet 0 k.scalars 6, tGet 0 k.scalars 7)))) = some [(3, 3, 9)] := by decide +kernel
theorem test_kweus_mark : kwMark kwFile 0 2 = 0x80000002 := by decide +kernel
theorem test_no_words : decodeTableWord 512 0x1234 = none ∧ (State.withFetchWord base 512 0x1234).pending = [] := by decide +kernel

end Sys2Proof.Tests
end

section
/-!
SUPPORT. Register pages under writes: the words an update of one page can change (WordsBut, OnlyWords), fields read back, shadows and
captured sets, and the page that a BAR0 address reaches.
-/
namespace Sys2Proof.Machine

/-! ### What an update of one page leaves as it was -/

section
variable {s t v : State} {r p o : Nat} {os os' : List Nat}

theorem WordsBut.refl (s : State) (r p : Nat) (os : List Nat) : WordsBut s s r p os := ⟨rfl, rfl, fun _ _ _ _ _ _ => rfl⟩

theorem WordsBut.trans (h : WordsBut s t r p os) (k : WordsBut t v r p os) : WordsBut s v r p os :=
  ⟨k.1.trans h.1, k.2.1.trans h.2.1, fun r' p' o' hp ho hn => (k.2.2 r' p' o' hp ho hn).trans (h.2.2 r' p' o' hp ho hn)⟩

theorem WordsBut.mono (h : WordsBut s t r p os) (hs : ∀ o ∈ os, o ∈ os') : WordsBut s t r p os' :=
  ⟨h.1, h.2.1, fun r' p' o' hp ho hn => h.2.2 r' p' o' hp ho (fun e => hn ⟨e.1, e.2.1, hs _ e.2.2⟩)⟩

/-- A word of the page whose offset is not listed. -/
theorem WordsBut.word (h : WordsBut s t r p os) (hp : p < 64) (ho : o < 4096) (hn : o ∉ os) : regWord t r p o = regWord s r p o :=
  h.2.2 r p o hp ho (fun e => hn e.2.2)

theorem wordsBut_of_pages (h : t.pages = s.pages) : WordsBut s t r p os :=
  ⟨by rw [h], by rw [h], fun r' p' o' _ _ _ => regWord_congr h r' p' o'⟩

theorem wordsBut_setRegWord (s : State) (r : Nat) (w : Word) (hp : p < 64) (ho : o < 4096) (hm : o ∈ os) : WordsBut s (setRegWord s r p o w) r p os :=
  ⟨rfl, rfl, fun _ _ _ hp' ho' hn => regWord_setRegWord_ne s w hp ho hp' ho' (by rintro ⟨rfl, rfl, rfl⟩; exact hn ⟨rfl, rfl, hm⟩)⟩

theorem wordsBut_setFld (s : State) (r : Nat) (f : Fld) (n : Nat) (hp : p < 64) (ho : f.off < 4096) (hm : f.off ∈ os) : WordsBut s (setFld s r p f n) r p os :=
  wordsBut_setRegWord s r _ hp ho hm

theorem wordsBut_bump (s : State) (r : Nat) (f : Fld) (n : Nat) (hp : p < 64) (ho : f.off < 4096) (hm : f.off ∈ os) : WordsBut s (bump s r p f n) r p os :=
  wordsBut_setFld s r f _ hp ho hm

theorem wordsBut_foldl {α : Type} (f : State → α → State) (l : List α) (h : ∀ s, ∀ x ∈ l, WordsBut s (f s x) r p os) (s : State) :
    WordsBut s (l.foldl f s) r p os := by
  induction l generalizing s with
  | nil => exact WordsBut.refl s r p os
  | cons x l ih => exact (h s x List.mem_cons_self).trans (ih (fun s y hy => h s y (List.mem_cons_of_mem _ hy)) _)

end

/-! ### Fields -/

/-- A field reads what was put into it, as far as it is wide. -/
theorem bitsOf_withField (w : Word) {hi lo : Nat} (v : Nat) (hl : lo ≤ hi) (hh : hi < 32) :
    bitsOf (withField w hi lo v).toNat hi lo = v % 2 ^ (hi + 1 - lo) := by
  unfold bitsOf withField
  have hw : 2 ^ 32 = 2 ^ lo * (2 ^ (hi + 1 - lo) * 2 ^ (31 - hi)) := by
    rw [← Nat.pow_add, ← Nat.pow_add]; congr 1; omega
  have hspan : 0 < 2 ^ (hi + 1 - lo) := Nat.two_pow_pos _
  have hlow : 0 < 2 ^ lo := Nat.two_pow_pos _
  rw [BitVec.toNat_ofNat, hw, Nat.mod_mul_right_div_self, Nat.mod_mul_right_mod]
  generalize 2 ^ (hi + 1 - lo) = span at *
  generalize 2 ^ lo = low at *
  have hrest : w.toNat - w.toNat / low % span * low = w.toNat % low + w.toNat / low / span * span * low := by
    have h1 := Nat.div_add_mod w.toNat low
    have h2 := Nat.div_add_mod (w.toNat / low) span
    have h3 : (w.toNat / low / span * span + w.toNat / low % span) * low = w.toNat / low * low := by rw [Nat.mul_comm _ span, h2]
    rw [Nat.add_mul] at h3
    rw [Nat.mul_comm low] at h1
    omega
  rw [hrest, Nat.add_assoc, ← Nat.add_mul, Nat.add_mul_div_right _ _ hlow, Nat.div_eq_of_lt (Nat.mod_lt _ hlow), Nat.zero_add, Nat.mul_add_mod_self_right,
    Nat.mod_mod]

theorem fld_setFld_same (s : State) {r p : Nat} (f : Fld) (v : Nat) (hp : p < 64) (ho : f.off < 4096) (hl : f.lo ≤ f.hi) (hh : f.hi < 32) :
    fld (setFld s r p f v) r p f = v % 2 ^ (f.hi + 1 - f.lo) := by
  unfold fld
  rw [regWord_setFld s f v hp ho hp ho, if_pos ⟨rfl, rfl, rfl⟩]
  exact bitsOf_withField _ v hl hh

theorem fld_congr {s t : State} {r p : Nat} {f : Fld} (h : regWord t r p f.off = regWord s r p f.off) : fld t r p f = fld s r p f := by
  unfold fld; rw [h]

/-! ### Shadows and captured sets -/

theorem shadowWord_setShadowWord (s : State) {r p o r' p' o' : Nat} (w : Word) (hp : p < 64) (ho : o < 4096) (hp' : p' < 64) (ho' : o' < 4096) :
    shadowWord (setShadowWord s r p o w) r' p' o' = if r = r' ∧ p = p' ∧ o = o' then w else shadowWord s r' p' o' := by
  have h := tGet_tPut (resetWord r' p' o') s.pages.shadow (pageKey r p o) (pageKey r' p' o') w
  have hk : pageKey r' p' o' = pageKey r p o ↔ r = r' ∧ p = p' ∧ o = o' := eq_comm.trans (pageKey_inj hp ho hp' ho')
  unfold shadowWord setShadowWord
  by_cases e : r = r' ∧ p = p' ∧ o = o'
  · obtain ⟨rfl, rfl, rfl⟩ := e
    simpa [tGet] using h
  · rw [if_neg e]
    simp only [tPut]
    split
    · rw [tFind_tDel, if_neg (fun c => e (hk.mp c))]
    · rw [tFind_tIns, if_neg (fun c => e (hk.mp c))]

/-- A word that is set only where c fails, to the value it has where c holds. -/
theorem regWord_setRegWord_unless (s : State) {r p o r' p' o' : Nat} {w : Word} {c : Prop} [Decidable c] (h : c → w = regWord s r p o)
    (hp : p < 64) (ho : o < 4096) (hp' : p' < 64) (ho' : o' < 4096) :
    regWord (if c then s else setRegWord s r p o w) r' p' o' = if r = r' ∧ p = p' ∧ o = o' then w else regWord s r' p' o' := by
  split
  · rename_i hc
    split
    · rename_i e; obtain ⟨rfl, rfl, rfl⟩ := e; exact (h hc).symm
    · rfl
  · exact regWord_setRegWord s w hp ho hp' ho'

/-- A shadow word that is set only where c fails, to the value it has where c holds. -/
theorem shadowWord_setShadowWord_unless (s : State) {r p o r' p' o' : Nat} {w : Word} {c : Prop} [Decidable c] (h : c → w = shadowWord s r p o)
    (hp : p < 64) (ho : o < 4096) (hp' : p' < 64) (ho' : o' < 4096) :
    shadowWord (if c then s else setShadowWord s r p o w) r' p' o' = if r = r' ∧ p = p' ∧ o = o' then w else shadowWord s r' p' o' := by
  split
  · rename_i hc
    split
    · rename_i e; obtain ⟨rfl, rfl, rfl⟩ := e; exact (h hc).symm
    · rfl
  · exact shadowWord_setShadowWord s w hp ho hp' ho'

@[simp] theorem regWord_capture (s : State) (k : Nat) (set : Tab Word) (r p o : Nat) : regWord (capture s k set) r p o = regWord s r p o := rfl

theorem capturedSet_congr {s t : State} (h : t.pages.captured = s.pages.captured) (k : Nat) : capturedSet t k = capturedSet s k := by
  unfold capturedSet; rw [h]

theorem capturedSet_uncapture (s : State) (k j : Nat) : capturedSet (uncapture s k) j = if j = k then none else capturedSet s j := by
  unfold capturedSet uncapture
  rw [List.find?_filter]
  split
  · subst j
    rw [List.find?_eq_none.mpr (by simp)]; rfl
  · rename_i h
    congr 2
    funext x
    by_cases e : x.1 = j <;> simp [e, h]

theorem capturedSet_capture (s : State) (k : Nat) (set : Tab Word) (j : Nat) :
    capturedSet (capture s k set) j = if j = k then some set else capturedSet s j := by
  have h := capturedSet_uncapture s k j
  unfold capturedSet uncapture at h
  unfold capturedSet capture
  rw [List.find?_append, Option.map_or, h]
  split
  · subst j; simp
  · rename_i e
    rw [List.find?_cons_of_neg (by simpa using Ne.symm e)]; simp

/-! ### Where an access lands -/

theorem barAddr_toNat {r p o : Nat} (hr : r ≤ 77) (hp : p < 64) (ho : o < 4096) :
    (barAddr r p o).toNat = if r = headPage then o else 0x1000000 + r * 0x40000 + p * 0x1000 + o := by
  unfold barAddr
  split
  · rw [BitVec.toNat_ofNat, Nat.mod_eq_of_lt (by omega)]
  · rename_i h
    unfold headPage at h
    rw [BitVec.toNat_ofNat, Nat.mod_eq_of_lt (by omega)]

/-- The address of a word of a page that exists leads back to it (R510). -/
theorem barPlace_barAddr {r p o : Nat} (hr : r ≤ 77) (hp : p < 64) (ho : o < 4096) (hh : r = headPage → p = 0) :
    barPlace (barAddr r p o).toNat = some (r, p, o) := by
  rw [barAddr_toNat hr hp ho]
  unfold barPlace
  split
  · rename_i h; rw [h, hh h]
  · rename_i h
    unfold headPage at h
    rw [if_neg (by omega), if_neg (by omega)]
    congr 2
    · omega
    · congr 1 <;> omega

theorem hostWrite_of_down {s : State} (h : s.hdm.h0Up = false) (r p : Nat) (f : State → State) : hostWrite s r p f = s := by
  unfold hostWrite; simp [h]

theorem hostWrite_of_hostCan {s : State} {r p : Nat} (h : hostCan s r p = true) (f : State → State) : hostWrite s r p f = f s := by
  simp only [hostCan, Bool.and_eq_true, decide_eq_true_eq] at h
  obtain ⟨⟨⟨hup, hr⟩, ha⟩, hb⟩ := h
  unfold hostWrite
  simp [hup, ha, hb, Nat.not_lt.mpr hr]

/-- A write that has reached its page reaches it once. -/
theorem hostWrite_hostWrite (s : State) (r p : Nat) (f : State → State) : hostWrite s r p (fun s => hostWrite s r p f) = hostWrite s r p f := by
  unfold hostWrite
  dsimp only
  by_cases hd : 77 < r ∨ (!s.hdm.h0Up) = true
  · rw [if_pos hd, if_pos hd]
  · rw [if_neg hd, if_neg hd]
    by_cases ha : (!answers s r) = true
    · rw [if_pos ha, if_pos ha]
    · rw [if_neg ha, if_neg ha]
      by_cases hb : (!blockPresent s r p) = true
      · rw [if_pos hb, if_pos hb]
      · rw [if_neg hb, if_neg hb]

/-- A host access that is answered reaches a page that stands in the map (R511, R514). -/
theorem blockOf_of_hostCan {s : State} {r p : Nat} (h : hostCan s r p = true) : ∃ b, blockOf r p = some b := by
  simp only [hostCan, Bool.and_eq_true] at h
  refine Option.isSome_iff_exists.mp ?_
  have hb := h.2
  unfold blockPresent at hb
  split at hb
  · rename_i hc
    obtain ⟨hr, h1, h2⟩ := hc
    unfold blockOf headPage
    rw [if_neg (by omega), if_neg (by omega)]
    have hp : p = 0x10 ∨ p = 0x11 ∨ p = 0x12 ∨ p = 0x13 ∨ p = 0x14 ∨ p = 0x15 ∨ p = 0x16 ∨ p = 0x17 ∨ p = 0x18 := by omega
    rcases hp with rfl | rfl | rfl | rfl | rfl | rfl | rfl | rfl | rfl <;> simp only [if_pos hr, Option.isSome_some]
  · split at hb
    · rename_i hc
      obtain ⟨hr, h1, h2⟩ := hc
      have hp : p = 0x20 ∨ p = 0x21 ∨ p = 0x22 ∨ p = 0x23 ∨ p = 0x24 := by omega
      rcases hr with rfl | rfl <;> rcases hp with rfl | rfl | rfl | rfl | rfl <;> rfl
    · exact hb

theorem le_of_hostCan {s : State} {r p : Nat} (h : hostCan s r p = true) : r ≤ 77 := by
  simp only [hostCan, Bool.and_eq_true, decide_eq_true_eq] at h; exact h.1.1.2

/-- The head page is the only page of its reach. -/
theorem blockOf_headPage {p : Nat} {b : Block} (h : blockOf headPage p = some b) : p = 0 := by
  unfold blockOf at h
  rw [if_pos rfl] at h
  split at h
  · assumption
  · cases h

end Sys2Proof.Machine
end

section
/-!
SUPPORT. REGISTER_WRITE (R510 to R515, R520): what a write does to the fields of a word, and the registers that do what a row does.
-/
namespace Sys2Proof.Machine

/-! ### A write to fields (R11, R12, R520) -/

/-- The bits of a word under a mask replaced by those of another. -/
def mergeBits (w m x : Word) : Word := (w &&& ~~~m) ||| (x &&& m)

theorem mergeBits_zero (w x : Word) : mergeBits w 0#32 x = w := by
  unfold mergeBits; rw [BitVec.not_zero, BitVec.and_allOnes, BitVec.and_zero, BitVec.or_zero]

theorem mergeBits_self (w m : Word) : mergeBits w m w = w := by
  unfold mergeBits; ext i hi; simp; grind

theorem mergeBits_idem (w m x : Word) : mergeBits (mergeBits w m x) m x = mergeBits w m x := by
  unfold mergeBits; ext i hi; simp; grind

/-- The word in force after a write to its fields (R11). -/
def writtenWord (s : State) (r p o : Nat) (v : Word) : Word :=
  mergeBits (regWord s r p o) (accMask (rowsAt r p o) .rw) v &&& ~~~(v &&& accMask (rowsAt r p o) .w1c)

/-- The shadow word after a write to its fields (R520). -/
def writtenShadow (s : State) (r p o : Nat) (v : Word) : Word := mergeBits (shadowWord s r p o) (accMask (rowsAt r p o) .rws) v

section
variable (s : State) {r p o r' p' o' : Nat} (v : Word)

theorem writtenWord_of_no_field (h : accMask (rowsAt r p o) .rw ||| accMask (rowsAt r p o) .w1c = 0) : writtenWord s r p o v = regWord s r p o := by
  obtain ⟨h1, h2⟩ := BitVec.or_eq_zero_iff.mp h
  unfold writtenWord
  rw [h1, h2, mergeBits_zero, BitVec.and_zero, BitVec.not_zero, BitVec.and_allOnes]

theorem writtenShadow_of_no_field (h : accMask (rowsAt r p o) .rws = 0) : writtenShadow s r p o v = shadowWord s r p o := by
  unfold writtenShadow; rw [show accMask (rowsAt r p o) .rws = 0#32 from h, mergeBits_zero]

theorem regWord_writeFields (hp : p < 64) (ho : o < 4096) (hp' : p' < 64) (ho' : o' < 4096) :
    regWord (writeFields s r p o v) r' p' o' = if r = r' ∧ p = p' ∧ o = o' then writtenWord s r p o v else regWord s r' p' o' := by
  rw [← regWord_setRegWord_unless s (writtenWord_of_no_field s v) hp ho hp' ho']
  unfold writeFields; dsimp only; split <;> rfl

theorem shadowWord_writeFields (hp : p < 64) (ho : o < 4096) (hp' : p' < 64) (ho' : o' < 4096) :
    shadowWord (writeFields s r p o v) r' p' o' = if r = r' ∧ p = p' ∧ o = o' then writtenShadow s r p o v else shadowWord s r' p' o' := by
  rw [← shadowWord_setShadowWord_unless s (writtenShadow_of_no_field s v) hp ho hp' ho']
  unfold writeFields; dsimp only; split <;> split <;> rfl

theorem writeFields_pages : writeFields s r p o v = { s with pages := (writeFields s r p o v).pages } := by
  unfold writeFields; dsimp only; split <;> split <;> rfl

theorem writeFields_captured : (writeFields s r p o v).pages.captured = s.pages.captured := by
  unfold writeFields; dsimp only; split <;> split <;> rfl

/-- On a page whose registers have no rule of their own a write goes to the fields of its word. -/
theorem writeBlock_of_plain {b : Block} (hb : blockOf r p = some b) (hplain : plainBlock b = true) (ho : o ∉ [0x010, 0x014, 0x018, 0x024]) :
    writeBlock s r p o v = writeFields s r p o v := by
  simp only [List.mem_cons, List.not_mem_nil, or_false, not_or] at ho
  obtain ⟨h10, h14, h18, h24⟩ := ho
  unfold writeBlock writePlain
  rw [if_neg h10, if_neg h18, if_neg h24, hb]
  cases b <;> simp [plainBlock, h14] at hplain ⊢

end

/-! ### REGISTER_WRITE -/

theorem writeWord_of_down {s : State} (h : s.hdm.h0Up = false) (a : Nat) (v : Word) : writeWord s a v = s := by
  unfold writeWord
  split
  · exact hostWrite_of_down h ..
  · simp [h]

/-- A 4-byte write (R512). -/
theorem registerWrite_word (s : State) {a : Nat} (v : Dword) (ha : a % 4 = 0) : registerWrite s a 4 v = writeWord s a (v.setWidth 32) := by
  unfold registerWrite
  cases h : s.hdm.h0Up
  · exact (writeWord_of_down h ..).symm
  · rw [if_neg (by simp), if_pos ⟨rfl, ha⟩]

theorem exec_registerWrite_word (s : State) {a : BitVec 26} (v : Dword) (ha : a.toNat % 4 = 0) :
    exec (.registerWrite a 4 v) s = .next (writeWord s a.toNat (v.setWidth 32)) := congrArg Host.Outcome.next (registerWrite_word s v ha)

/-- A 4-byte write to a word of a page. -/
theorem exec_registerWrite_barAddr (s : State) {r p o : Nat} (v : Dword) (hr : r ≤ 77) (hp : p < 64) (ho : o < 4096) (h4 : o % 4 = 0) (hh : r = headPage → p = 0) :
    exec (.registerWrite (barAddr r p o) 4 v) s = .next (hostWrite s r p (fun s => writeBlock s r p o (v.setWidth 32))) := by
  have ha : (barAddr r p o).toNat % 4 = 0 := by rw [barAddr_toNat hr hp ho]; split <;> omega
  rw [exec_registerWrite_word s v ha, writeWord, barPlace_barAddr hr hp ho hh]

/-- An aligned 8-byte write: two 4-byte writes, the lower address first (R512). -/
theorem exec_registerWrite_pair {s : State} (hup : s.hdm.h0Up = true) {a : BitVec 26} (v : Dword) (ha : a.toNat % 8 = 0) :
    exec (.registerWrite a 8 v) s = .next (writeWord (writeWord s a.toNat (v.setWidth 32)) (a.toNat + 4) ((v >>> (32 : Nat)).setWidth 32)) := by
  refine congrArg Host.Outcome.next ?_
  unfold registerWrite
  rw [hup, if_neg (by simp), if_neg (by simp), if_pos ⟨rfl, ha⟩]

/-- Any other access (R512). -/
theorem exec_registerWrite_unsupported {s : State} (hup : s.hdm.h0Up = true) {a : BitVec 26} {size : Byte} (v : Dword)
    (h4 : ¬(size = 4 ∧ a.toNat % 4 = 0)) (h8 : ¬(size = 8 ∧ a.toNat % 8 = 0)) : exec (.registerWrite a size v) s = .next (emit s .unsupported) := by
  have hs : ∀ n : Byte, size.toNat = n.toNat → size = n := fun n => BitVec.eq_of_toNat_eq
  refine congrArg Host.Outcome.next ?_
  unfold registerWrite
  rw [hup, if_neg (by simp), if_neg (fun h => h4 ⟨hs 4 h.1, h.2⟩), if_neg (fun h => h8 ⟨hs 8 h.1, h.2⟩)]

/-! ### Registers that are rows -/

/-- A register write that is a row of its own does what the row does in s. -/
def DoesRow (s : State) (x : Nat × Nat × Nat × Nat × Instr) : Prop :=
  exec (.registerWrite (barAddr x.1 x.2.1 x.2.2.1) 4 (BitVec.ofNat 64 x.2.2.2.1)) s = exec x.2.2.2.2 s

/-- A row that is a host's write to a page, where the write of the row's value to its register does the same there. -/
theorem doesRow_of_writeBlock {s : State} {r p o n : Nat} {i : Instr} {f : State → State} (hr : r < 77) (hp : p < 64) (ho : o < 4096) (h4 : o % 4 = 0)
    (hi : exec i s = .next (hostWrite s r p f)) (hn : ∀ s, writeBlock s r p o (BitVec.ofNat 32 n) = f s) : DoesRow s (writeOf r p o n i) := by
  have hv : (BitVec.ofNat 64 n).setWidth 32 = BitVec.ofNat 32 n := by apply BitVec.eq_of_toNat_eq; simp
  unfold DoesRow writeOf
  rw [exec_registerWrite_barAddr s _ (by omega) hp ho h4 (fun h => absurd h (by unfold headPage; omega)), hi, hv, funext hn]

theorem headerRows_doRows (s : State) (r : BitVec 7) (p : BitVec 6) (v : Word) (hr : r.toNat < 77) :
    ∀ x ∈ [writeOf r.toNat p.toNat 0x010 v.toNat (.irqStatusClear r p v), writeOf r.toNat p.toNat 0x018 (2 ^ 31) (.faultClear r p),
      writeOf r.toNat p.toNat 0x024 1 (.shadowCommit r p)], DoesRow s x := by
  have hw : BitVec.ofNat 32 v.toNat = v := by rw [BitVec.ofNat_toNat, BitVec.setWidth_eq]
  simp only [List.forall_mem_cons, List.not_mem_nil, false_imp_iff, implies_true, and_true]
  refine ⟨doesRow_of_writeBlock hr p.isLt (by decide) rfl rfl fun s => ?_, doesRow_of_writeBlock hr p.isLt (by decide) rfl rfl fun s => ?_,
    doesRow_of_writeBlock hr p.isLt (by decide) rfl rfl fun s => ?_⟩
  · rw [hw]; rfl
  · show (if bitOf (BitVec.ofNat 32 (2 ^ 31)).toNat 31 = true then clearFault s r.toNat p.toNat else s) = clearFault s r.toNat p.toNat
    rw [if_pos (by decide)]
  · show (if bitOf (BitVec.ofNat 32 1).toNat 0 = true then commitShadows s r.toNat p.toNat else s) = commitShadows s r.toNat p.toNat
    rw [if_pos (by decide)]

/-- A queue operation begins with its own access to the scheduler page. -/
theorem hostWrite_qsRun (s : State) (q : Nat) (f : State → Except Nat State) : hostWrite s 76 0x28 (fun s => qsRun s q f) = qsRun s q f :=
  hostWrite_hostWrite s 76 0x28 _

theorem writeBlock_queueOp (s : State) (v : Word) : writeBlock s 76 0x28 0x040 v =
    match v.toNat / 2 ^ 28 with
    | 1 => qsRun s (v.toNat % 2 ^ 20) (fun s => createQueue s (v.toNat % 2 ^ 20))
    | 2 => qsRun s (v.toNat % 2 ^ 20) (fun s => restartQueue s (v.toNat % 2 ^ 20))
    | 3 => qsRun s (v.toNat % 2 ^ 20) (fun s => disableQueue s (v.toNat % 2 ^ 20))
    | 4 => qsRun s (v.toNat % 2 ^ 20) (fun s => enableQueue s (v.toNat % 2 ^ 20))
    | 5 => qsRun s (v.toNat % 2 ^ 20) (fun s => destroyQueue s (v.toNat % 2 ^ 20))
    | _ => s := rfl

/-- The operation and the queue of a value for QS_CMD (R529). -/
theorem queueOp_parts {k q : Nat} (hk : k < 16) (hq : q < 2 ^ 20) :
    (BitVec.ofNat 32 (k * 2 ^ 28 + q)).toNat / 2 ^ 28 = k ∧ (BitVec.ofNat 32 (k * 2 ^ 28 + q)).toNat % 2 ^ 20 = q := by
  rw [BitVec.toNat_ofNat]; omega

theorem queueRows_doRows (s : State) (q : BitVec 20) :
    ∀ x ∈ [writeOf 76 0x28 0x040 (1 * 2 ^ 28 + q.toNat) (.qsCreate q), writeOf 76 0x28 0x040 (2 * 2 ^ 28 + q.toNat) (.qsRestart q),
      writeOf 76 0x28 0x040 (3 * 2 ^ 28 + q.toNat) (.qsDisable q), writeOf 76 0x28 0x040 (4 * 2 ^ 28 + q.toNat) (.qsEnable q),
      writeOf 76 0x28 0x040 (5 * 2 ^ 28 + q.toNat) (.qsDestroy q), writeOf 76 0x28 0x06C q.toNat (.qsPeek q)], DoesRow s x := by
  have hop : ∀ (k : Nat) (i : Instr) (f : State → Except Nat State), k < 16 → exec i s = .next (qsRun s q.toNat f) →
      (∀ s, ∀ v : Word, v.toNat / 2 ^ 28 = k → v.toNat % 2 ^ 20 = q.toNat → writeBlock s 76 0x28 0x040 v = qsRun s q.toNat f) →
      DoesRow s (writeOf 76 0x28 0x040 (k * 2 ^ 28 + q.toNat) i) := fun k i f hk hi hn =>
    doesRow_of_writeBlock (by decide) (by decide) (by decide) rfl (hi.trans (congrArg _ (hostWrite_qsRun s q.toNat f).symm))
      fun s => hn s _ (queueOp_parts hk q.isLt).1 (queueOp_parts hk q.isLt).2
  simp only [List.forall_mem_cons, List.not_mem_nil, false_imp_iff, implies_true, and_true]
  refine ⟨hop 1 _ _ (by decide) rfl ?_, hop 2 _ _ (by decide) rfl ?_, hop 3 _ _ (by decide) rfl ?_, hop 4 _ _ (by decide) rfl ?_, hop 5 _ _ (by decide) rfl ?_,
    doesRow_of_writeBlock (by decide) (by decide) (by decide) rfl rfl ?_⟩
  iterate 5 exact fun s v hk hq => by simp only [writeBlock_queueOp, hk, hq]
  intro s
  have hn : (BitVec.ofNat 32 q.toNat).toNat % 2 ^ 20 = q.toNat := by rw [BitVec.toNat_ofNat]; omega
  show peekQueue s ((BitVec.ofNat 32 q.toNat).toNat % 2 ^ 20) = peekQueue s q.toNat
  rw [hn]

theorem commitPageRows_doRows (s : State) :
    ∀ x ∈ [writeOf 76 0x29 0x040 1 .stepArm, writeOf 76 0x29 0x040 2 .stepDisarm, writeOf 76 0x29 0x054 (2 ^ 30) .resolveCommit, writeOf 76 0x29 0x058 1 .prime,
      writeOf 76 0x29 0x064 1 (.secureStart false), writeOf 76 0x29 0x064 3 (.secureStart true), writeOf 76 0x29 0x068 1 .secureSeal], DoesRow s x := by
  have hrow : ∀ (o n : Nat) (i : Instr) (f : State → State), o < 4096 → o % 4 = 0 → exec i s = .next (hostWrite s 76 0x29 f) →
      (∀ s, writeBlock s 76 0x29 o (BitVec.ofNat 32 n) = f s) → DoesRow s (writeOf 76 0x29 o n i) := fun o n i f ho h4 hi hn =>
    doesRow_of_writeBlock (by decide) (by decide) ho h4 hi hn
  simp only [List.forall_mem_cons, List.not_mem_nil, false_imp_iff, implies_true, and_true]
  refine ⟨hrow _ _ _ _ (by decide) rfl rfl fun s => rfl, hrow _ _ _ _ (by decide) rfl rfl fun s => rfl, hrow _ _ _ _ (by decide) rfl rfl fun s => rfl,
    hrow _ _ _ _ (by decide) rfl rfl fun s => rfl, hrow _ _ _ _ (by decide) rfl rfl fun s => rfl, hrow _ _ _ _ (by decide) rfl rfl fun s => rfl,
    hrow _ _ _ _ (by decide) rfl rfl fun s => rfl⟩

theorem writeBlock_windowOp (s : State) {r : Nat} (v : Word) (hr : r < 72) : writeBlock s r 0x18 0x040 v =
    match v.toNat / 64 % 4 with
    | 0 => openWindow s r (v.toNat % 64)
    | 1 => closingWindow s r (v.toNat % 64)
    | 2 => drainCmd s r (v.toNat % 64)
    | _ => abortCmd s r (v.toNat % 64) := by
  have hb : blockOf r 0x18 = some .wt := by unfold blockOf headPage; rw [if_neg (by omega), if_neg (by omega)]; exact if_pos hr
  unfold writeBlock
  rw [hb]; rfl

theorem windowRows_doRows (s : State) (r : BitVec 7) (w : BitVec 6) (hr : r.toNat < 72) :
    ∀ x ∈ [writeOf r.toNat 0x18 0x040 w.toNat (.wtOpen r w), writeOf r.toNat 0x18 0x040 (64 + w.toNat) (.wtClose r w),
      writeOf r.toNat 0x18 0x040 (128 + w.toNat) (.wtDrain r w), writeOf r.toNat 0x18 0x040 (192 + w.toNat) (.wtAbort r w)], DoesRow s x := by
  have hop : ∀ (k n : Nat) (i : Instr) (f : State → State), n = 64 * k + w.toNat → k < 4 → exec i s = .next (hostWrite s r.toNat 0x18 f) →
      (∀ s, ∀ v : Word, v.toNat / 64 % 4 = k → v.toNat % 64 = w.toNat → writeBlock s r.toNat 0x18 0x040 v = f s) →
      DoesRow s (writeOf r.toNat 0x18 0x040 n i) := fun k n i f hk hk4 hi hn => by
    have hlt := w.isLt
    exact doesRow_of_writeBlock (by omega) (by decide) (by decide) rfl hi fun s => hn s _ (by rw [BitVec.toNat_ofNat]; omega) (by rw [BitVec.toNat_ofNat]; omega)
  simp only [List.forall_mem_cons, List.not_mem_nil, false_imp_iff, implies_true, and_true]
  refine ⟨hop 0 _ _ _ (by omega) (by decide) rfl ?_, hop 1 _ _ _ rfl (by decide) rfl ?_, hop 2 _ _ _ rfl (by decide) rfl ?_, hop 3 _ _ _ rfl (by decide) rfl ?_⟩
  iterate 4 exact fun s v hk hw => by simp only [writeBlock_windowOp s v hr, hk, hw]

theorem writeBlock_crossbar (s : State) {r : Nat} (v : Word) (hr : r < 72) :
    writeBlock s r 0x17 0x040 v = setXbar s r (bitOf v.toNat 0) ∧ writeBlock s r 0x17 0x04C v = xbarWrite s r v := by
  have hb : blockOf r 0x17 = some .sp := by unfold blockOf headPage; rw [if_neg (by omega), if_neg (by omega)]; exact if_pos hr
  unfold writeBlock
  rw [hb]; exact ⟨rfl, rfl⟩

theorem crossbarRows_doRows (s : State) (r : BitVec 7) (v : Word) (hr : r.toNat < 72) :
    ∀ x ∈ [writeOf r.toNat 0x17 0x040 1 (.xbarSet r true), writeOf r.toNat 0x17 0x040 0 (.xbarSet r false),
      writeOf r.toNat 0x17 0x04C v.toNat (.xbarWordWrite r v)], DoesRow s x := by
  have hv : BitVec.ofNat 32 v.toNat = v := by rw [BitVec.ofNat_toNat, BitVec.setWidth_eq]
  simp only [List.forall_mem_cons, List.not_mem_nil, false_imp_iff, implies_true, and_true]
  refine ⟨doesRow_of_writeBlock (by omega) (by decide) (by decide) rfl rfl fun s => (writeBlock_crossbar s _ hr).1,
    doesRow_of_writeBlock (by omega) (by decide) (by decide) rfl rfl fun s => (writeBlock_crossbar s _ hr).1,
    doesRow_of_writeBlock (by omega) (by decide) (by decide) rfl rfl fun s => ?_⟩
  rw [hv]; exact (writeBlock_crossbar s v hr).2

/-- Every register write that is a row does what the row does (R282, R519, R521, R525, R529, R535). -/
theorem rowWrites_doRows (s : State) (r : BitVec 7) (p : BitVec 6) (q : BitVec 20) (w : BitVec 6) (v : Word) (hr : r.toNat < 77) :
    ∀ x ∈ rowWrites r p q w v, DoesRow s x := by
  unfold rowWrites
  refine List.forall_mem_append.mpr ⟨List.forall_mem_append.mpr ⟨headerRows_doRows s r p v hr,
    List.forall_mem_append.mpr ⟨queueRows_doRows s q, commitPageRows_doRows s⟩⟩, ?_⟩
  split
  · rename_i h72
    exact List.forall_mem_append.mpr ⟨windowRows_doRows s r w h72, crossbarRows_doRows s r v h72⟩
  · exact List.forall_mem_nil _

end Sys2Proof.Machine
end

section
/-!
SUPPORT. Shadow commits (R520 to R523): what is captured, what a captured set gives the words of its page, the fault of a refused
slot map (R319) and the mask of an arbiter page (R350).
-/
namespace Sys2Proof.Machine

/-! ### SHADOW_COMMIT (R521, R523) -/

theorem pageShadows_congr {s t : State} (h : t.pages.shadow = s.pages.shadow) (r p : Nat) : pageShadows t r p = pageShadows s r p := by
  unfold pageShadows; rw [h]

/-! Stated of any field: with the offset of COMMITS in them the kernel would compute the field tables to see that they hold. -/

theorem bumpWrap_shadow (s : State) (r p : Nat) (f : Fld) (n : Nat) : (bumpWrap s r p f n).pages.shadow = s.pages.shadow := rfl

theorem bumpWrap_captured (s : State) (r p : Nat) (f : Fld) (n : Nat) : (bumpWrap s r p f n).pages.captured = s.pages.captured := rfl

theorem capture_shadow (s : State) (k : Nat) (set : Tab Word) : (capture s k set).pages.shadow = s.pages.shadow := rfl

theorem capture_mesh (s : State) (k : Nat) (set : Tab Word) : (capture s k set).mesh = s.mesh := rfl

theorem capture_bumpWrap_pages (s : State) (r p : Nat) (f : Fld) (n k : Nat) (set : Tab Word) :
    capture (bumpWrap s r p f n) k set = { s with pages := (capture (bumpWrap s r p f n) k set).pages } := rfl

/-- One more in COMMITS, and the shadows of the page captured: a commit, but for the head keeper's part in one of a mesh router. -/
def countedCapture (s : State) (r p : Nat) : State := capture (bumpWrap s r p ⟨0x024, 31, 16⟩ 1) (r * 64 + p) (pageShadows s r p)

theorem countedCapture_eq (s : State) (r p : Nat) : countedCapture s r p = { s with pages := (countedCapture s r p).pages } :=
  capture_bumpWrap_pages ..

section
variable (s : State) {r p : Nat}

theorem commitShadows_router (h : blockOf r p = some .mh) :
    commitShadows s r p = { countedCapture s r p with mesh := { s.mesh with hostCommits := addOnce s.mesh.hostCommits r } } := by
  have hm : (capture (bumpWrap s r p ⟨0x024, 31, 16⟩ 1) (r * 64 + p) (pageShadows s r p)).mesh = s.mesh := by rw [capture_mesh, bumpWrap_mesh]
  unfold commitShadows countedCapture
  dsimp only
  rw [if_pos h, pageShadows_congr (bumpWrap_shadow ..), hm]

theorem commitShadows_other (h : blockOf r p ≠ some .mh) : commitShadows s r p = countedCapture s r p := by
  unfold commitShadows countedCapture
  dsimp only
  rw [if_neg h, pageShadows_congr (bumpWrap_shadow ..)]

theorem commitShadows_pages : (commitShadows s r p).pages = (countedCapture s r p).pages := by
  by_cases h : blockOf r p = some .mh
  · rw [commitShadows_router s h]
  · rw [commitShadows_other s h]

theorem commitShadows_captured (k : Nat) :
    capturedSet (commitShadows s r p) k = if k = r * 64 + p then some (pageShadows s r p) else capturedSet s k := by
  rw [capturedSet_congr (congrArg Pages.captured (commitShadows_pages s)), countedCapture, capturedSet_capture, capturedSet_congr (bumpWrap_captured ..)]

theorem commitShadows_shadow : (commitShadows s r p).pages.shadow = s.pages.shadow := by
  rw [commitShadows_pages, countedCapture, capture_shadow, bumpWrap_shadow]

theorem regWord_commitShadows (r' p' o' : Nat) :
    regWord (commitShadows s r p) r' p' o' = regWord (bumpWrap s r p ⟨0x024, 31, 16⟩ 1) r' p' o' := by
  rw [regWord_congr (commitShadows_pages s), countedCapture, regWord_capture]

/-- COMMITS counts one more, and wraps (R521, R565). -/
theorem fld_commits_commitShadows (hp : p < 64) : fld (commitShadows s r p) r p ⟨0x024, 31, 16⟩ = (fld s r p ⟨0x024, 31, 16⟩ + 1) % 2 ^ 16 := by
  rw [fld_congr (regWord_commitShadows s r p 0x024)]
  exact fld_setFld_same s ⟨0x024, 31, 16⟩ _ hp (by decide) (by decide) (by decide)

theorem regWord_commitShadows_ne {r' p' o' : Nat} (hp : p < 64) (hp' : p' < 64) (ho' : o' < 4096) (hn : ¬(r' = r ∧ p' = p ∧ o' = 0x024)) :
    regWord (commitShadows s r p) r' p' o' = regWord s r' p' o' := by
  rw [regWord_commitShadows]
  exact regWord_setRegWord_ne s _ hp (by decide) hp' ho' (fun e => hn ⟨e.1.symm, e.2.1.symm, e.2.2.symm⟩)

end

/-! ### What a captured set gives (R521) -/

theorem tFind_of_not_mem {α : Type} {t : Tab α} {k : Nat} (h : k ∉ t.map (·.1)) : tFind t k = none := by
  induction t with
  | nil => rfl
  | cons x l ih =>
    obtain ⟨j, v⟩ := x
    simp only [List.map_cons, List.mem_cons, not_or] at h
    rw [tFind, if_neg (Ne.symm h.1)]
    exact ih h.2

theorem pageKey_of_onPage {r p k : Nat} (h : onPage r p k = true) : pageKey r p (k % 2 ^ 12) = k := by
  simp only [onPage, decide_eq_true_eq] at h; unfold pageKey; omega

/-- Which word a key of a page stands for. -/
theorem eq_pageKey_iff {r p k r' p' o' : Nat} (hk : onPage r p k = true) (hp : p < 64) (hp' : p' < 64) (ho' : o' < 4096) :
    k = pageKey r' p' o' ↔ r = r' ∧ p = p' ∧ k % 2 ^ 12 = o' := by
  have h : pageKey r p (k % 2 ^ 12) = pageKey r' p' o' ↔ r = r' ∧ p = p' ∧ k % 2 ^ 12 = o' := pageKey_inj hp (Nat.mod_lt k (by decide)) hp' ho'
  rwa [pageKey_of_onPage hk] at h

theorem onPage_pageKey {r p o : Nat} (ho : o < 4096) : onPage r p (pageKey r p o) = true := by
  simp only [onPage, decide_eq_true_eq]; unfold pageKey; omega

theorem pageKey_offset {r p o : Nat} (ho : o < 4096) : pageKey r p o % 2 ^ 12 = o := by
  unfold pageKey; omega

theorem takenWord_eq (s : State) (set : Tab Word) (r p o : Nat) :
    takenWord s set r p o = mergeBits (regWord s r p o) (accMask (rowsAt r p o) .rws) ((tFind set (pageKey r p o)).getD (resetWord r p o)) := rfl

theorem takenWord_congr {s t : State} {r p o : Nat} (h : regWord t r p o = regWord s r p o) (set : Tab Word) : takenWord t set r p o = takenWord s set r p o := by
  rw [takenWord_eq, takenWord_eq, h]

/-- A word that neither stands in force nor in the set has its reset value, and takes it. -/
theorem takenWord_unlisted {s : State} {set : Tab Word} {r p o : Nat} (hl : tFind s.pages.live (pageKey r p o) = none) (hs : tFind set (pageKey r p o) = none) :
    takenWord s set r p o = regWord s r p o := by
  have hr : regWord s r p o = resetWord r p o := by unfold regWord; rw [hl]; rfl
  rw [takenWord_eq, hs, hr]; exact mergeBits_self _ _

/-- One word of a page takes its captured value: a step of takeCaptured. -/
def takeKey (r p : Nat) (set : Tab Word) (s : State) (k : Nat) : State :=
  if accMask (rowsAt r p (k % 2 ^ 12)) .rws = 0 then s
  else setRegWord s r p (k % 2 ^ 12) ((regWord s r p (k % 2 ^ 12) &&& ~~~(accMask (rowsAt r p (k % 2 ^ 12)) .rws)) |||
    ((tFind set k).getD (resetWord r p (k % 2 ^ 12)) &&& accMask (rowsAt r p (k % 2 ^ 12)) .rws))

/-- The keys of the words that takeCaptured visits. -/
def takenKeys (s : State) (r p : Nat) (set : Tab Word) (keep : Nat → Bool) : List Nat :=
  (((s.pages.live.filter (fun x => onPage r p x.1)).map (·.1) ++ set.map (·.1)).eraseDups).filter (fun k => keep (k % 2 ^ 12))

theorem takeCaptured_eq (s : State) (r p : Nat) (set : Tab Word) (keep : Nat → Bool) :
    takeCaptured s r p set keep = (takenKeys s r p set keep).foldl (takeKey r p set) s := rfl

section
variable {r p : Nat} {set : Tab Word}

/-- Only words in force change. -/
theorem takeKeys_pages (ks : List Nat) (s : State) :
    ks.foldl (takeKey r p set) s = { s with pages := { s.pages with live := (ks.foldl (takeKey r p set) s).pages.live } } := by
  induction ks generalizing s with
  | nil => rfl
  | cons k ks ih =>
    have h : takeKey r p set s k = { s with pages := { s.pages with live := (takeKey r p set s k).pages.live } } := by unfold takeKey; split <;> rfl
    rw [List.foldl_cons]
    calc _ = _ := ih (takeKey r p set s k)
      _ = _ := by rw [h]

theorem regWord_takeKey (s : State) {k r' p' o' : Nat} (hk : onPage r p k = true) (hp : p < 64) (hp' : p' < 64) (ho' : o' < 4096) :
    regWord (takeKey r p set s k) r' p' o' = if k = pageKey r' p' o' then takenWord s set r p (k % 2 ^ 12) else regWord s r' p' o' := by
  have ho : k % 2 ^ 12 < 4096 := Nat.mod_lt _ (by decide)
  have hkey := eq_pageKey_iff (r' := r') hk hp hp' ho'
  have hw : (regWord s r p (k % 2 ^ 12) &&& ~~~(accMask (rowsAt r p (k % 2 ^ 12)) .rws)) |||
      ((tFind set k).getD (resetWord r p (k % 2 ^ 12)) &&& accMask (rowsAt r p (k % 2 ^ 12)) .rws) = takenWord s set r p (k % 2 ^ 12) := by
    rw [takenWord_eq, pageKey_of_onPage hk]; rfl
  unfold takeKey
  rw [hw, regWord_setRegWord_unless s _ hp ho hp' ho']
  · simp only [hkey]
  · intro h0; rw [takenWord_eq, h0]; exact mergeBits_zero _ _

theorem regWord_takeKeys {ks : List Nat} (hks : ∀ k ∈ ks, onPage r p k = true) (hp : p < 64) (s : State) {r' p' o' : Nat} (hp' : p' < 64) (ho' : o' < 4096) :
    regWord (ks.foldl (takeKey r p set) s) r' p' o' = if pageKey r' p' o' ∈ ks then takenWord s set r' p' o' else regWord s r' p' o' := by
  induction ks generalizing s with
  | nil => simp
  | cons k ks ih =>
    have hk := hks k List.mem_cons_self
    have hone := regWord_takeKey (set := set) (r' := r') s hk hp hp' ho'
    rw [List.foldl_cons, ih (fun j hj => hks j (List.mem_cons_of_mem _ hj))]
    by_cases e : k = pageKey r' p' o'
    · obtain ⟨rfl, rfl, hoff⟩ := (eq_pageKey_iff hk hp hp' ho').mp e
      rw [if_pos e, hoff] at hone
      rw [if_pos (List.mem_cons.mpr (.inl e.symm)), takenWord_eq _ _ _ _ o', hone, takenWord_eq, mergeBits_idem, ite_self]
    · rw [if_neg e] at hone
      rw [takenWord_congr hone, hone]
      simp [Ne.symm e]

variable {s : State} {keep : Nat → Bool}

theorem takenKeys_onPage (hset : set.all (fun x => onPage r p x.1) = true) : ∀ k ∈ takenKeys s r p set keep, onPage r p k = true := by
  intro k hk
  simp only [takenKeys, List.mem_filter, List.mem_eraseDups, List.mem_append, List.mem_map] at hk
  obtain ⟨⟨x, hx, rfl⟩ | ⟨x, hx, rfl⟩, -⟩ := hk
  · exact hx.2
  · exact List.all_eq_true.mp hset x hx

/-- The words of the page whose offsets are kept take the captured values. -/
theorem regWord_takeCaptured (hset : set.all (fun x => onPage r p x.1) = true) (hp : p < 64) {o : Nat} (ho : o < 4096) :
    regWord (takeCaptured s r p set keep) r p o = if keep o then takenWord s set r p o else regWord s r p o := by
  rw [takeCaptured_eq, regWord_takeKeys (takenKeys_onPage hset) hp s hp ho]
  have hm : pageKey r p o ∈ takenKeys s r p set keep ↔ (pageKey r p o ∈ s.pages.live.map (·.1) ∨ pageKey r p o ∈ set.map (·.1)) ∧ keep o = true := by
    simp only [takenKeys, List.mem_filter, List.mem_eraseDups, List.mem_append, List.mem_map, pageKey_offset ho]
    refine and_congr_left fun _ => or_congr_left ⟨fun ⟨x, hx, e⟩ => ⟨x, hx.1, e⟩, fun ⟨x, hx, e⟩ => ⟨x, ⟨hx, ?_⟩, e⟩⟩
    rw [e]; exact onPage_pageKey ho
  by_cases hin : pageKey r p o ∈ s.pages.live.map (·.1) ∨ pageKey r p o ∈ set.map (·.1)
  · simp only [hm, hin, true_and]
  · rw [if_neg (fun h => hin (hm.mp h).1)]
    obtain ⟨h1, h2⟩ := not_or.mp hin
    rw [takenWord_unlisted (tFind_of_not_mem h1) (tFind_of_not_mem h2), ite_self]

/-- Words of other pages stay. -/
theorem regWord_takeCaptured_ne (hset : set.all (fun x => onPage r p x.1) = true) (hp : p < 64) {r' p' o' : Nat} (hp' : p' < 64) (ho' : o' < 4096)
    (hn : ¬(r' = r ∧ p' = p)) : regWord (takeCaptured s r p set keep) r' p' o' = regWord s r' p' o' := by
  rw [takeCaptured_eq, regWord_takeKeys (takenKeys_onPage hset) hp s hp' ho', if_neg]
  intro hm
  have hk := takenKeys_onPage hset _ hm
  simp only [onPage, decide_eq_true_eq] at hk
  unfold pageKey at hk
  omega

theorem takeCaptured_pages : takeCaptured s r p set keep = { s with pages := { s.pages with live := (takeCaptured s r p set keep).pages.live } } :=
  takeKeys_pages _ s

theorem takeCaptured_shadow : (takeCaptured s r p set keep).pages.shadow = s.pages.shadow := by rw [takeCaptured_pages]

theorem takeCaptured_captured : (takeCaptured s r p set keep).pages.captured = s.pages.captured := by rw [takeCaptured_pages]

end

/-! ### A refused slot map (R319) -/

theorem msix_pages (s : State) (v : Nat) : (msix s v).pages = s.pages := by unfold msix; split <;> rfl
theorem msix_head (s : State) (v : Nat) : (msix s v).head = s.head := by unfold msix; split <;> rfl

theorem irqRise_pages (was : Bool) (s : State) (r p : Nat) : (irqRise was s r p).pages = s.pages := by
  unfold irqRise; split
  · exact msix_pages s 64
  · rfl
theorem irqRise_head (was : Bool) (s : State) (r p : Nat) : (irqRise was s r p).head = s.head := by
  unfold irqRise; split
  · exact msix_head s 64
  · rfl

/-- The offsets of a page's header that a fault can change (R519, R524). -/
def faultOffsets : List Nat := [0x00C, 0x010, 0x018, 0x01C, 0x020]

theorem wordsBut_irqEvent (s : State) (r : Nat) {p : Nat} (bit : Nat) {os : List Nat} (hp : p < 64) (hm : 0x010 ∈ os) : WordsBut s (irqEvent s r p bit) r p os :=
  (wordsBut_setRegWord s r _ hp (by decide) hm).trans (wordsBut_of_pages (irqRise_pages ..))

/-- A fault's three header words and its event. -/
theorem wordsBut_faultWords (s : State) (r : Nat) {p : Nat} (a b c : Word) (hp : p < 64) :
    WordsBut s (irqEvent (setRegWord (setRegWord (setRegWord s r p 0x018 a) r p 0x01C b) r p 0x020 c) r p 31) r p faultOffsets :=
  (((wordsBut_setRegWord s r a hp (by decide) (by decide)).trans (wordsBut_setRegWord _ r b hp (by decide) (by decide))).trans
    (wordsBut_setRegWord _ r c hp (by decide) (by decide))).trans (wordsBut_irqEvent _ r 31 hp (by decide))

/-- A fault is counted in FAULT_OVERRUN, or takes the three fault words and the page's event (R519). -/
theorem latch_cases (s : State) (f : Report) : latch s f = bump s f.reach f.page ⟨0x00C, 31, 24⟩ 1 ∨ ∃ a b c, latch s f =
    irqEvent (setRegWord (setRegWord (setRegWord s f.reach f.page 0x018 a) f.reach f.page 0x01C b) f.reach f.page 0x020 c) f.reach f.page 31 := by
  unfold latch
  split
  · exact .inl rfl
  · exact .inr ⟨_, _, _, rfl⟩

theorem wordsBut_latch (s : State) (f : Report) (hp : f.page < 64) : WordsBut s (latch s f) f.reach f.page faultOffsets := by
  obtain h | ⟨a, b, c, h⟩ := latch_cases s f
  · rw [h]; exact wordsBut_bump s _ _ _ hp (by decide) (by decide)
  · rw [h]; exact wordsBut_faultWords s _ a b c hp

theorem irqEvent_head (s : State) (r p bit : Nat) : (irqEvent s r p bit).head = s.head := by
  unfold irqEvent; rw [irqRise_head, setRegWord_head]

theorem latch_head (s : State) (f : Report) : (latch s f).head = s.head := by
  obtain h | ⟨a, b, c, h⟩ := latch_cases s f
  · rw [h, bump_head]
  · rw [h, irqEvent_head, setRegWord_head, setRegWord_head, setRegWord_head]

/-- A fault of effect REFUSED outside the boot class is latched and recorded, and nothing else (R442, R519). -/
theorem raise_refused (s : State) {f : Report} (he : f.effect = 2) (hc : f.code / 256 ≠ 7) :
    raise s f = { latch s f with head := { s.head with inbox := s.head.inbox ++ [recordOf s f] } } := by
  unfold raise; simp only [he, if_neg hc, latch_head]

theorem wordsBut_raise_refused (s : State) {f : Report} (he : f.effect = 2) (hc : f.code / 256 ≠ 7) (hp : f.page < 64) :
    WordsBut s (raise s f) f.reach f.page faultOffsets := by
  rw [raise_refused s he hc]; exact (wordsBut_latch s f hp).trans (wordsBut_of_pages rfl)

theorem inboxCodes_raise_refused (s : State) {f : Report} (he : f.effect = 2) (hc : f.code / 256 ≠ 7) (hw : f.code < 2 ^ 16) :
    inboxCodes (raise s f) = inboxCodes s ++ [f.code] := by
  rw [raise_refused s he hc]
  simpa [inboxCodes, recordOf] using hw

/-! ### The mask of an arbiter page (R350) -/

/-- The offsets of an arbiter page that its mask and its counters of masked windows take. -/
def maskOffsets (p : Nat) : List Nat := 0x050 :: (List.range (arbRequesters p)).map (fun n => 0x40C + 16 * n)

theorem arbRequesters_le (p : Nat) : arbRequesters p ≤ 6 := by unfold arbRequesters; (repeat' split) <;> decide

theorem wordsBut_remask (s : State) (r : Nat) {p : Nat} (hp : p < 64) : WordsBut s (remask s r p) r p (maskOffsets p) := by
  have hle := arbRequesters_le p
  refine WordsBut.trans (WordsBut.trans (wordsBut_foldl _ _ (fun t n hn => ?_) s) (wordsBut_of_pages rfl)) (wordsBut_setFld _ r _ _ hp (by decide) List.mem_cons_self)
  simp only [List.mem_filter, List.mem_range] at hn
  exact wordsBut_bump t r (wordFld (0x40C + 16 * n)) 1 hp (by show 0x40C + 16 * n < 4096; omega)
    (List.mem_cons_of_mem _ (List.mem_map.mpr ⟨n, List.mem_range.mpr hn.1.1, rfl⟩))

end Sys2Proof.Machine
end

section
/-!
PROOF. The effect of a shadow commit (R319, R350, R351, R521, R523), and obligation O37.
-/
namespace Sys2Proof.Machine

/-! ### SHADOW_COMMIT_EFFECT -/

/-- The field REFUSED of SHADOW_COMMIT (R319, R516). -/
def refusedFld : Fld := ⟨0x024, 1, 1⟩

/-- The page's captured set leaves, and its words take what it holds, but for the offsets that are not kept. -/
def takeSet (s : State) (r p : Nat) (set : Tab Word) (keep : Nat → Bool) : State := takeCaptured (uncapture s (r * 64 + p)) r p set keep

/-- The slot map that a captured set of a scratchpad page holds is refused (R319). -/
def MapRefused (s : State) (r p : Nat) (set : Tab Word) : Prop :=
  slotMapRefused (uncapture s (r * 64 + p)) r ((tFind set (pageKey r p 0x044)).getD (resetWord r p 0x044)).toNat = true

/-- The fault of a refused slot map. -/
def mapFault (s : State) (r p : Nat) : Report := { plainReport 0x0A06 2 r p with core := logicalOf s r, site := some r }

section
variable {s : State} {r p : Nat} {b : Block} {set : Tab Word} {keep : Nat → Bool} {o : Nat}

theorem commitEffect_refused (hc : capturedSet s (r * 64 + p) = some set) (hb : blockOf r p = some .sp) (hm : MapRefused s r p set) :
    commitEffect s r p = setFld (raise (uncapture s (r * 64 + p)) (mapFault (uncapture s (r * 64 + p)) r p)) r p refusedFld 1 := by
  unfold commitEffect; rw [hc, hb]; exact if_pos hm

theorem commitEffect_taken (hc : capturedSet s (r * 64 + p) = some set) (hb : blockOf r p = some b) (hmh : b ≠ .mh) (hab : b ≠ .ab)
    (hm : b = .sp → ¬MapRefused s r p set) : commitEffect s r p = setFld (takeSet s r p set (fun _ => true)) r p refusedFld 0 := by
  unfold commitEffect
  rw [hc, hb]
  cases b with
  | mh => exact absurd rfl hmh
  | ab => exact absurd rfl hab
  | sp => exact if_neg (hm rfl)
  | _ => rfl

theorem commitEffect_arbiter (hc : capturedSet s (r * 64 + p) = some set) (hb : blockOf r p = some .ab) :
    commitEffect s r p = remask (setFld (capture (takeSet s r p set (fun o => o ≠ 0x040)) (windowKey r p) (set.filter (fun x => x.1 % 2 ^ 12 = 0x040)))
      r p refusedFld 0) r p := by
  unfold commitEffect; rw [hc, hb]; rfl

theorem capturedSet_takeSet (k : Nat) : capturedSet (takeSet s r p set keep) k = if k = r * 64 + p then none else capturedSet s k := by
  unfold takeSet; rw [capturedSet_congr takeCaptured_captured, capturedSet_uncapture]

theorem takeSet_shadow : (takeSet s r p set keep).pages.shadow = s.pages.shadow := takeCaptured_shadow

theorem takeSet_pages : takeSet s r p set keep = { s with pages := (takeSet s r p set keep).pages } := by
  unfold takeSet; rw [takeCaptured_pages]; rfl

theorem regWord_takeSet (hset : set.all (fun x => onPage r p x.1) = true) (hp : p < 64) (ho : o < 4096) :
    regWord (takeSet s r p set keep) r p o = if keep o then takenWord s set r p o else regWord s r p o :=
  regWord_takeCaptured hset hp ho

theorem wordsBut_refusedFld (t : State) (n : Nat) (hp : p < 64) : WordsBut t (setFld t r p refusedFld n) r p [0x024] :=
  wordsBut_setFld t r refusedFld n hp (by decide) (by decide)

theorem fld_refusedFld (t : State) (n : Nat) (hp : p < 64) : fld (setFld t r p refusedFld n) r p refusedFld = n % 2 :=
  fld_setFld_same t refusedFld n hp (by decide) (by decide) (by decide)

/-- A refused slot map: the fault, REFUSED, and no word in force beside the header (R319). -/
theorem commitEffect_of_refused (hc : capturedSet s (r * 64 + p) = some set) (hb : blockOf r p = some .sp) (hm : MapRefused s r p set) (hp : p < 64) :
    WordsBut (uncapture s (r * 64 + p)) (commitEffect s r p) r p (0x024 :: faultOffsets) ∧ fld (commitEffect s r p) r p refusedFld = 1 ∧
      inboxCodes (commitEffect s r p) = inboxCodes s ++ [0x0A06] := by
  have hclass : (0x0A06 : Nat) / 256 ≠ 7 := by decide
  have hwidth : (0x0A06 : Nat) < 2 ^ 16 := by decide
  have hraise : WordsBut (uncapture s (r * 64 + p)) (raise (uncapture s (r * 64 + p)) (mapFault (uncapture s (r * 64 + p)) r p)) r p faultOffsets :=
    wordsBut_raise_refused _ rfl hclass hp
  have hcodes := inboxCodes_raise_refused (uncapture s (r * 64 + p)) (f := mapFault (uncapture s (r * 64 + p)) r p) rfl hclass hwidth
  rw [commitEffect_refused hc hb hm]
  refine ⟨(hraise.mono (fun _ => List.mem_cons_of_mem _)).trans ((wordsBut_refusedFld _ 1 hp).mono (by simp)), fld_refusedFld _ 1 hp, ?_⟩
  unfold inboxCodes at hcodes ⊢
  rw [setFld_head]; exact hcodes

/-- A captured set that takes effect: the words of the page as a whole, REFUSED 0, and nothing else (R521). -/
theorem commitEffect_of_taken (hc : capturedSet s (r * 64 + p) = some set) (hb : blockOf r p = some b) (hmh : b ≠ .mh) (hab : b ≠ .ab)
    (hm : b = .sp → ¬MapRefused s r p set) (hset : set.all (fun x => onPage r p x.1) = true) (hp : p < 64) :
    fld (commitEffect s r p) r p refusedFld = 0 ∧ commitEffect s r p = { s with pages := (commitEffect s r p).pages } ∧
      (∀ o, o < 4096 → o ≠ 0x024 → regWord (commitEffect s r p) r p o = takenWord s set r p o) ∧
      (∀ r' p' o', p' < 64 → o' < 4096 → ¬(r' = r ∧ p' = p) → regWord (commitEffect s r p) r' p' o' = regWord s r' p' o') := by
  have hbut := wordsBut_refusedFld (r := r) (takeSet s r p set (fun _ => true)) 0 hp
  rw [commitEffect_taken hc hb hmh hab hm]
  refine ⟨fld_refusedFld _ 0 hp, ?_, fun o ho hn => ?_, fun r' p' o' hp' ho' hn => ?_⟩
  · rw [takeSet_pages]; rfl
  · rw [hbut.word hp ho (by simpa using hn), regWord_takeSet hset hp ho]; rfl
  · rw [hbut.2.2 r' p' o' hp' ho' (fun e => hn ⟨e.1, e.2.1⟩)]
    exact regWord_takeCaptured_ne hset hp hp' ho' hn

/-- The words of an arbiter page that its commit can change beside the captured ones. -/
theorem wordsBut_commitEffect_arbiter (hc : capturedSet s (r * 64 + p) = some set) (hb : blockOf r p = some .ab) (hp : p < 64) :
    WordsBut (capture (takeSet s r p set (fun o => o ≠ 0x040)) (windowKey r p) (set.filter (fun x => x.1 % 2 ^ 12 = 0x040))) (commitEffect s r p) r p
      (0x024 :: maskOffsets p) := by
  rw [commitEffect_arbiter hc hb]
  exact ((wordsBut_refusedFld _ 0 hp).mono (by simp)).trans ((wordsBut_remask _ r hp).mono (fun _ => List.mem_cons_of_mem _))

theorem mem_maskOffsets (h : o ∈ maskOffsets p) : o = 0x050 ∨ (0x400 ≤ o ∧ o % 16 = 12) := by
  simp only [maskOffsets, List.mem_cons, List.mem_map, List.mem_range] at h
  obtain rfl | ⟨n, -, rfl⟩ := h
  · exact .inl rfl
  · exact .inr (by omega)

/-- The commit of an arbiter page: WINDOW waits for the wrap, the other words take what was captured, and REFUSED is 0 (R351). -/
theorem commitEffect_of_arbiter (hc : capturedSet s (r * 64 + p) = some set) (hb : blockOf r p = some .ab)
    (hset : set.all (fun x => onPage r p x.1) = true) (hp : p < 64) :
    fld (commitEffect s r p) r p refusedFld = 0 ∧ regWord (commitEffect s r p) r p 0x040 = regWord s r p 0x040 ∧
      (∀ o, o < 4096 → o ∉ [0x024, 0x040, 0x050] → ¬(0x400 ≤ o ∧ o % 16 = 12) → regWord (commitEffect s r p) r p o = takenWord s set r p o) := by
  have hbut := wordsBut_commitEffect_arbiter hc hb hp
  have hno : ∀ o, ¬(o = 0x050 ∨ (0x400 ≤ o ∧ o % 16 = 12)) → o ∉ maskOffsets p := fun o h hm => h (mem_maskOffsets hm)
  refine ⟨?_, ?_, fun o ho hn hq => ?_⟩
  · rw [commitEffect_arbiter hc hb, fld_congr ((wordsBut_remask _ r hp).word hp (by decide) (hno 0x024 (by decide)))]
    exact fld_refusedFld _ 0 hp
  · rw [hbut.word hp (by decide) (List.not_mem_cons_of_ne_of_not_mem (by decide) (hno 0x040 (by decide))), regWord_capture, regWord_takeSet hset hp (by decide)]
    rfl
  · simp only [List.mem_cons, List.not_mem_nil, or_false, not_or] at hn
    obtain ⟨h24, h40, h50⟩ := hn
    rw [hbut.word hp ho (List.not_mem_cons_of_ne_of_not_mem h24 (hno o (not_or.mpr ⟨h50, hq⟩))), regWord_capture, regWord_takeSet hset hp ho]
    simp [h40]

theorem capturedSet_commitEffect_arbiter (hc : capturedSet s (r * 64 + p) = some set) (hb : blockOf r p = some .ab) (hp : p < 64) (k : Nat) :
    capturedSet (commitEffect s r p) k = if k = windowKey r p then some (set.filter (fun x => x.1 % 2 ^ 12 = 0x040))
      else if k = r * 64 + p then none else capturedSet s k := by
  rw [capturedSet_congr (wordsBut_commitEffect_arbiter hc hb hp).2.1, capturedSet_capture, capturedSet_takeSet]

/-- At its effect point a captured set leaves, and the shadows stay (R521). -/
theorem commitEffect_uncaptures (hc : capturedSet s (r * 64 + p) = some set) (hb : blockOf r p = some b) (hmh : b ≠ .mh) (hp : p < 64) :
    capturedSet (commitEffect s r p) (r * 64 + p) = none ∧ (commitEffect s r p).pages.shadow = s.pages.shadow := by
  by_cases hab : b = .ab
  · subst hab
    refine ⟨?_, ?_⟩
    · rw [capturedSet_commitEffect_arbiter hc hb hp, if_neg (by unfold windowKey; omega), if_pos rfl]
    · rw [(wordsBut_commitEffect_arbiter hc hb hp).1, capture_shadow, takeSet_shadow]
  · by_cases hm : b = .sp ∧ MapRefused s r p set
    · obtain ⟨rfl, hm⟩ := hm
      have hbut := (commitEffect_of_refused hc hb hm hp).1
      exact ⟨by rw [capturedSet_congr hbut.2.1, capturedSet_uncapture, if_pos rfl], hbut.1⟩
    · rw [commitEffect_taken hc hb hmh hab (fun h1 h2 => hm ⟨h1, h2⟩)]
      have hbut := wordsBut_refusedFld (r := r) (takeSet s r p set (fun _ => true)) 0 hp
      exact ⟨by rw [capturedSet_congr hbut.2.1, capturedSet_takeSet, if_pos rfl], by rw [hbut.1, takeSet_shadow]⟩

end

/-! ### The obligation -/

/-- A 4-byte write to a page whose registers have no rule of their own (R11, R12, R520). -/
theorem exec_registerWrite_plain {s : State} {r p o : Nat} (v : Dword) (hcan : hostCan s r p = true) (hp : p < 64) (ho : o < 4096) (h4 : o % 4 = 0)
    (hplain : ∀ b, blockOf r p = some b → plainBlock b = true) (hn : o ∉ [0x010, 0x014, 0x018, 0x024]) :
    exec (.registerWrite (barAddr r p o) 4 v) s = .next (writeFields s r p o (v.setWidth 32)) := by
  obtain ⟨b, hb⟩ := blockOf_of_hostCan hcan
  rw [exec_registerWrite_barAddr s v (le_of_hostCan hcan) hp ho h4 (fun h => blockOf_headPage (h ▸ hb)), hostWrite_of_hostCan hcan,
    writeBlock_of_plain s _ hb (hplain b hb) hn]

theorem exec_shadowCommit {s : State} {r : BitVec 7} {p : BitVec 6} (hcan : hostCan s r.toNat p.toNat = true) :
    exec (.shadowCommit r p) s = .next (commitShadows s r.toNat p.toNat) := congrArg Host.Outcome.next (hostWrite_of_hostCan hcan _)

/-- Settles O37: a write goes to the fields of its word or to the row that the register is; a commit captures the shadows of its page, and its effect gives the
words of the page what was captured, each once. -/
theorem registerWrites : Obligations.RegisterWrites := by
  unfold Obligations.RegisterWrites
  refine ⟨?plain, fun s r p q w v hr => rowWrites_doRows s r p q w v hr, ?pair, fun s a size v hup h4 h8 => exec_registerWrite_unsupported hup v h4 h8, ?commit, ?effect⟩
  case plain =>
    intro s r p o v hcan hp ho h4 hplain hn
    refine ⟨_, exec_registerWrite_plain v hcan hp ho h4 hplain hn, writeFields_pages s _, writeFields_captured s _, ?_, ?_, fun r' p' o' hp' ho' hne => ?_⟩
    · rw [regWord_writeFields s _ hp ho hp ho, if_pos ⟨rfl, rfl, rfl⟩]; rfl
    · rw [shadowWord_writeFields s _ hp ho hp ho, if_pos ⟨rfl, rfl, rfl⟩]; rfl
    · have hne' : ¬(r = r' ∧ p = p' ∧ o = o') := fun e => hne ⟨e.1.symm, e.2.1.symm, e.2.2.symm⟩
      rw [regWord_writeFields s _ hp ho hp' ho', shadowWord_writeFields s _ hp ho hp' ho', if_neg hne', if_neg hne']
      exact ⟨rfl, rfl⟩
  case pair =>
    intro s t a v ha ht hup _
    rw [exec_registerWrite_word s v (by omega)] at ht
    cases ht
    have hlt := a.isLt
    have hnext : (a + 4).toNat = a.toNat + 4 := by
      rw [BitVec.toNat_add]; exact Nat.mod_eq_of_lt (by show a.toNat + 4 < 2 ^ 26; omega)
    rw [exec_registerWrite_pair hup v ha, exec_registerWrite_word _ _ (by omega), hnext]
  case commit =>
    intro s r p hcan
    refine ⟨_, exec_shadowCommit hcan, ?_, fun k hk => ?_, commitShadows_shadow s, fld_commits_commitShadows s p.isLt,
      fun r' p' o' hp' ho' hn => regWord_commitShadows_ne s p.isLt hp' ho' hn, fun h => ?_, fun h => ?_⟩
    · rw [commitShadows_captured, if_pos rfl]
    · rw [commitShadows_captured, if_neg hk]
    · rw [commitShadows_pages, commitShadows_router s h, countedCapture_eq]
    · rw [commitShadows_other s h]; exact countedCapture_eq ..
  case effect =>
    intro s r p b set hb hc hset hmh
    obtain ⟨hnone, hshadow⟩ := commitEffect_uncaptures hc hb hmh p.isLt
    refine ⟨commitEffect s r.toNat p.toNat, rfl, hnone, hshadow, fun hsp hm => ?_, fun hm hab => ?_, fun hab => ?_⟩
    · obtain ⟨hwords, hfld, hcodes⟩ := commitEffect_of_refused hc (hsp ▸ hb) hm p.isLt
      refine ⟨hfld, hcodes, fun o h40 ho => hwords.word p.isLt ho ?_⟩
      simp only [faultOffsets, List.mem_cons, List.not_mem_nil, or_false]
      omega
    · exact commitEffect_of_taken hc hb hmh hab (fun hsp h => Bool.false_ne_true ((hm hsp).symm.trans h)) hset p.isLt
    · obtain ⟨hfld, hwindow, hwords⟩ := commitEffect_of_arbiter hc (hab ▸ hb) hset p.isLt
      exact ⟨by rw [capturedSet_commitEffect_arbiter hc (hab ▸ hb) p.isLt, if_pos rfl], hfld, hwindow, hwords⟩

end Sys2Proof.Machine
end

section
/-!
SUPPORT. Engine commands (R91 to R93, R158, R160): who issues a command and where it acts, what its steps leave as they were (EngineFrame), and what
they leave of a core's units.
-/
namespace Sys2Proof.Machine

section
variable {u v : Issue} {s t e : State}

/-! ### The frame -/

/-- u is where a command of the issuer v acts (R160). -/
structure IssuedBy (s : State) (u v : Issue) : Prop where
  bound : BoundTo v s
  queue : u.q = v.q
  ctx : u.ctx = v.ctx
  thread : u.t = v.t
  home : u.home = v.site
  lt : u.site < 72

theorem issuedBy_actOn (hb : BoundTo v s) (h : Hdr) : IssuedBy s (actOn s v h) v := by
  unfold actOn
  split
  · split
    · rename_i site hsite
      exact ⟨hb, rfl, rfl, rfl, hb.home, siteOf_lt hsite⟩
    · exact ⟨hb, rfl, rfl, rfl, hb.home, hb.lt⟩
  · exact ⟨hb, rfl, rfl, rfl, hb.home, hb.lt⟩

theorem EngineFrame.refl (u : Issue) (s : State) : EngineFrame u s s :=
  ⟨fun _ _ _ _ _ _ _ _ => rfl, fun _ _ _ _ _ => rfl, fun _ _ _ => rfl, fun _ => rfl, fun _ _ _ => rfl, fun _ => rfl, fun _ _ h _ => h, rfl⟩

theorem siteOf_engineFrame (f : EngineFrame u s t) (hu : u.site < 72) (k : Nat) : siteOf t k = siteOf s k := by
  unfold siteOf
  by_cases hk : k < 72
  · rw [f.words headPage 0 (0x400 + k / 4 * 4) (by omega) (by omega) (by simp [headPage]; omega) (by simp) (by simp)]
  · simp [hk]

theorem EngineFrame.trans (h : EngineFrame u s t) (k : EngineFrame u t e) (hu : u.site < 72) : EngineFrame u s e where
  words := fun r p o a b c d f => (k.words r p o a b c d f).trans (h.words r p o a b c d f)
  ownWords := fun p o a b c => (k.ownWords p o a b c).trans (h.ownWords p o a b c)
  cores := fun a b c => (k.cores a b c).trans (h.cores a b c)
  home := fun a => (k.home a).trans (h.home a)
  threads := fun a b c => (k.threads a b c).trans (h.threads a b c)
  bindings := fun q => (k.bindings q).trans (h.bindings q)
  queues := fun q e a b => k.queues q e (h.queues q e a b) (by rwa [siteOf_engineFrame h hu])
  rest := k.rest.trans h.rest

theorem engineRest_of_restOf (h : restOf t = restOf s) : engineRest t = engineRest s := by
  simp only [restOf, Prod.mk.injEq] at h
  simp only [engineRest, Prod.mk.injEq]
  obtain ⟨htally, -, -, hwithheld, hrest⟩ := h
  exact ⟨htally, hwithheld, hrest⟩

/-- What a step of the issuing thread leaves as it was, seen from where the command acts. -/
theorem ThreadFrame.engine (f : ThreadFrame v s t) (hi : IssuedBy s u v) : EngineFrame u s t where
  words := fun r p o hp ho _ hhome hhead => by
    rw [hi.home] at hhome
    by_cases hr : r = v.site
    · subst hr
      exact f.ownWords p o hp ho (fun h => hhome ⟨rfl, .inl h⟩) (fun h => hhome ⟨rfl, .inr h⟩)
    · exact f.words r p o hp ho hr hhead
  ownWords := fun p o hp ho hpage => by
    have hlt := hi.lt
    by_cases hsite : u.site = v.site
    · rw [hsite]; exact f.ownWords p o hp ho (by omega) (by omega)
    · exact f.words u.site p o hp ho hsite (by omega)
  cores := fun a _ ha => by rw [hi.queue]; exact f.cores a (by rwa [← hi.home])
  home := fun _ => by rw [hi.home]; exact f.units
  threads := fun a b hne => by
    rw [hi.home, hi.thread] at hne
    by_cases ha : a = v.site
    · subst ha; exact f.threads b (hne.resolve_left (fun h => h rfl))
    · have h := congrArg Core.threads (f.cores a ha)
      unfold threadAt
      exact congrArg (fun x => tGet freshThread x b) h
  bindings := f.bindings
  queues := fun q e hq hne => f.queues q e hq (by
    rw [hi.home, hi.thread] at hne
    exact hne.imp_left (fun h hc => h (hc ▸ hi.bound.1)))
  rest := engineRest_of_restOf f.rest

theorem IssuedBy.of_frame (hi : IssuedBy s u v) (f : EngineFrame u s t) : IssuedBy t u v := by
  obtain ⟨⟨hs, e, he, hcore, hthread, hhome⟩, hq, hx, ht, hh, hlt⟩ := hi
  refine ⟨⟨(siteOf_engineFrame f hlt _).trans hs, ?_⟩, hq, hx, ht, hh, hlt⟩
  have hb := f.bindings v.q
  rw [he] at hb
  cases hn : queueAt t v.q with
  | none => rw [hn] at hb; cases hb
  | some e' =>
    rw [hn] at hb
    simp only [Option.map_some, Option.some.injEq, bindingOf, Prod.mk.injEq] at hb
    obtain ⟨-, -, -, hcore', hthread', -⟩ := hb
    exact ⟨e', rfl, hcore'.trans hcore, by rw [hthread']; exact hthread, hhome⟩

/-- A step that keeps the frame of an engine's command, the registers of its thread, and the store but host memory. -/
structure EngineKept (u : Issue) (s t : State) : Prop where
  frame : EngineFrame u s t
  regs : sameRegs u s t
  store : ∃ m, t.store = { s.store with host := m }

theorem EngineKept.refl (u : Issue) (s : State) : EngineKept u s s := ⟨EngineFrame.refl u s, fun _ => rfl, s.store.host, rfl⟩

theorem EngineKept.trans (h : EngineKept u s t) (k : EngineKept u t e) (hu : u.site < 72) : EngineKept u s e where
  frame := h.frame.trans k.frame hu
  regs := fun i => (k.regs i).trans (h.regs i)
  store := by
    obtain ⟨m, hm⟩ := h.store; obtain ⟨n, hn⟩ := k.store
    exact ⟨n, by rw [hn, hm]⟩

theorem EngineKept.memory (h : EngineKept u s t) : sameMemory s t := by
  obtain ⟨m, hm⟩ := h.store
  intro a; rw [hm]; exact ⟨rfl, rfl, rfl⟩

theorem Around.engine {h : Hdr} (a : Around v h s t) (hi : IssuedBy s u v) : EngineKept u s t where
  frame := a.frame.engine hi
  regs := fun i => by rw [hi.home, hi.thread, ← hi.bound.home]; exact a.regs i
  store := a.store

theorem Kept.engine (k : Kept v s t) (hi : IssuedBy s u v) : EngineKept u s t where
  frame := k.frame.engine hi
  regs := fun i => by rw [hi.home, hi.thread, ← hi.bound.home]; exact k.regs i
  store := ⟨s.store.host, k.store⟩

/-! ### Single updates -/

/-- An update of nothing the frame reads. -/
theorem engineKept_of_same (hp : t.pages = s.pages) (hc : t.cores = s.cores) (hq : t.queues = s.queues)
    (hst : ∃ m, t.store = { s.store with host := m }) (hr : engineRest t = engineRest s) : EngineKept u s t where
  frame := {
    words := fun r p o _ _ _ _ _ => regWord_congr hp r p o
    ownWords := fun p o _ _ _ => regWord_congr hp u.site p o
    cores := fun a _ _ => by rw [coreAt_congr hc]
    home := fun _ => by rw [coreAt_congr hc]
    threads := fun a b _ => threadAt_congr hc a b
    bindings := fun q => by unfold queueAt; rw [hq]
    queues := fun q e h _ => by unfold queueAt at *; rw [hq]; exact h
    rest := hr }
  regs := fun i => by rw [threadAt_congr hc]
  store := hst

/-- A word of an engine's page where the command acts. -/
theorem engineKept_setRegWord (s : State) {p o : Nat} (w : Word) (hp : 0x10 ≤ p ∧ p ≤ 0x16) (ho : o < 4096) :
    EngineKept u s (setRegWord s u.site p o w) where
  frame := {
    words := fun r' p' o' hp' ho' hr _ _ => regWord_setRegWord_ne s w (by omega) ho hp' ho' (fun h => hr h.1.symm)
    ownWords := fun p' o' hp' ho' h => regWord_setRegWord_ne s w (by omega) ho hp' ho' (by omega)
    cores := fun _ _ _ => rfl
    home := fun _ => rfl
    threads := fun _ _ _ => rfl
    bindings := fun _ => rfl
    queues := fun _ _ h _ => h
    rest := rfl }
  regs := fun _ => rfl
  store := ⟨s.store.host, rfl⟩

theorem engineKept_bump (s : State) {p : Nat} (f : Fld) (n : Nat) (hp : 0x10 ≤ p ∧ p ≤ 0x16) (ho : f.off < 4096) :
    EngineKept u s (bump s u.site p f n) := engineKept_setRegWord s _ hp ho

/-- A change of the core where the command acts, but for its threads. -/
theorem engineKept_modCore (s : State) (f : Core → Core) (hf : ∀ c, (f c).threads = c.threads) : EngineKept u s (modCore s u.site f) where
  frame := {
    words := fun _ _ _ _ _ _ _ _ => rfl
    ownWords := fun _ _ _ _ _ => rfl
    cores := fun a ha _ => by rw [coreAt_modCore, if_neg ha]
    home := fun hne => by rw [coreAt_modCore, if_neg hne]
    threads := fun a b _ => threadAt_modCore s u.site f hf a b
    bindings := fun _ => rfl
    queues := fun _ _ h _ => h
    rest := rfl }
  regs := fun i => by rw [threadAt_modCore s u.site f hf]
  store := ⟨s.store.host, rfl⟩

theorem engineKept_takeToken (s : State) (h : Hdr) : EngineKept u s (takeToken s u.site h) := engineKept_modCore s _ (fun _ => rfl)

theorem engineKept_traceRec (s : State) (u : Issue) (h : Hdr) (kind : Nat) : EngineKept u s (traceRec s u h kind) := by
  obtain ⟨hframe, hcores, hqueues, hpages, hstore, -⟩ := traceRec_frame s u h kind
  exact engineKept_of_same hpages hcores hqueues hstore (engineRest_of_restOf hframe.rest)

/-! ### Faults of an engine's command -/

theorem engineKept_msix (s : State) (n : Nat) : EngineKept u s (msix s n) := by
  unfold msix
  split <;> exact engineKept_of_same rfl rfl rfl ⟨s.store.host, rfl⟩ rfl

theorem engineKept_irqRise (was : Bool) (s : State) (r p : Nat) : EngineKept u s (irqRise was s r p) := by
  unfold irqRise
  split
  · exact engineKept_msix s 64
  · exact EngineKept.refl u s

theorem engineKept_irqEvent (s : State) {p : Nat} (bit : Nat) (hp : 0x10 ≤ p ∧ p ≤ 0x16) (hu : u.site < 72) : EngineKept u s (irqEvent s u.site p bit) :=
  (engineKept_setRegWord s _ hp (by decide)).trans (engineKept_irqRise _ _ _ _) hu

theorem engineKept_latch (s : State) (f : Report) (hr : f.reach = u.site) (hp : 0x10 ≤ f.page ∧ f.page ≤ 0x16) (hu : u.site < 72) :
    EngineKept u s (latch s f) := by
  obtain h | ⟨a, b, c, h⟩ := latch_cases s f
  · rw [h, hr]; exact engineKept_bump s _ _ hp (by decide)
  · rw [h, hr]
    exact (((engineKept_setRegWord s a hp (by decide)).trans (engineKept_setRegWord _ b hp (by decide)) hu).trans
      (engineKept_setRegWord _ c hp (by decide)) hu).trans (engineKept_irqEvent _ 31 hp hu) hu

/-- Two states that differ in nothing the frame of an engine's command reads. -/
structure Still (s t : State) : Prop where
  pages : t.pages = s.pages
  cores : t.cores = s.cores
  queues : t.queues = s.queues
  store : t.store = s.store
  rest : engineRest t = engineRest s

theorem Still.engine (h : Still s t) (u : Issue) : EngineKept u s t := engineKept_of_same h.pages h.cores h.queues ⟨s.store.host, h.store⟩ h.rest

/-- A report that is no fault of the boot is latched and sent, and may then stop its queue (R98, R442). -/
theorem raise_still_or_stops (s : State) (f : Report) (hc : f.code / 256 ≠ 7) : Still (latch s f) (raise s f) ∨
    ∃ g q, Still (latch s f) g ∧ f.queue = some q ∧ raise s f = stopQueue g q f.code f.mark := by
  unfold raise
  simp only
  rw [if_neg hc]
  split
  · split
    · rename_i q hq
      refine .inr ⟨_, q, ?_, hq, rfl⟩
      exact ⟨rfl, rfl, rfl, rfl, rfl⟩
    · exact .inl ⟨rfl, rfl, rfl, rfl, rfl⟩
  · split <;> exact .inl ⟨rfl, rfl, rfl, rfl, rfl⟩
  · exact .inl ⟨rfl, rfl, rfl, rfl, rfl⟩
  · exact .inl ⟨rfl, rfl, rfl, rfl, rfl⟩
  · exact .inl ⟨rfl, rfl, rfl, rfl, rfl⟩

/-- A fault that an engine's command reports on a page of its engine, and that is no fault of the boot. -/
theorem engineKept_raise (hi : IssuedBy s u v) (h : Hdr) (code effect detail : Nat) {page : Nat} (hp : 0x10 ≤ page ∧ page ≤ 0x16) (hc : code / 256 ≠ 7) :
    EngineKept u s (raise s (cmdReport u h code effect page detail)) := by
  have hlatch : EngineKept u s (latch s (cmdReport u h code effect page detail)) := engineKept_latch s _ rfl hp hi.lt
  obtain hstill | ⟨g, q, hstill, hq, hraise⟩ := raise_still_or_stops s (cmdReport u h code effect page detail) hc
  · exact hlatch.trans (hstill.engine u) hi.lt
  · have hsent := hlatch.trans (hstill.engine u) hi.lt
    have hig := hi.of_frame hsent.frame
    obtain rfl : v.q = q := hi.queue.symm.trans (Option.some.inj hq)
    rw [hraise]
    exact hsent.trans ((kept_stopQueue hig.bound _ _).engine hig) hi.lt

end

/-! ### The units of a core -/

/-- What a core holds beside its threads, the commands not started, the turn of its threads and the faults raised once a step: registers, slots,
descriptors, tokens, started commands. -/
def unitOf (c : Core) : Core := { c with threads := [], held := [], lastIssue := 0, satRaised := false, nonfiniteRaised := false }

/-- A step that keeps the units of every core. -/
def SameUnits (s t : State) : Prop := ∀ a, unitOf (coreAt t a) = unitOf (coreAt s a)

section
variable {s t e : State}

theorem SameUnits.refl (s : State) : SameUnits s s := fun _ => rfl

theorem SameUnits.trans (h : SameUnits s t) (k : SameUnits t e) : SameUnits s e := fun a => (k a).trans (h a)

/-- A part of a core that is one of its units. -/
theorem SameUnits.part {α : Type} (h : SameUnits s t) (a : Nat) (part : Core → α) (hpart : ∀ c, part (unitOf c) = part c) :
    part (coreAt t a) = part (coreAt s a) := by rw [← hpart, h a, hpart]

theorem SameUnits.tokens (h : SameUnits s t) (a : Nat) : (coreAt t a).tokens = (coreAt s a).tokens := h.part a Core.tokens (fun _ => rfl)
theorem SameUnits.tiles (h : SameUnits s t) (a : Nat) : (coreAt t a).tiles = (coreAt s a).tiles := h.part a Core.tiles (fun _ => rfl)
theorem SameUnits.slots (h : SameUnits s t) (a : Nat) : (coreAt t a).slots = (coreAt s a).slots := h.part a Core.slots (fun _ => rfl)
theorem SameUnits.started (h : SameUnits s t) (a : Nat) : (coreAt t a).started = (coreAt s a).started := h.part a Core.started (fun _ => rfl)

theorem sameUnits_of_cores (h : t.cores = s.cores) : SameUnits s t := fun a => by rw [coreAt_congr h]

theorem sameUnits_modCore (s : State) (b : Nat) (f : Core → Core) (hf : ∀ c, unitOf (f c) = unitOf c) : SameUnits s (modCore s b f) := fun a => by
  rw [coreAt_modCore]
  split
  · rename_i h; rw [hf, h]
  · rfl

/-- One change of a core's units in two states that agree in them. -/
theorem SameUnits.modCore (h : SameUnits s t) (b : Nat) (f : Core → Core) (hf : ∀ c, unitOf (f c) = unitOf (f (unitOf c))) :
    SameUnits (modCore s b f) (modCore t b f) := fun a => by
  rw [coreAt_modCore, coreAt_modCore]
  split
  · rw [hf, h b, ← hf]
  · exact h a

theorem sameUnits_modThread (s : State) (b n : Nat) (f : Thread → Thread) : SameUnits s (modThread s b n f) := sameUnits_modCore s b _ (fun _ => rfl)

theorem sameUnits_modQueue (s : State) (q : Nat) (f : QEntry → QEntry) : SameUnits s (modQueue s q f) := sameUnits_of_cores (modQueue_cores s q f)

theorem sameUnits_setPos (s : State) (u : Issue) (p : Int) : SameUnits s (setPos s u p) := by
  unfold setPos
  simp only
  split
  · exact sameUnits_modThread s _ _ _
  · exact sameUnits_modQueue s _ _

theorem sameUnits_afterFetch (s : State) (u : Issue) : SameUnits s (afterFetch s u) :=
  ((sameUnits_setPos s u _).trans (sameUnits_of_cores (bumpWrap_cores _ _ _ _ _))).trans (sameUnits_modCore _ _ _ (fun _ => rfl))

theorem sameUnits_traceRec (s : State) (u : Issue) (h : Hdr) (kind : Nat) : SameUnits s (traceRec s u h kind) :=
  sameUnits_of_cores (traceRec_frame s u h kind).2.1

theorem sameUnits_attachNext (s : State) (core site n left : Nat) : SameUnits s (attachNext s core site n left) := by
  unfold attachNext
  simp only
  split
  · exact SameUnits.refl s
  · exact (sameUnits_modQueue s _ _).trans (sameUnits_modThread _ _ _ _)

theorem sameUnits_leaveQueue (s : State) (q site n : Nat) : SameUnits s (leaveQueue s q site n) :=
  (sameUnits_modQueue s _ _).trans (sameUnits_modThread _ _ _ _)

theorem sameUnits_loopTurn (u : Issue) (n : Nat) (s : State) : SameUnits s (loopTurn s u n) := by
  induction n generalizing s with
  | zero => exact SameUnits.refl s
  | succ n ih =>
    unfold loopTurn
    simp only
    split
    · exact SameUnits.refl s
    · split
      · split
        · exact (sameUnits_modThread s _ _ _).trans (sameUnits_setPos _ _ _)
        · exact (sameUnits_modThread s _ _ _).trans (ih _)
      · exact SameUnits.refl s

theorem sameUnits_leaveIfEmpty (s : State) (u : Issue) : SameUnits s (leaveIfEmpty s u) := by
  unfold leaveIfEmpty
  simp only
  split
  · exact (sameUnits_leaveQueue s _ _ _).trans (sameUnits_attachNext _ _ _ _ _)
  · split
    · exact SameUnits.refl s
    · split
      · exact ((sameUnits_modThread s _ _ _).trans (sameUnits_modQueue _ _ _)).trans (sameUnits_attachNext _ _ _ _ _)
      · exact sameUnits_modThread s _ _ _

theorem sameUnits_goOn (s : State) (u : Issue) : SameUnits s (goOn s u) := by
  unfold goOn
  split
  · exact (sameUnits_loopTurn u 5 s).trans (sameUnits_leaveIfEmpty _ u)
  · exact SameUnits.refl s

theorem sameUnits_dropHeld (s : State) (p : Place × Instr → Bool) :
    SameUnits s { s with cores := s.cores.map (fun c => (c.1, { c.2 with held := c.2.held.filter p })) } := fun a => by
  have h := tGet_map freshCore (fun c => { c with held := c.held.filter p }) rfl s.cores a
  exact (congrArg unitOf h).trans rfl

theorem sameUnits_stopQueue (s : State) (q code : Nat) (mark : Word) : SameUnits s (stopQueue s q code mark) := by
  unfold stopQueue
  split
  · exact SameUnits.refl s
  · split
    · exact SameUnits.refl s
    · have hdrop : ∀ g : State, g.cores = s.cores → SameUnits s { g with cores := g.cores.map (fun c =>
          (c.1, { c.2 with held := c.2.held.filter (fun x => !decide (instrQueue x.2 = some q)) })) } := fun g hg =>
        (sameUnits_of_cores hg).trans (sameUnits_dropHeld g _)
      have hcores : ∀ (e : QEntry) (r p : Nat) (f : Fld) (n : Nat), (bump (setQueue s q e) r p f n).cores = s.cores := fun _ _ _ _ _ => rfl
      simp only
      split
      · exact hdrop _ (hcores _ _ _ _ _)
      · split
        · exact ((hdrop _ (hcores _ _ _ _ _)).trans (sameUnits_modThread _ _ _ _)).trans (sameUnits_attachNext _ _ _ _ _)
        · exact hdrop _ (hcores _ _ _ _ _)

theorem msix_cores (s : State) (n : Nat) : (msix s n).cores = s.cores := by
  unfold msix; split <;> rfl

theorem irqEvent_cores (s : State) (r p bit : Nat) : (irqEvent s r p bit).cores = s.cores := by
  unfold irqEvent irqRise
  split
  · exact (msix_cores _ _).trans (setRegWord_cores s _ _ _ _)
  · exact setRegWord_cores s _ _ _ _

theorem latch_cores (s : State) (f : Report) : (latch s f).cores = s.cores := by
  obtain h | ⟨a, b, c, h⟩ := latch_cases s f
  · rw [h, bump_cores]
  · rw [h, irqEvent_cores, setRegWord_cores, setRegWord_cores, setRegWord_cores]

theorem sameUnits_raise (s : State) (f : Report) (hc : f.code / 256 ≠ 7) : SameUnits s (raise s f) := by
  obtain hstill | ⟨g, q, hstill, -, hraise⟩ := raise_still_or_stops s f hc
  · exact sameUnits_of_cores (hstill.cores.trans (latch_cores s f))
  · rw [hraise]
    exact (sameUnits_of_cores (hstill.cores.trans (latch_cores s f))).trans (sameUnits_stopQueue g q _ _)

end

end Sys2Proof.Machine
end

section
/-!
SUPPORT. An engine command that starts at once (R91 to R93): the state in which its effect begins, what that effect sees there, and the state behind it.
-/
namespace Sys2Proof.Machine

section
variable {u v : Issue} {s t e b : State} {h : Hdr} {i : Instr} {p : Place} {engine : Byte}

/-! ### The command starts -/

/-- The state in which the effect of v's command begins where u says: fetched, its wait taken there, its start traced. -/
def engineBegun (s : State) (v u : Issue) (h : Hdr) : State := traceRec (takeToken (afterFetch s v) u.site h) u h 0

/-- The state after a command whose effect led to b: it stands among the started ones of its place, and v's thread goes on. -/
def engineEnd (b : State) (v u : Issue) (p : Place) (h : Hdr) : State :=
  goOn (modCore b u.site (fun c => { c with started := c.started ++ [(p, h)] })) v

/-- v's command can enter its engine queue and start at once, acting where u says. -/
structure Starts (s : State) (v u : Issue) (h : Hdr) (i : Instr) (p : Place) (engine : Byte) : Prop where
  acts : actOn s v h = u
  fetch : fetchable s v h = true
  row : atRingHead s v i = true
  engine : h.engine = engine
  fence : (h.fence && !fenceMet s v.q) = false
  served : Machine.served s u.site p h = true
  room : placeLoad (coreAt s u.site) p < placeDepth p
  first : atHead (coreAt s u.site).held p i = true

theorem starts_of_engineRuns (hr : engineRuns s u h i p engine = true) : ∃ v, Starts s v u h i p engine := by
  unfold engineRuns at hr
  split at hr
  · cases hr
  · rename_i v _
    simp only [Bool.and_eq_true, decide_eq_true_eq] at hr
    obtain ⟨⟨⟨⟨⟨⟨⟨hacts, hfetch⟩, hrow⟩, hengine⟩, hfence⟩, hserved⟩, hroom⟩, hfirst⟩ := hr
    exact ⟨v, hacts, hfetch, hrow, hengine, by revert hfence; cases h.fence <;> simp, hserved, hroom, hfirst⟩

theorem Starts.issued (hs : Starts s v u h i p engine) : IssuedBy s u v := by
  have hf := hs.fetch
  unfold fetchable at hf
  simp only [Bool.and_eq_true, decide_eq_true_eq] at hf
  have hi := issuedBy_actOn (bound_of_issue hf.1.1) h
  rwa [hs.acts] at hi

theorem actOn_of_siteOf (hsite : ∀ k, siteOf t k = siteOf s k) (v : Issue) (h : Hdr) : actOn t v h = actOn s v h := by
  unfold actOn; rw [hsite]

/-- A command that starts at once, and whose effect is done. -/
theorem Starts.engineCmd_done {body : Body} (hs : Starts s v u h i p engine) (hb : body h (engineBegun s v u h) u = (b, .done)) :
    engineCmd i h false p engine body s = engineEnd b v u p h := by
  have hk := sameWaits_afterFetch s v
  have hacts : actOn (afterFetch s v) v h = u :=
    (actOn_of_siteOf (siteOf_frame (kept_afterFetch hs.issued.bound).frame hs.issued.bound.lt) v h).trans hs.acts
  have hroom : ¬placeDepth p ≤ placeLoad (coreAt (afterFetch s v) u.site) p := by
    have := hs.room
    unfold placeLoad at this ⊢
    rw [hk.held]; omega
  have hfirst : (atHead (coreAt (afterFetch s v) u.site).held p i && Machine.served (afterFetch s v) u.site p h) = true := by
    rw [hk.held, hk.served, hs.first, hs.served]; rfl
  have hstart : startEngine p body h (afterFetch s v) u = some (modCore b u.site (fun c => { c with started := c.started ++ [(p, h)] })) := by
    unfold startEngine
    rw [show traceRec (takeToken (afterFetch s v) u.site h) u h 0 = engineBegun s v u h from rfl, hb]
  unfold engineCmd
  rw [fetchRow_passed hs.fetch hs.row]
  simp only
  rw [if_neg (by simp [hs.engine]), hk.fence, if_neg (by simp [hs.fence]), hacts, if_neg hroom]
  unfold enterQueue
  simp only [hacts]
  rw [if_pos hfirst, hstart]
  rfl

/-! ### What surrounds its effect -/

theorem engineKept_begun (hi : IssuedBy s u v) (h : Hdr) : EngineKept u s (engineBegun s v u h) :=
  (((kept_afterFetch hi.bound).engine hi).trans (engineKept_takeToken _ h) hi.lt).trans (engineKept_traceRec _ u h 0) hi.lt

/-- Up to its effect a command changes no unit of a core but the token of its wait. -/
theorem sameUnits_engineBegun (s : State) (v u : Issue) (h : Hdr) : SameUnits (takeToken s u.site h) (engineBegun s v u h) :=
  ((sameUnits_afterFetch s v).modCore u.site _ (fun _ => rfl)).trans (sameUnits_traceRec _ u h 0)

theorem engineKept_end (hi : IssuedBy b u v) (p : Place) (h : Hdr) : EngineKept u b (engineEnd b v u p h) := by
  have hk : EngineKept u b (modCore b u.site (fun c => { c with started := c.started ++ [(p, h)] })) := engineKept_modCore _ _ (fun _ => rfl)
  have hi' := hi.of_frame hk.frame
  exact hk.trans ((kept_goOn hi'.bound).engine hi') hi.lt

theorem sameUnits_engineEnd (b : State) (v u : Issue) (p : Place) (h : Hdr) :
    SameUnits (modCore b u.site (fun c => { c with started := c.started ++ [(p, h)] })) (engineEnd b v u p h) := sameUnits_goOn _ v

theorem started_engineEnd (b : State) (v u : Issue) (p : Place) (h : Hdr) :
    (coreAt (engineEnd b v u p h) u.site).started = (coreAt b u.site).started ++ [(p, h)] := by
  rw [(sameUnits_engineEnd b v u p h).started, coreAt_modCore, if_pos rfl]

/-- A part of a core that starting a command leaves alone. -/
theorem part_engineEnd {α : Type} (part : Core → α) (hpart : ∀ c, part (unitOf c) = part c) (hstart : ∀ c l, part { c with started := l } = part c)
    (b : State) (v u : Issue) (p : Place) (h : Hdr) : part (coreAt (engineEnd b v u p h) u.site) = part (coreAt b u.site) := by
  rw [(sameUnits_engineEnd b v u p h).part _ part hpart, coreAt_modCore, if_pos rfl, hstart]

/-- The same of a part that the wait of a command leaves alone too. -/
theorem part_engineBegun {α : Type} (part : Core → α) (hpart : ∀ c, part (unitOf c) = part c) (hwait : ∀ c l, part { c with tokens := l } = part c)
    (s : State) (v u : Issue) (h : Hdr) : part (coreAt (engineBegun s v u h) u.site) = part (coreAt s u.site) := by
  rw [(sameUnits_engineBegun s v u h).part _ part hpart]
  unfold takeToken
  rw [coreAt_modCore, if_pos rfl, hwait]

/-- A wait that is served takes its count from its token (R93). -/
theorem tokenOf_engineBegun (hs : Machine.served s u.site p h = true) (v : Issue) (k : Nat) : (tokenOf (coreAt (engineBegun s v u h) u.site) k).toNat =
    (tokenOf (coreAt s u.site) k).toNat - (if k = h.waitTok.toNat then h.waitCnt.toNat else 0) := by
  have hmet := served_le hs
  have hcnt := h.waitCnt.isLt
  have htok : tokenOf (coreAt (engineBegun s v u h) u.site) k = tokenOf (coreAt (takeToken s u.site h) u.site) k := by
    unfold tokenOf; rw [(sameUnits_engineBegun s v u h).tokens]
  rw [htok]
  unfold takeToken
  rw [coreAt_modCore, if_pos rfl]
  show (tGet (0 : BitVec 16) (tPut 0 _ _ _) k).toNat = _
  rw [tGet_tPut]
  split
  · rename_i hk
    subst hk
    rw [BitVec.toNat_sub_of_le (by rw [BitVec.le_def, BitVec.toNat_setWidth]; omega), BitVec.toNat_setWidth]
    omega
  · rfl

/-- A command whose effect leaves the tokens and the started commands of its core alone has entered its queue and started. -/
theorem Starts.started_end (hs : Starts s v u h i p engine) (hkept : EngineKept u (engineBegun s v u h) b)
    (hstarted : (coreAt b u.site).started = (coreAt (engineBegun s v u h) u.site).started)
    (htokens : (coreAt b u.site).tokens = (coreAt (engineBegun s v u h) u.site).tokens) : Started s (engineEnd b v u p h) u h p := by
  have hbegun := engineKept_begun hs.issued h
  have hb := hbegun.trans hkept hs.issued.lt
  refine ⟨?_, fun k => ?_, (hb.trans (engineKept_end (hs.issued.of_frame hb.frame) p h) hs.issued.lt).frame⟩
  · rw [started_engineEnd, hstarted, part_engineBegun Core.started (fun _ => rfl) (fun _ _ => rfl)]
  · rw [← tokenOf_engineBegun hs.served v k]
    unfold tokenOf
    rw [part_engineEnd Core.tokens (fun _ => rfl) (fun _ _ => rfl), htokens]

/-- From the state before a command to the state after it. -/
theorem Starts.kept_end (hs : Starts s v u h i p engine) (hkept : EngineKept u (engineBegun s v u h) b) : EngineKept u s (engineEnd b v u p h) := by
  have hb := (engineKept_begun hs.issued h).trans hkept hs.issued.lt
  exact hb.trans (engineKept_end (hs.issued.of_frame hb.frame) p h) hs.issued.lt

end

end Sys2Proof.Machine
end

section
/-!
SUPPORT. Starch (R99 to R117, R566): what a conversion's scale, rounding and operands are at a command's start, and what its counts and faults leave.
-/
namespace Sys2Proof.Machine

section
variable {u v : Issue} {s t e b : State} {h : Hdr}

/-! ### What the effect of a command sees -/

/-- Nothing that an engine's command reads where it acts differs between two states: the core's registers and slots, the words of its engine's pages, the
contexts, the scratchpads, the thread's scalar registers. -/
structure SeesSame (u : Issue) (s t : State) : Prop where
  tiles : (coreAt t u.site).tiles = (coreAt s u.site).tiles
  accs : (coreAt t u.site).accs = (coreAt s u.site).accs
  slots : (coreAt t u.site).slots = (coreAt s u.site).slots
  stainRows : (coreAt t u.site).stainRows = (coreAt s u.site).stainRows
  words : ∀ p o, 0x12 ≤ p → p < 64 → o < 4096 → regWord t u.site p o = regWord s u.site p o
  ctxs : ∀ c, (ctxAt t c).map untraced = (ctxAt s c).map untraced
  scratch : t.store.scratch = s.store.scratch
  stainScratch : t.store.stainScratch = s.store.stainScratch
  regs : sameRegs u s t

theorem regWord_engineBegun (hi : IssuedBy s u v) (h : Hdr) {p o : Nat} (hp : 0x12 ≤ p) (hp' : p < 64) (ho : o < 4096) :
    regWord (engineBegun s v u h) u.site p o = regWord s u.site p o := by
  have htrace : (engineBegun s v u h).pages = (afterFetch s v).pages := (traceRec_frame _ u h 0).2.2.2.1
  have hf := (kept_afterFetch hi.bound).frame
  have hlt := hi.lt
  rw [regWord_congr htrace]
  by_cases hsite : u.site = v.site
  · rw [hsite]; exact hf.ownWords p o hp' ho (by omega) (by omega)
  · exact hf.words u.site p o hp' ho hsite (by omega)

theorem ctxAt_engineBegun (hi : IssuedBy s u v) (h : Hdr) (c : Nat) : (ctxAt (engineBegun s v u h) c).map untraced = (ctxAt s c).map untraced :=
  ((traceRec_frame _ u h 0).1.ctxs c).trans ((kept_afterFetch hi.bound).frame.ctxs c)

theorem seesSame_engineBegun (hi : IssuedBy s u v) (h : Hdr) : SeesSame u s (engineBegun s v u h) := by
  have hk := engineKept_begun hi h
  obtain ⟨m, hm⟩ := hk.store
  exact {
    tiles := part_engineBegun Core.tiles (fun _ => rfl) (fun _ _ => rfl) s v u h
    accs := part_engineBegun Core.accs (fun _ => rfl) (fun _ _ => rfl) s v u h
    slots := part_engineBegun Core.slots (fun _ => rfl) (fun _ _ => rfl) s v u h
    stainRows := part_engineBegun Core.stainRows (fun _ => rfl) (fun _ _ => rfl) s v u h
    words := fun _ _ => regWord_engineBegun hi h
    ctxs := ctxAt_engineBegun hi h
    scratch := by rw [hm]
    stainScratch := by rw [hm]
    regs := hk.regs }

/-- A part of a context that its trace counters do not bear on. -/
theorem SeesSame.ctxPart {α : Type} (h : SeesSame u s t) (part : Ctx → α) (hpart : ∀ x, part (untraced x) = part x) (c : Nat) :
    (ctxAt t c).map part = (ctxAt s c).map part := by
  have hc := congrArg (Option.map part) (h.ctxs c)
  simpa only [Option.map_map, Function.comp_def, hpart] using hc

theorem SeesSame.tileAt (h : SeesSame u s t) (j : Nat) : tileAt (coreAt t u.site) j = tileAt (coreAt s u.site) j := by
  unfold Machine.tileAt; rw [h.tiles]

theorem SeesSame.accAt (h : SeesSame u s t) (j : Nat) : accAt (coreAt t u.site) j = accAt (coreAt s u.site) j := by
  unfold Machine.accAt; rw [h.accs]

theorem SeesSame.slotAt (h : SeesSame u s t) (j : Nat) : slotAt t u.site j = slotAt s u.site j := by
  unfold Machine.slotAt; rw [h.slots]

theorem SeesSame.regStained (h : SeesSame u s t) (j rows : Nat) : regStained (coreAt t u.site) j rows = regStained (coreAt s u.site) j rows := by
  unfold Machine.regStained; rw [h.stainRows]

theorem SeesSame.fld (h : SeesSame u s t) {p : Nat} (f : Fld) (hp : 0x12 ≤ p) (hp' : p < 64) (ho : f.off < 4096) : fld t u.site p f = fld s u.site p f :=
  fld_congr (h.words p f.off hp hp' ho)

theorem SeesSame.spBase (h : SeesSame u s t) (c : Nat) : spBase t c = spBase s c := by
  have hc := h.ctxPart Ctx.spBase (fun _ => rfl) c
  unfold Machine.spBase
  cases hs : ctxAt s c <;> cases ht : ctxAt t c <;> simp [hs, ht] at hc ⊢
  exact hc

theorem SeesSame.spRows (h : SeesSame u s t) (c : Nat) : spRows t c = spRows s c := by
  have hc := h.ctxPart Ctx.spRows (fun _ => rfl) c
  unfold Machine.spRows
  cases hs : ctxAt s c <;> cases ht : ctxAt t c <;> simp [hs, ht] at hc ⊢
  exact hc

theorem SeesSame.spServed (h : SeesSame u s t) (owner : Nat) : spServed t u.site owner = spServed s u.site owner := by
  unfold Machine.spServed xbarOn
  rw [h.fld _ (by decide) (by decide) (by decide), h.words 0x17 0x044 (by decide) (by decide) (by decide)]

/-! ### Sources of a vector command -/

theorem SeesSame.sourceFault (h : SeesSame u s t) (o : VecOps) (rows : Nat) (w : Word) : sourceFault t u o rows w = sourceFault s u o rows w := by
  unfold Machine.sourceFault; rw [h.spRows]

theorem SeesSame.rowsStained (h : SeesSame u s t) (a n : Nat) : rowsStained t u.site a n = rowsStained s u.site a n := by
  unfold Machine.rowsStained; rw [h.stainScratch]

theorem SeesSame.sourceStained (h : SeesSame u s t) (o : VecOps) (rows : Nat) (w : Word) : sourceStained t u o rows w = sourceStained s u o rows w := by
  unfold Machine.sourceStained; simp only [h.regStained, h.rowsStained, h.spBase]

theorem SeesSame.sourceOf (h : SeesSame u s t) (o : VecOps) (rows : Nat) (w : Word) : sourceOf t u o rows w = sourceOf s u o rows w := by
  unfold Machine.sourceOf rowsSlice
  simp only [h.tileAt, h.accAt, h.spBase, h.scratch, h.regs (specReg w)]

theorem SeesSame.sourcesReady (h : SeesSame u s t) (o : VecOps) (n rows : Nat) : sourcesReady t u o n rows = sourcesReady s u o n rows := by
  unfold Machine.sourcesReady
  simp only [h.sourceFault, h.sourceStained, h.spServed]

/-! ### Roundings and scales -/

theorem SeesSame.rounding (h : SeesSame u s t) (round : Nat) (x : BitVec 16) (g : BitVec 24) : rounding t u round x g = rounding s u round x g := by
  have hloaded := h.ctxPart Ctx.loaded (fun _ => rfl) u.ctx
  have hseed := h.ctxPart Ctx.seed (fun _ => rfl) u.ctx
  have hbind : (ctxAt t u.ctx).bind Ctx.loaded = (ctxAt s u.ctx).bind Ctx.loaded := by
    simpa only [Option.bind_map, Function.id_comp] using congrArg (Option.bind · id) hloaded
  unfold Machine.rounding
  simp only [hbind, hseed, h.words 0x14 0x05C (by decide) (by decide) (by decide)]

theorem SeesSame.slotConvert (h : SeesSame u s t) (x : Slot) (fmt : Byte) (rnd : Nat → Rnd) (vals : Tab F32) (recorded : F32) :
    slotConvert t u.site x fmt rnd vals recorded = slotConvert s u.site x fmt rnd vals recorded := by
  have hctrl : ∀ hi lo, Machine.fld t u.site 0x14 ⟨0x040, hi, lo⟩ = Machine.fld s u.site 0x14 ⟨0x040, hi, lo⟩ := fun _ _ =>
    h.fld _ (by decide) (by decide) (by show 0x040 < 4096; decide)
  unfold Machine.slotConvert relaxLog2 decayShift redoMax
  simp only [hctrl]

end

/-! ### Slots -/

section
variable {u v : Issue} {s t e : State}

/-- A slot takes a value. -/
def putSlot (s : State) (site k : Nat) (x : Slot) : State := modCore s site (fun c => { c with slots := tIns c.slots k x })

theorem slotAt_putSlot (s : State) (site k : Nat) (x : Slot) (j : Nat) : slotAt (putSlot s site k x) site j = if j = k then x else slotAt s site j := by
  unfold Machine.slotAt putSlot
  rw [coreAt_modCore, if_pos rfl]
  exact tGet_tIns _ _ _ _ _

theorem slotAt_congr {site : Nat} (h : (coreAt t site).slots = (coreAt s site).slots) (j : Nat) : slotAt t site j = slotAt s site j := by
  unfold Machine.slotAt; rw [h]

theorem engineKept_putSlot (s : State) (k : Nat) (x : Slot) : EngineKept u s (putSlot s u.site k x) := engineKept_modCore s _ (fun _ => rfl)

/-- A part of a core that does not hold its slots. -/
theorem part_putSlot {α : Type} (part : Core → α) (hslots : ∀ c l, part { c with slots := l } = part c) (s : State) (site k : Nat) (x : Slot) :
    part (coreAt (putSlot s site k x) site) = part (coreAt s site) := by
  unfold putSlot; rw [coreAt_modCore, if_pos rfl, hslots]

/-! ### What a conversion leaves -/

/-- A step of a command's effect that leaves the frame and every core's units. -/
structure CountsOnly (u : Issue) (s t : State) : Prop where
  kept : EngineKept u s t
  units : SameUnits s t

theorem CountsOnly.refl (u : Issue) (s : State) : CountsOnly u s s := ⟨EngineKept.refl u s, SameUnits.refl s⟩

/-- A further such step, which the issuer's queue is still bound to. -/
theorem CountsOnly.next (h : CountsOnly u s t) (hi : IssuedBy s u v) (k : IssuedBy t u v → CountsOnly u t e) : CountsOnly u s e :=
  have ht := k (hi.of_frame h.kept.frame)
  ⟨h.kept.trans ht.kept hi.lt, h.units.trans ht.units⟩

/-- A counter of the Starch page. -/
theorem countsOnly_bump (u : Issue) (s : State) (f : Fld) (n : Nat) (ho : f.off < 4096) : CountsOnly u s (bump s u.site 0x14 f n) :=
  ⟨engineKept_bump s f n (by decide) ho, sameUnits_of_cores (bump_cores _ _ _ _ _)⟩

/-- A fault of the Starch page. -/
theorem countsOnly_raise (hi : IssuedBy s u v) (h : Hdr) (code effect : Nat) (hc : code / 256 ≠ 7) :
    CountsOnly u s (raise s (cmdReport u h code effect 0x14 0)) :=
  ⟨engineKept_raise hi h code effect 0 (by decide) hc, sameUnits_raise s _ hc⟩

theorem countsOnly_modCore (s : State) (f : Core → Core) (hf : ∀ c, unitOf (f c) = unitOf c) (ht : ∀ c, (f c).threads = c.threads) :
    CountsOnly u s (modCore s u.site f) := ⟨engineKept_modCore s f ht, sameUnits_modCore s _ f hf⟩

theorem countsOnly_suspectStep (u : Issue) (s : State) (code : Nat) : CountsOnly u s (suspectStep s code) :=
  ⟨engineKept_of_same rfl rfl rfl ⟨s.store.host, rfl⟩ rfl, sameUnits_of_cores rfl⟩

/-- The core's non-finite count and its fault once a step (R117). -/
theorem countsOnly_addNonfinite (hi : IssuedBy s u v) (h : Hdr) (n : Nat) : CountsOnly u s (addNonfinite s u h n) := by
  unfold addNonfinite
  split
  · exact CountsOnly.refl u s
  · have hbump := countsOnly_bump u s (wordFld 0x054) n (by decide)
    simp only
    split
    · exact hbump
    · have hraised := hbump.next hi fun _ => countsOnly_modCore _ (fun c => { c with nonfiniteRaised := true }) (fun _ => rfl) (fun _ => rfl)
      exact hraised.next hi fun hi => countsOnly_raise hi h 0x0201 5 (by decide)

/-- The saturation limit and its fault once a step (R111). -/
theorem countsOnly_checkSatLimit (hi : IssuedBy s u v) (h : Hdr) : CountsOnly u s (checkSatLimit s u h) := by
  unfold checkSatLimit
  split
  · exact CountsOnly.refl u s
  · have hraised : CountsOnly u s (modCore s u.site (fun c => { c with satRaised := true })) := countsOnly_modCore s _ (fun _ => rfl) (fun _ => rfl)
    simp only
    split
    · exact (hraised.next hi fun hi => countsOnly_raise hi h 0x0210 3 (by decide)).next hi fun _ => countsOnly_suspectStep u _ _
    · exact hraised.next hi fun hi => countsOnly_raise hi h 0x0210 6 (by decide)

/-- A conversion into a format without a tile scale (R566). -/
theorem convertTile_plain (hi : IssuedBy s u v) (h : Hdr) (owner slot : Nat) {fmt : Byte} (rnd : Nat → Rnd) (vals : Tab F32) (recorded : Option F32)
    (nans : Nat) (hfmt : tileScaled fmt = false) :
    ∃ t, convertTile s u h owner slot fmt rnd vals recorded nans = .ok (t, encodeTile fmt 0x3F800000 rnd vals, none) ∧ CountsOnly u s t := by
  unfold convertTile
  rw [if_neg (by simp [hfmt])]
  refine ⟨_, rfl, ?_⟩
  exact ((countsOnly_bump u s _ _ (by decide)).next hi fun _ => countsOnly_bump u _ _ _ (by decide)).next hi fun hi => countsOnly_addNonfinite hi h _

/-- A conversion through a slot that takes it: the slot takes its history, and everything else is counted (R101 to R112). -/
theorem convertTile_slot (hi : IssuedBy s u v) (h : Hdr) {owner slot : Nat} {fmt : Byte} (rnd : Nat → Rnd) (vals : Tab F32) {recorded : Option F32}
    (nans : Nat) (hfmt : tileScaled fmt = true) (hslot : slotFault (slotAt s u.site slot) owner fmt recorded = none) :
    let r := slotConvert s u.site (slotAt s u.site slot) fmt rnd vals (recorded.getD 0)
    ∃ t, convertTile s u h owner slot fmt rnd vals recorded nans = .ok (t, r.enc, some r.scale) ∧ CountsOnly u (putSlot s u.site slot r.slot) t := by
  intro r
  unfold convertTile
  rw [if_pos hfmt]
  simp only [hslot]
  refine ⟨_, rfl, ?_⟩
  have hi' : IssuedBy (putSlot s u.site slot r.slot) u v := hi.of_frame (engineKept_putSlot s slot r.slot).frame
  exact (((((countsOnly_bump u _ _ _ (by decide)).next hi' fun _ => countsOnly_bump u _ _ _ (by decide)).next hi' fun _ =>
    countsOnly_bump u _ _ _ (by decide)).next hi' fun _ => countsOnly_bump u _ _ _ (by decide)).next hi' fun hi =>
    countsOnly_addNonfinite hi h _).next hi' fun hi => countsOnly_checkSatLimit hi h

end

end Sys2Proof.Machine
end

section
/-!
PROOF. SLOT_SETUP (R100, R113, R164) and CVT into a tile register (R101, R163, R566, R568): obligations O16 and O17.
-/
namespace Sys2Proof.Machine

section
variable {u v : Issue} {s t e : State} {h : Hdr} {i : Instr} {p : Place} {engine : Byte}

/-! ### SLOT_SETUP -/

/-- The slot that SLOT_SETUP sets, its history anew (R113, R164). -/
def setupSlot (o : SetupOps) : Slot :=
  { target := o.target, owner := o.owner, mode := o.mode, headroom := o.headroom, hasInit := o.hasInit
    initExp := o.initExp.toInt, valid := false, clean := 0, corr := 0, scaleExp := 0, est := 0 }

/-- The operands that SLOT_SETUP takes (R164). -/
structure SetupTaken (o : SetupOps) : Prop where
  unreserved : o.reserved = false
  owner : o.owner.toNat ≠ 3
  initExp : o.hasInit = true → -126 ≤ o.initExp.toInt
  initGiven : o.mode = 2 → o.hasInit = true

theorem setupBody_done {o : SetupOps} (ho : SetupTaken o) (page : Nat) (h : Hdr) (s : State) (u : Issue) :
    setupBody o.owner.toNat page o h s u = (putSlot s u.site o.slot.toNat (setupSlot o), .done) := by
  have hbad : (o.reserved || decide (o.owner = 3) || (o.hasInit && decide (o.initExp.toInt < -126)) || (decide (o.mode = 2) && !o.hasInit)) = false := by
    have howner : ¬o.owner = 3 := fun e => ho.owner (by rw [e]; rfl)
    have hexp : ¬(o.hasInit = true ∧ o.initExp.toInt < -126) := fun ⟨hi, hlt⟩ => absurd (ho.initExp hi) (by omega)
    have hgiven : ¬(o.mode = 2 ∧ o.hasInit = false) := fun ⟨hm, hn⟩ => Bool.false_ne_true (hn.symm.trans (ho.initGiven hm))
    rw [ho.unreserved, Bool.false_or, decide_eq_false howner, Bool.false_or, Bool.or_eq_false_iff]
    exact ⟨by simpa using hexp, by simpa using hgiven⟩
  unfold setupBody
  rw [hbad]
  simp only [Bool.false_eq_true, if_false, ne_eq, not_true_eq_false]
  rfl

/-- SLOT_SETUP on the queue of any engine that owns slots. -/
theorem setup_starts {o : SetupOps} {page : Nat} (ho : SetupTaken o) (hr : engineRuns s u h i p engine = true)
    (hx : exec i s = .next (engineCmd i h false p engine (setupBody o.owner.toNat page o) s)) :
    ∃ t, exec i s = .next t ∧ Started s t u h p ∧ slotAt t u.site o.slot.toNat = setupSlot o ∧
      (∀ j, j ≠ o.slot.toNat → slotAt t u.site j = slotAt s u.site j) ∧ (coreAt t u.site).tiles = (coreAt s u.site).tiles ∧
      (coreAt t u.site).accs = (coreAt s u.site).accs ∧ sameRegs u s t ∧ sameMemory s t := by
  obtain ⟨v, hs⟩ := starts_of_engineRuns hr
  have hsees := seesSame_engineBegun hs.issued h
  have hkept : EngineKept u (engineBegun s v u h) (putSlot (engineBegun s v u h) u.site o.slot.toNat (setupSlot o)) := engineKept_putSlot _ _ _
  have hslots := fun j => (slotAt_congr (part_engineEnd Core.slots (fun _ => rfl) (fun _ _ => rfl) _ v u p h) j).trans
    (slotAt_putSlot (engineBegun s v u h) u.site o.slot.toNat (setupSlot o) j)
  refine ⟨_, hx.trans (congrArg _ (hs.engineCmd_done (setupBody_done ho page h _ u))), hs.started_end hkept ?_ ?_, ?_, fun j hj => ?_, ?_, ?_,
    (hs.kept_end hkept).regs, (hs.kept_end hkept).memory⟩
  · exact part_putSlot Core.started (fun _ _ => rfl) _ _ _ _
  · exact part_putSlot Core.tokens (fun _ _ => rfl) _ _ _ _
  · rw [hslots, if_pos rfl]
  · rw [hslots, if_neg hj, hsees.slotAt]
  · rw [part_engineEnd Core.tiles (fun _ => rfl) (fun _ _ => rfl), part_putSlot Core.tiles (fun _ _ => rfl), hsees.tiles]
  · rw [part_engineEnd Core.accs (fun _ => rfl) (fun _ _ => rfl), part_putSlot Core.accs (fun _ _ => rfl), hsees.accs]

/-! ### CVT into a tile register -/

/-- A tile register is written: its value, no stain, and a weight set loaded from it is gone (R70, R277). -/
def putTile (s : State) (site j : Nat) (x : TileReg) : State := modCore s site (fun c => setRegStain (setTile c j x) j [])

theorem tileAt_putTile (s : State) (site j : Nat) (x : TileReg) (k : Nat) :
    tileAt (coreAt (putTile s site j x) site) k = if k = j then x else tileAt (coreAt s site) k := by
  unfold putTile
  rw [coreAt_modCore, if_pos rfl]
  exact tGet_tIns _ _ _ _ _

theorem engineKept_putTile (s : State) (j : Nat) (x : TileReg) : EngineKept u s (putTile s u.site j x) := engineKept_modCore s _ (fun _ => rfl)

/-- A part of a core that does not depend on its tile registers. -/
theorem part_putTile {α : Type} (part : Core → α) (hpart : ∀ c j x, part (setRegStain (setTile c j x) j []) = part c) (s : State) (site j : Nat) (x : TileReg) :
    part (coreAt (putTile s site j x) site) = part (coreAt s site) := by
  unfold putTile; rw [coreAt_modCore, if_pos rfl, hpart]

/-- The values that CVT encodes (R568). -/
def cvtVals (s : State) (u : Issue) (o : VecOps) (sh : Shape) : Tab F32 :=
  elementwise (fun a _ _ => quiet32 a) (sourceOf s u o (vecRows o sh.rows) o.a) (.bcast 0) (.bcast 0) (vecRows o sh.rows) sh.cols

/-- The rounding that it names (R142, R163). -/
def cvtRnd (s : State) (u : Issue) (o : VecOps) : Nat → Rnd := rounding s u o.round.toNat o.tensorId o.tileIndex

/-- The tile scale that its destination holds. -/
def cvtOldScale (s : State) (u : Issue) (o : VecOps) : F32 := (tileAt (coreAt s u.site) (specTile o.d)).tileScale

/-- Its conversion through the slot that it names (R101 to R110). -/
def cvtConverted (s : State) (u : Issue) (o : VecOps) (sh : Shape) : Converted :=
  slotConvert s u.site (slotAt s u.site o.slot.toNat) o.formatOut (cvtRnd s u o) (cvtVals s u o sh) (cvtOldScale s u o)

/-- The tile that a conversion gives (R568). -/
def cvtTile (o : VecOps) (enc : Encoded) (scale : F32) : TileReg :=
  { format := o.formatOut, data := enc.data, scales := enc.scales, tileScale := scale, orient := false, rows := 0, cols := 0 }

/-- A CVT to a tile register whose operands the vector engine takes and whose source it can read (R163, R568). -/
structure CvtReady (s : State) (u : Issue) (o : VecOps) (sh : Shape) : Prop where
  dest : specKind o.d = 1
  shape : shapeOf o.formatOut = some sh
  round : o.round.toNat ≤ 3
  rows : o.rows.toNat ≤ sh.rows
  source : sourcesReady s u o 1 (vecRows o sh.rows) = true

theorem SeesSame.cvtReady (h : SeesSame u s t) {o : VecOps} {sh : Shape} (hc : CvtReady s u o sh) : CvtReady t u o sh :=
  ⟨hc.dest, hc.shape, hc.round, hc.rows, (h.sourcesReady o 1 _).trans hc.source⟩

theorem SeesSame.cvtVals (h : SeesSame u s t) (o : VecOps) (sh : Shape) : cvtVals t u o sh = cvtVals s u o sh := by
  unfold Machine.cvtVals; rw [h.sourceOf]

/-- CVT hands its decoded source to the conversion of its destination. -/
theorem cvtBody_ready {o : VecOps} {sh : Shape} (hc : CvtReady s u o sh) (h : Hdr) :
    cvtBody o h s u = writeVector h s u o (vecRows o sh.rows) (cvtVals s u o sh) 0 := by
  have hwork : workShape o true false = some (sh.rows, sh.cols) := by
    unfold workShape destShape; rw [hc.dest, hc.shape]; rfl
  have hround := hc.round
  have hrows := hc.rows
  obtain ⟨⟨hfault, hstain⟩, hserved⟩ : ((sourceFault s u o (vecRows o sh.rows) o.a = none) ∧ sourceStained s u o (vecRows o sh.rows) o.a = false) ∧
      (specKind o.a ≠ 3 ∨ spServed s u.site 3 = true) := by
    simpa [sourcesReady] using hc.source
  have hclean : [o.a].any (sourceStained s u o (vecRows o sh.rows)) = false := by simp [hstain]
  have hmet : (([o.d, o.a].any fun w => decide (specKind w = 3)) && !spServed s u.site 3) = false := by
    rcases hserved with hkind | hserved
    · simp [hc.dest, hkind]
    · simp [hserved]
  unfold cvtBody vectorBody
  simp only [hwork]
  rw [if_neg (by simp; omega)]
  simp only [List.take_succ_cons, List.take_zero]
  rw [show (if o.rows = 0 then sh.rows else o.rows.toNat) = vecRows o sh.rows from rfl]
  simp only [List.findSome?_cons, hfault, List.findSome?_nil, hmet, hclean, Bool.false_eq_true, if_false]
  rfl

/-- CVT to a tile register, where the conversion goes through. -/
theorem cvtBody_done {o : VecOps} {sh : Shape} {enc : Encoded} {scale : Option F32} (hsees : SeesSame u s e) (hc : CvtReady s u o sh) (h : Hdr)
    (hconv : convertTile e u h 0 o.slot.toNat o.formatOut (cvtRnd s u o) (cvtVals s u o sh) (some (cvtOldScale s u o)) 0 = .ok (t, enc, scale)) :
    cvtBody o h e u = (putTile t u.site (specTile o.d) (cvtTile o enc (scale.getD (cvtOldScale s u o))), .done) := by
  unfold cvtRnd cvtOldScale at hconv
  rw [cvtBody_ready (hsees.cvtReady hc)]
  unfold writeVector
  simp only [hc.dest, hsees.tileAt, hsees.rounding, hsees.cvtVals, hconv]
  rfl

/-- The tile registers after a command that wrote one and whose effect left the others alone. -/
theorem tileAt_engineEnd_putTile (hi : IssuedBy s u v) (htiles : (coreAt t u.site).tiles = (coreAt (engineBegun s v u h) u.site).tiles)
    (p : Place) (k : Nat) (x : TileReg) (j : Nat) :
    tileAt (coreAt (engineEnd (putTile t u.site k x) v u p h) u.site) j = if j = k then x else tileAt (coreAt s u.site) j := by
  rw [part_engineEnd (fun c => tileAt c j) (fun _ => rfl) (fun _ _ => rfl), tileAt_putTile, ← (seesSame_engineBegun hi h).tileAt]
  unfold tileAt
  rw [htiles]

theorem exec_cvt (h : Hdr) (o : VecOps) (s : State) : exec (.cvt h o) s = .next (engineCmd (.cvt h o) h false .vector 2 (cvtBody o) s) := rfl

/-- CVT into a format without a tile scale: the encoded tile, with the tile scale that the register had (R566). -/
theorem cvt_plain {o : VecOps} {sh : Shape} (hr : engineRuns s u h (.cvt h o) .vector 2 = true) (hc : CvtReady s u o sh)
    (hfmt : tileScaled o.formatOut = false) :
    ∃ t, exec (.cvt h o) s = .next t ∧ Started s t u h .vector ∧
      tileAt (coreAt t u.site) (specTile o.d) = cvtTile o (encodeTile o.formatOut 0x3F800000 (cvtRnd s u o) (cvtVals s u o sh)) (cvtOldScale s u o) ∧
      (∀ j, j ≠ specTile o.d → tileAt (coreAt t u.site) j = tileAt (coreAt s u.site) j) ∧ sameRegs u s t ∧ sameMemory s t := by
  obtain ⟨v, hs⟩ := starts_of_engineRuns hr
  have hi := hs.issued
  obtain ⟨t, hconv, hcount⟩ := convertTile_plain (hi.of_frame (engineKept_begun hi h).frame) h 0 o.slot.toNat (cvtRnd s u o) (cvtVals s u o sh)
    (some (cvtOldScale s u o)) 0 hfmt
  have hbody := cvtBody_done (seesSame_engineBegun hi h) hc h hconv
  have hkept := fun x => hcount.kept.trans (engineKept_putTile t (specTile o.d) x) hi.lt
  have htile := tileAt_engineEnd_putTile hi (hcount.units.tiles _) .vector (specTile o.d)
  refine ⟨_, (exec_cvt h o s).trans (congrArg _ (hs.engineCmd_done hbody)), hs.started_end (hkept _) ?_ ?_, ?_, fun j hj => ?_,
    (hs.kept_end (hkept _)).regs, (hs.kept_end (hkept _)).memory⟩
  · exact (part_putTile Core.started (fun _ _ _ => rfl) _ _ _ _).trans (hcount.units.started _)
  · exact (part_putTile Core.tokens (fun _ _ _ => rfl) _ _ _ _).trans (hcount.units.tokens _)
  · exact (htile _ _).trans (if_pos rfl)
  · exact (htile _ j).trans (if_neg hj)

/-- The conversion of a CVT through its slot. -/
theorem convertTile_cvt {o : VecOps} {sh : Shape} (hi : IssuedBy s u v) (h : Hdr) (hfmt : tileScaled o.formatOut = true)
    (hslot : slotFault (slotAt s u.site o.slot.toNat) 0 o.formatOut (some (cvtOldScale s u o)) = none) :
    ∃ t, convertTile (engineBegun s v u h) u h 0 o.slot.toNat o.formatOut (cvtRnd s u o) (cvtVals s u o sh) (some (cvtOldScale s u o)) 0 =
        .ok (t, (cvtConverted s u o sh).enc, some (cvtConverted s u o sh).scale) ∧
      CountsOnly u (putSlot (engineBegun s v u h) u.site o.slot.toNat (cvtConverted s u o sh).slot) t := by
  have hsees := seesSame_engineBegun hi h
  have hconv := convertTile_slot (hi.of_frame (engineKept_begun hi h).frame) h (cvtRnd s u o) (cvtVals s u o sh) (recorded := some (cvtOldScale s u o)) 0 hfmt
    (by rw [hsees.slotAt]; exact hslot)
  rw [hsees.slotAt, hsees.slotConvert] at hconv
  exact hconv

/-- CVT into a tile-scaled format: the encoded tile with the scale of the slot, which takes its history (R101 to R110). -/
theorem cvt_slot {o : VecOps} {sh : Shape} (hr : engineRuns s u h (.cvt h o) .vector 2 = true) (hc : CvtReady s u o sh)
    (hfmt : tileScaled o.formatOut = true) (hslot : slotFault (slotAt s u.site o.slot.toNat) 0 o.formatOut (some (cvtOldScale s u o)) = none) :
    ∃ t, exec (.cvt h o) s = .next t ∧ (coreAt t u.site).started = (coreAt s u.site).started ++ [(.vector, h)] ∧ EngineFrame u s t ∧
      tileAt (coreAt t u.site) (specTile o.d) = cvtTile o (cvtConverted s u o sh).enc (cvtConverted s u o sh).scale ∧
      slotAt t u.site o.slot.toNat = (cvtConverted s u o sh).slot ∧ (∀ j, j ≠ o.slot.toNat → slotAt t u.site j = slotAt s u.site j) ∧
      (∀ j, j ≠ specTile o.d → tileAt (coreAt t u.site) j = tileAt (coreAt s u.site) j) ∧ sameRegs u s t ∧ sameMemory s t := by
  obtain ⟨v, hs⟩ := starts_of_engineRuns hr
  have hi := hs.issued
  have hsees := seesSame_engineBegun hi h
  obtain ⟨t, hconv, hcount⟩ := convertTile_cvt (sh := sh) hi h hfmt hslot
  generalize cvtConverted s u o sh = r at *
  have hbody := cvtBody_done hsees hc h hconv
  have hend := hs.kept_end (((engineKept_putSlot _ o.slot.toNat r.slot).trans hcount.kept hi.lt).trans
    (engineKept_putTile t (specTile o.d) (cvtTile o r.enc r.scale)) hi.lt)
  have htile := tileAt_engineEnd_putTile hi ((hcount.units.tiles _).trans (part_putSlot Core.tiles (fun _ _ => rfl) _ _ _ _)) .vector (specTile o.d)
    (cvtTile o r.enc r.scale)
  have hslots : ∀ j, slotAt (engineEnd (putTile t u.site (specTile o.d) (cvtTile o r.enc r.scale)) v u .vector h) u.site j =
      if j = o.slot.toNat then r.slot else slotAt s u.site j := fun j => by
    rw [slotAt_congr (part_engineEnd Core.slots (fun _ => rfl) (fun _ _ => rfl) _ v u .vector h),
      slotAt_congr (part_putTile Core.slots (fun _ _ _ => rfl) _ _ _ _), slotAt_congr (hcount.units.slots _), slotAt_putSlot, hsees.slotAt]
  refine ⟨_, (exec_cvt h o s).trans (congrArg _ (hs.engineCmd_done hbody)), ?_, hend.frame, ?_, ?_, fun j hj => ?_, fun j hj => ?_, hend.regs, hend.memory⟩
  · rw [started_engineEnd, part_putTile Core.started (fun _ _ _ => rfl), hcount.units.started, part_putSlot Core.started (fun _ _ => rfl),
      part_engineBegun Core.started (fun _ => rfl) (fun _ _ => rfl)]
  · exact (htile _).trans (if_pos rfl)
  · exact (hslots _).trans (if_pos rfl)
  · exact (hslots j).trans (if_neg hj)
  · exact (htile j).trans (if_neg hj)

end

/-! ### The obligations -/

/-- Settles O17: the three forms of SLOT_SETUP are one body, which sets the slot anew and leaves every other unit of the core. -/
theorem slotsSetUp : Obligations.SlotsSetUp := by
  unfold Obligations.SlotsSetUp
  intro s u h o hreserved howner hexp hgiven x hx hr hown
  have ho : SetupTaken o := ⟨hreserved, howner, hexp, hgiven⟩
  simp only [List.mem_cons, List.not_mem_nil, or_false] at hx
  obtain rfl | rfl | rfl := hx
  case inl => exact setup_starts (page := 0x13) ho hr (by rw [hown]; rfl)
  case inr.inl => exact setup_starts (page := 0x16) ho hr (by rw [hown]; rfl)
  case inr.inr => exact setup_starts (page := 0x15) ho hr (by rw [hown]; rfl)

/-- Settles O16: CVT encodes its decoded source as its format asks, through the slot where the format is tile-scaled. -/
theorem conversionsEncode : Obligations.ConversionsEncode := by
  unfold Obligations.ConversionsEncode
  intro s u h o sh hdest hshape hround hrows hr hsource
  have hc : CvtReady s u o sh := ⟨hdest, hshape, hround, hrows, hsource⟩
  exact ⟨cvt_plain hr hc, cvt_slot hr hc⟩

end Sys2Proof.Machine
end
